-- ==== Sys2Proof/Word.lean ====
section
/-! DEFINITION. The words of the part: bytes, samples, wrapping counters, pointers and digests (00_scope.md section 4). -/

namespace Sys2Proof

/-- One byte of a message, of a frame or of the store. -/
abbrev Byte := BitVec 8

/-- A luma or chroma sample of 10 bits (02, section 2.1). -/
abbrev Pixel := BitVec 10

/-- An audio sample of 24 bits, two's complement (00, section 4.3). -/
abbrev Sample := BitVec 24

/-- A counter 0..4,294,967,295 that wraps to 0. -/
abbrev Counter := BitVec 32

/-- A sequence number 0..65535 that wraps to 0. -/
abbrev Seq := BitVec 16

/-- A 16-bit ones' complement sum (00, section 4.6). -/
abbrev Digest := BitVec 16

/-- A pointer 0..511 around a path's ring of 512 cells (07, Table 7-2). -/
abbrev Pointer := BitVec 9

/-- A time in units of 1/12,288,000 s. DESIGN CHOICE, notes/assumptions/1.md: every period, window and timer of the
spec is a whole number of these units. -/
abbrev Time := Nat

end Sys2Proof
end

