-- ==== Sys2Proof/Syntax.lean ====
section
/-! DEFINITION. The commands of the part: one constructor of `Instr` for each row of spec/opcode_table.json, and the
plain types their operands need. What a command does is said in Machine/. -/

namespace Sys2Proof

/-- The picture rate P (00, section 4.2). -/
inductive PictureRate where
  | p25 | p30 | p50 | p60
  deriving DecidableEq, Repr

/-- The store size strap; its fourth setting is unused and selects the default (00, Table 0-7). -/
inductive StoreStrap where
  | gib2 | gib4 | gib8 | unused
  deriving DecidableEq, Repr

/-- The control port rate strap; its fourth setting is unused and selects the default (00, Table 0-7). -/
inductive LineStrap where
  | mbit1 | mbit4 | mbit12 | unused
  deriving DecidableEq, Repr

/-- The straps, read at power-on (00, Table 0-7). -/
structure Straps where
  rate  : PictureRate
  store : StoreStrap
  line  : LineStrap
  deriving DecidableEq, Repr

/-- The two picture formats a port recognises (R14). -/
inductive Format where
  | f1080 | f720
  deriving DecidableEq, Repr

/-- A complete picture as it came in on a port: its lines top to bottom, the samples of a line left to right
(02, section 2.1). `WellFormed.lean` says when the planes have the size of the format. -/
structure Picture where
  format : Format
  luma   : List (List Pixel)
  cb     : List (List Pixel)
  cr     : List (List Pixel)
  deriving DecidableEq, Repr

/-- The commands. `elapsed` is the time that has passed since the command before (notes/assumptions/1.md). A command
without it is an expiry, which happens at its deadline, or the execution of a queued request, which happens at once. -/
inductive Instr where
  /-- POWER_ON: power is applied and the straps are read (R205). -/
  | powerOn (straps : Straps)
  /-- REFERENCE_PULSE: a pulse on the reference input (R1, R2). -/
  | referencePulse (elapsed : Time)
  /-- LOSS_WINDOW_EXPIRY: 1.5 periods without an accepted pulse (R2). -/
  | lossWindowExpiry
  /-- OSCILLATOR_TICK: the oscillator's period expires (R1). -/
  | oscillatorTick
  /-- AUDIO_FRAME_LATE: an audio frame reaches two ticks after its creation (R176). -/
  | audioFrameLate
  /-- PICTURE_DEADLINE: a live picture of a channel reaches its deadline tick (R178). -/
  | pictureDeadline (channel : Fin 6)
  /-- AUDIO_BLOCK_TICK: a block tick between picture ticks (R4, R128). -/
  | audioBlockTick
  /-- SCENE_DONE: the recall in progress reaches step R (R132). -/
  | sceneDone
  /-- METER_PERIOD_END: the period count reaches the meter period (R135). -/
  | meterPeriodEnd
  /-- SERIAL_SAMPLE_FRAME: a serial port delivers a sample frame (R122). -/
  | serialSampleFrame (elapsed : Time) (port : Fin 3) (samples : Vector Sample 8)
  /-- EMBEDDED_SAMPLE_FRAME: a video port hands over a sample pair of one of its embedded pairs (R123). -/
  | embeddedSampleFrame (elapsed : Time) (port : Fin 8) (pair : Fin 4) (left right : Sample)
  /-- VIDEO_PICTURE_START: a picture of so many active lines, carrying the pairs marked, begins on a port (R14). -/
  | videoPictureStart (elapsed : Time) (port : Fin 8) (lines : Nat) (pairs : Vector Bool 4)
  /-- VIDEO_PICTURE_COMPLETE: the last line of a picture arrives (R14). -/
  | videoPictureComplete (elapsed : Time) (port : Fin 8) (picture : Picture)
  /-- INPUT_LOSS_EXPIRY: 1.5 picture periods without a picture start on a port (R15). -/
  | inputLossExpiry (port : Fin 8)
  /-- PICTURE_CODED: coding of a channel's picture ends (R35). -/
  | pictureCoded (elapsed : Time) (channel : Fin 6)
  /-- INIT_PAGE: initialisation finishes writing a page (R65). -/
  | initPage (elapsed : Time)
  /-- PATROL_READ: the patrol interval expires (R83). -/
  | patrolRead
  /-- DEMAND_READ_END: the demand read for a clip's DATA frame ends (R184). -/
  | demandReadEnd (elapsed : Time) (clip : Nat)
  /-- HOME_FRAME_RECEIVED: cells from home arrive on a path, up to the last cell of a frame (R165). -/
  | homeFrameReceived (elapsed : Time) (path : Fin 4) (cells : List Byte)
  /-- CONFIRM_TIMEOUT: a clip's confirm deadline expires (R115). -/
  | confirmTimeout (clip : Nat)
  /-- HELLO_TIMEOUT: 100 ms without a good HELLO_REPLY (R150). -/
  | helloTimeout (path : Fin 4)
  /-- ACK_TIMEOUT: the ack deadline expires (R158). -/
  | ackTimeout (path : Fin 4)
  /-- CREDIT_TIMER_EXPIRY: the credit timer expires (R172). -/
  | creditTimerExpiry (path : Fin 4)
  /-- RETRY_REQUEST_REPEAT: the ack timeout expires after the last CREDIT with RETRY_REQUEST (R167). -/
  | retryRequestRepeat (path : Fin 4)
  /-- PATH_FRAME_END: the last cell of a frame is handed to the path port (R152). -/
  | pathFrameEnd (elapsed : Time) (path : Fin 4)
  /-- REQUEST_ARRIVAL: bytes arrive on the control line, up to the end of a frame that passes its CRC (R195). -/
  | requestArrival (elapsed : Time) (bytes : List Byte)
  /-- BAD_CONTROL_FRAME: bytes arrive that show a bad frame or a stray byte (R194). -/
  | badControlFrame (elapsed : Time) (bytes : List Byte)
  /-- UNKNOWN_REQUEST_KIND: the next queued request, of a kind that names no request, is executed (R196). -/
  | unknownRequestKind
  /-- CONTROL_FRAME_END: the last byte of a reply or notice is handed to the line (R197). -/
  | controlFrameEnd (elapsed : Time)
  /-- SET_TIMECODE: the execution of the queued request of that name, as in each row below (R5). -/
  | setTimecode
  /-- SET_REFERENCE (R6). -/
  | setReference
  /-- CUE_ADD (R7). -/
  | cueAdd
  /-- CUE_CANCEL (R8). -/
  | cueCancel
  /-- CUE_LIST (R9). -/
  | cueList
  /-- INPUT_INFO (R16). -/
  | inputInfo
  /-- CODER_SET (R18). -/
  | coderSet
  /-- CODER_INFO (R24). -/
  | coderInfo
  /-- PATH_RATE (R43). -/
  | pathRate
  /-- CLIP_SHARE (R44). -/
  | clipShare
  /-- BUDGET_INFO (R55). -/
  | budgetInfo
  /-- STORE_SET (R87). -/
  | storeSet
  /-- STORE_INFO (R88). -/
  | storeInfo
  /-- SEGMENT_INFO (R88). -/
  | segmentInfo
  /-- TIMELINE_INFO (R89). -/
  | timelineInfo
  /-- CLIP_OPEN (R94). -/
  | clipOpen
  /-- CLIP_CLOSE (R99). -/
  | clipClose
  /-- CLIP_MARK (R103). -/
  | clipMark
  /-- CLIP_LABEL (R105). -/
  | clipLabel
  /-- CLIP_RATE (R106). -/
  | clipRate
  /-- CLIP_SEND (R107). -/
  | clipSend
  /-- CLIP_HOLD (R110). -/
  | clipHold
  /-- CLIP_RELEASE (R111). -/
  | clipRelease
  /-- CLIP_DISCARD (R112). -/
  | clipDiscard
  /-- CLIP_TIMEOUT (R113). -/
  | clipTimeout
  /-- CLIP_INFO (R119). -/
  | clipInfo
  /-- CLIP_LIST (R119). -/
  | clipList
  /-- EMBED_SET (R123). -/
  | embedSet
  /-- BUS_SET (R125). -/
  | busSet
  /-- CHANNEL_SET (R129). -/
  | channelSet
  /-- SEND_SET (R129). -/
  | sendSet
  /-- SCENE_STORE (R130). -/
  | sceneStore
  /-- SCENE_RECALL (R131). -/
  | sceneRecall
  /-- OUTPUT_SET (R134). -/
  | outputSet
  /-- METER_SET (R136). -/
  | meterSet
  /-- RETURN_SET (R139). -/
  | returnSet
  /-- STREAM_SET (R141). -/
  | streamSet
  /-- MIXER_INFO (R144). -/
  | mixerInfo
  /-- PATH_OPEN (R147). -/
  | pathOpen
  /-- PATH_CLOSE (R148). -/
  | pathClose
  /-- PATH_SET (R149). -/
  | pathSet
  /-- PATH_INFO (R173). -/
  | pathInfo
  /-- SEND_INFO (R192). -/
  | sendInfo
  /-- NOTICE_SET (R199). -/
  | noticeSet
  /-- STATUS (R202). -/
  | status
  /-- RESET (R203). -/
  | reset
  /-- MEMORY_ERROR: the bits named of one 64-byte line of the attached DRAM fall into error (R80). -/
  | memoryError (elapsed : Time) (page line : Nat) (bits : List Nat)
  deriving DecidableEq, Repr

end Sys2Proof
end

