-- ==== Sys2Proof/Decode.lean ====
section
/-! DEFINITION. The commands that a word of bits spells. No row of spec/opcode_table.json gives bits ("fields" is empty
and there is no "fixed"), so no word spells a command. Requests travel as control frames: their bytes are read in
Machine/Control.lean and Machine/Operands.lean. -/

namespace Sys2Proof

/-- The command that the `nbits` low bits of `w` spell by the table's bits: none, since no row has bits. -/
def decodeTableWord (_nbits _w : Nat) : Option Instr := none

end Sys2Proof
end

