-- ==== Sys2Proof/Machine/Records.lean ====
section
/-! DEFINITION. The records the blocks keep, as plain data: one structure for each table of the spec, with the fields
the table names. Reset values are in State.lean, operations in the other files of this folder. -/

namespace Sys2Proof.Machine

/-! ## Reference Timing Unit (01) -/

/-- A timecode HH:MM:SS:FF (00, section 4.2). -/
structure Timecode where
  hh : Nat
  mm : Nat
  ss : Nat
  ff : Nat
  deriving DecidableEq, Repr

/-- Reference states (Table 1-2). -/
inductive RefState where
  | free | locked | holdover
  deriving DecidableEq, Repr

/-- The five actions of a cue (Table 1-3). -/
inductive CueAction where
  | coderSet | sceneRecall | clipOpen | clipClose | clipMark
  deriving DecidableEq, Repr

/-- A cue record (Table 1-3); insertion order is the place in the list. -/
structure Cue where
  id     : Fin 16
  target : Timecode
  action : CueAction
  body   : List Byte
  deriving DecidableEq, Repr

/-- The timing record (Table 1-1). `lastTick` is the time of the last picture tick, `lastBlock` of the last audio
block tick; after a reset both are the moment of the reset (notes/assumptions/6.md). -/
structure Timing where
  refState       : RefState
  rate           : PictureRate
  timecode       : Timecode
  lastPulse      : Option Time
  lastTick       : Time
  lastBlock      : Time
  blockNumber    : Counter
  stagedTimecode : Option Timecode
  stagedRate     : Option PictureRate
  cues           : List Cue
  deriving DecidableEq, Repr

/-- Who handles a picture tick after the timecode is fixed and the cues are examined (R3, R4). The order is not given
(R19): it is the free value `State.tickOrders`. -/
inductive TickAgent where
  | coder (channel : Fin 6)
  | scheduler
  | mixer
  deriving DecidableEq, Repr

/-! ## Picture Coder (02) -/

/-- Input states of a port and of a channel (Table 2-1). -/
inductive InputState where
  | present | lost
  deriving DecidableEq, Repr

/-- The picture that last started on a port: its format and which embedded pairs it carries (R14, R123). -/
structure Arriving where
  format   : Format
  pairs    : Vector Bool 4
  complete : Bool
  deriving DecidableEq, Repr

/-- A video input port record (Table 2-1). -/
structure VideoPort where
  input     : InputState
  lastStart : Option Time
  held      : Option Picture
  heldNew   : Bool
  arriving  : Option Arriving
  deriving DecidableEq, Repr

/-- Modes of a coder channel (Table 2-2). -/
inductive CoderMode where
  | off | standby | live | record | both
  deriving DecidableEq, Repr

/-- Rate states (Table 3-3). -/
inductive RateState where
  | full | halfRate | starved
  deriving DecidableEq, Repr

/-- Why a picture is a REPEAT (R36). -/
inductive RepeatReason where
  | input | overflow | starved | halfRate
  deriving DecidableEq, Repr

/-- The kind of a coded picture (R33, R36). -/
inductive PictureKind where
  | coded
  | repeated (reason : RepeatReason)
  deriving DecidableEq, Repr

/-- What the 8-byte picture header gives (R33). -/
structure PictureHeader where
  kind     : PictureKind
  format   : Option Format
  q        : Nat
  cut      : Bool
  channel  : Fin 6
  sequence : Seq
  timecode : Timecode
  deriving DecidableEq, Repr

/-- What the 4-byte slice header gives (R32). -/
structure SliceHeader where
  number : Nat
  q      : Nat
  cut    : Bool
  deriving DecidableEq, Repr

/-- A staged change: a set of fields with values (R18). -/
structure Staged where
  mode         : Option CoderMode
  source       : Option (Fin 8)
  weight       : Option Nat
  floor        : Option Nat
  recordRate   : Option Nat
  qMin         : Option Nat
  qMax         : Option Nat
  segLength    : Option Nat
  liveDeadline : Option Nat
  deriving DecidableEq, Repr

/-- What a channel reads at picture start and holds for the whole picture (R34, R57). -/
structure InFlight where
  kind     : PictureKind
  picture  : Option Picture
  qStart   : Nat
  byteBudget : Nat
  timecode : Timecode
  deriving DecidableEq, Repr

/-- A live buffer entry (Table 2-5); N is the number of its bytes. The deadline tick is that of R178. -/
structure LivePicture where
  sequence     : Seq
  timecode     : Timecode
  kind         : PictureKind
  bytes        : List Byte
  started      : Nat
  codedAt      : Counter
  deadlineTick : Counter
  truncate     : Bool
  deriving DecidableEq, Repr

/-- A coder channel record (Table 2-2). `handed` says that the picture in progress has been handed over (R93, R95). -/
structure CoderChannel where
  mode         : CoderMode
  source       : Fin 8
  weight       : Nat
  floor        : Nat
  recordRate   : Nat
  qMin         : Nat
  qMax         : Nat
  q            : Nat
  fullness     : Nat
  bufferSize   : Nat
  byteBudget   : Nat
  rateState    : RateState
  forcedRepeat : Bool
  segLength    : Nat
  liveDeadline : Nat
  filling      : Option Nat
  input        : InputState
  sequence     : Seq
  staged       : Staged
  liveBuffer   : List LivePicture
  coded        : Counter
  repeats      : Counter
  lateDrops    : Counter
  cutPictures  : Counter
  inFlight     : Option InFlight
  handed       : Bool
  deriving DecidableEq, Repr

/-- A coder channel as CODER_INFO gives it (R24): the fields of Table 2-2, with the live buffer as its picture count and
its bytes (R41). The byte budget is the Rate Allocator's and is reported there. -/
structure CoderReport where
  mode         : CoderMode
  source       : Fin 8
  weight       : Nat
  floor        : Nat
  recordRate   : Nat
  qMin         : Nat
  qMax         : Nat
  q            : Nat
  fullness     : Nat
  bufferSize   : Nat
  rateState    : RateState
  forcedRepeat : Bool
  segLength    : Nat
  liveDeadline : Nat
  filling      : Option Nat
  input        : InputState
  sequence     : Seq
  staged       : Staged
  pictures     : Nat
  occupancy    : Nat
  coded        : Counter
  repeats      : Counter
  lateDrops    : Counter
  cutPictures  : Counter
  deriving DecidableEq, Repr

/-! ## Rate Allocator (03) -/

/-- Recompute events (Table 3-4). -/
inductive AllocCause where
  | pathState | pathRate | coderTake | clipShare | audioStreams | clipDemand
  deriving DecidableEq, Repr

/-- The allocation record (Table 3-1). -/
structure Allocation where
  pathRate    : Vector Nat 4
  carrying    : Vector Bool 4
  live        : Vector Bool 6
  weight      : Vector Nat 6
  floor       : Vector Nat 6
  streams     : Nat
  share       : Nat
  clipDemand  : Bool
  capacity    : Nat
  audioRes    : Nat
  clipRes     : Nat
  available   : Nat
  floorSum    : Nat
  weightSum   : Nat
  budget      : Vector Nat 6
  rateState   : Vector RateState 6
  leftover    : Nat
  clipAllowance : Nat
  number      : Seq
  deriving DecidableEq, Repr

/-! ## Segment Store (04) -/

/-- Memory: (address, byte) pairs, see Machine/Memory.lean for its canonical form. -/
abbrev Mem := List (Nat × Byte)

/-- Store states (Table 4-1). -/
inductive StoreState where
  | initialising | ready
  deriving DecidableEq, Repr

/-- States of a listed segment record; a FREE record is not listed (R67). -/
inductive SegState where
  | filling | complete
  deriving DecidableEq, Repr

/-- Close reasons (R72). -/
inductive CloseReason where
  | length | pages | leave | pause | discontinuity
  deriving DecidableEq, Repr

/-- Damage causes (R82). -/
inductive DamageCause where
  | patrol | demand | digest
  deriving DecidableEq, Repr

/-- Damaged pictures, as first and last picture index, with the cause (Table 4-3). -/
structure Damage where
  first : Nat
  last  : Nat
  cause : DamageCause
  deriving DecidableEq, Repr

/-- A FILLING or COMPLETE segment record (Table 4-3). `digest` is the running digest while FILLING and the segment
digest once COMPLETE. The timeline position is the place in the timeline. -/
structure Segment where
  id         : Nat
  state      : SegState
  channel    : Fin 6
  segLength  : Nat
  rate       : PictureRate
  firstTimecode : Timecode
  pictures   : Nat
  index      : List Nat
  byteLength : Nat
  pages      : List Nat
  digest     : Digest
  closeReason : Option CloseReason
  pinCount   : Nat
  damage     : Option Damage
  badPages   : List Nat
  deriving DecidableEq, Repr

/-- Writer states (Table 4-4). -/
inductive WriterState where
  | idle | writing | paused
  deriving DecidableEq, Repr

/-- A writer record (Table 4-4). -/
structure Writer where
  state    : WriterState
  gapStart : Option Timecode
  unstored : Counter
  deriving DecidableEq, Repr

/-- The store record (Table 4-1), the segment table, the timelines, the writers and the attached DRAM.
`segments` lists the records that are not FREE. `lineErrors` gives, for a line number (address div 64), the bits of the
line that are in error. -/
structure Store where
  state        : StoreState
  pageCount    : Nat
  initPosition : Nat
  freePool     : List Nat
  retired      : List Nat
  completion   : List Nat
  patrolInterval : Nat
  patrolPosition : Nat
  patrolDue    : Time
  demandCorrected : Counter
  patrolCorrected : Counter
  uncorrectable : Counter
  reclaimed    : Counter
  pagesRetired : Counter
  unstored     : Counter
  segments     : List Segment
  timelines    : Vector (List Nat) 6
  writers      : Vector Writer 6
  dram         : Mem
  lineErrors   : List (Nat × List Nat)
  deriving DecidableEq, Repr

/-! ## Clip Log (05) and the clip cursor (08) -/

/-- Record states (05). -/
inductive RecordState where
  | opened | closing | closed
  deriving DecidableEq, Repr

/-- Send states (Table 5-2). -/
inductive SendState where
  | idle | queued | sending | held | awaitConfirm | sent | failed
  deriving DecidableEq, Repr

/-- A marker of a clip (Table 5-1). -/
structure Marker where
  timecode : Timecode
  kind     : Nat
  note     : List Byte
  deriving DecidableEq, Repr

/-- A gap of a clip (Table 5-1): `count` is absent while the gap is open, `follows` when it lies before the range. -/
structure Gap where
  start   : Timecode
  count   : Option Nat
  follows : Option Nat
  deriving DecidableEq, Repr

/-- Who asked for an open or a close (R94, R101). -/
inductive Origin where
  | request | cue
  deriving DecidableEq, Repr

/-- The cause of a completed close (R101). -/
inductive CloseCause where
  | request | cue | leave | gapLimit
  deriving DecidableEq, Repr

/-- The position of a cursor (Table 8-3). A boundary lies after START (`none`) or after a segment; `passed` marks the
boundary at which the cursor stays as the end of the range (R186). -/
inductive Position where
  | beforeStart
  | boundary (after : Option Nat) (passed : Bool)
  | inside (segment offset : Nat)
  deriving DecidableEq, Repr

/-- Items decided and not yet emitted (Table 8-3). A queued DAMAGED item has disposition AFTER_DATA (R184, R185). -/
inductive QueuedItem where
  | resend (segment : Option Nat)
  | abort
  | damaged (segment : Nat)
  deriving DecidableEq, Repr

/-- The cursor of a clip (Table 8-3); the read in progress is kept in `Scheduler.reads`. A sent-list entry is marked
true for UNDAMAGED. -/
structure Cursor where
  position    : Position
  items       : List QueuedItem
  sequence    : Seq
  gapsEmitted : Nat
  segmentSum  : Digest
  sent        : List (Nat × Bool)
  deriving DecidableEq, Repr

/-- A clip record in use (Table 5-1). `range` lists the clip's segments in timeline order: its first and last entries
are the record's segment range, and the empty list is an absent range. -/
structure Clip where
  slot        : Nat
  id          : Nat
  channel     : Fin 6
  inPoint     : Timecode
  inPending   : Bool
  outPoint    : Option Timecode
  outPending  : Bool
  outSegment  : Option Nat
  closeOrigin : Option Origin
  label       : List Byte
  rating      : Nat
  urgent      : Bool
  markers     : List Marker
  markersSent : Nat
  range       : List Nat
  gaps        : List Gap
  closeDigest : Option Digest
  sendDigest  : Option Digest
  record      : RecordState
  send        : SendState
  hold        : Bool
  damaged     : Bool
  truncated   : Bool
  clamped     : Bool
  started     : Bool
  discardPending : Bool
  resendUsed  : Bool
  queueNumber : Option Counter
  confirmDeadline : Option Time
  cursor      : Option Cursor
  deriving DecidableEq, Repr

/-- The clip table and the three values the Clip Log keeps of its own (05, section 5.1). -/
structure ClipLog where
  clips        : List Clip
  nextId       : Nat
  queueCounter : Counter
  timeout      : Nat
  deriving DecidableEq, Repr

/-! ## Audio Mixer (06) -/

/-- A ramp of a value (Table 6-2). -/
structure Ramp where
  start  : Int
  target : Int
  length : Nat
  step   : Nat
  deriving DecidableEq, Repr

/-- A gain or level with its ramp. -/
structure Level where
  value : Int
  ramp  : Option Ramp
  deriving DecidableEq, Repr

/-- An input channel record (Table 6-2). -/
structure MixChannel where
  gain        : Level
  sends       : Vector Level 12
  saturations : Counter
  deriving DecidableEq, Repr

/-- The mode of a bus, with the fields present in FOLLOW (Table 6-3). -/
inductive BusMode where
  | off
  | mix
  | follow (reference : Fin 12) (excluded : Fin 32)
  deriving DecidableEq, Repr

/-- A bus record (Table 6-3). -/
structure Bus where
  mode        : BusMode
  gain        : Level
  meterPeak   : Nat
  meterSaturations : Nat
  deriving DecidableEq, Repr

/-- A scene snapshot (Table 6-4). -/
structure Scene where
  gains    : Vector Int 32
  sends    : Vector (Vector Int 12) 32
  modes    : Vector BusMode 12
  busGains : Vector Int 12
  deriving DecidableEq, Repr

/-- A change that waits for the next audio block tick (R129). -/
inductive Change where
  | gain (channel : Fin 32) (value : Int)
  | send (channel : Fin 32) (bus : Fin 12) (value : Int)
  | bus (bus : Fin 12) (mode : Option BusMode) (gain : Option Int)
  | embed (selection : Fin 2) (port : Fin 8) (pair : Fin 4)
  | output (port : Fin 2) (pair : Fin 4) (left right : Option (Fin 12))
  | recallScene (slot : Fin 16) (length : Nat) (scene : Scene)
  deriving DecidableEq, Repr

/-- The recall in progress (R132). -/
structure Recall where
  slot   : Fin 16
  length : Nat
  steps  : Nat
  deriving DecidableEq, Repr

/-- A sampled source: its input queue of frames (oldest first) and its counters (R122). -/
structure SampleQueue where
  frames : List (List Sample)
  slips  : Counter
  shorts : Counter
  deriving DecidableEq, Repr

/-- An embedded selection (R123). -/
structure Embedded where
  port  : Fin 8
  pair  : Fin 4
  queue : SampleQueue
  deriving DecidableEq, Repr

/-- An audio block of sample pairs, left then right. -/
abbrev PairBlock := List (Sample × Sample)

/-- States of a return buffer (Table 6-5). -/
inductive ReturnState where
  | priming | playing
  deriving DecidableEq, Repr

/-- A return jitter buffer record (Table 6-5). -/
structure ReturnBuffer where
  state      : ReturnState
  queue      : List PairBlock
  threshold  : Nat
  lastPlayed : Option PairBlock
  emptyTicks : Nat
  expected   : Option Seq
  framesQueued : Counter
  overruns   : Counter
  concealed  : Counter
  gaps       : Counter
  breaks     : Counter
  deriving DecidableEq, Repr

/-- A stream setting: DISABLED (`none`) or a left and a right bus (R141). -/
abbrev StreamSetting := Option (Fin 12 × Fin 12)

/-- An uplink audio stream record (Table 6-6). The frame in progress is its blocks with the first block number and
timecode. -/
structure Stream where
  setting    : StreamSetting
  staged     : Option StreamSetting
  sequence   : Seq
  blocks     : List PairBlock
  firstBlock : Counter
  firstTimecode : Timecode
  emitted    : Counter
  deriving DecidableEq, Repr

/-- One pair of an output port: the assigned buses and the block played on its two sides (R134). -/
structure OutputPair where
  left    : Option (Fin 12)
  right   : Option (Fin 12)
  playing : PairBlock
  deriving DecidableEq, Repr

/-- The Audio Mixer (06). -/
structure Mixer where
  channels    : Vector MixChannel 32
  buses       : Vector Bus 12
  scenes      : Vector (Option Scene) 16
  changes     : List Change
  recalling   : Option Recall
  serial      : Vector SampleQueue 3
  embedded    : Vector Embedded 2
  meterPeriod : Nat
  periodCount : Nat
  outputs     : Vector (Vector OutputPair 4) 2
  returns     : Vector ReturnBuffer 2
  streams     : Vector Stream 4
  deriving DecidableEq, Repr

/-! ## Path Controller (07) -/

/-- Path states (Table 7-4). -/
inductive PathState where
  | down | probe | carry | recover | drain
  deriving DecidableEq, Repr

/-- Causes of a change of path state (Table 7-5). -/
inductive PathCause where
  | opened | helloReply | helloLimit | close | retryRequest | ackTimeout | retryLimit | replayDone | homeClose
  | drained | drainTimeout
  deriving DecidableEq, Repr

/-- The clip items (08, R183). -/
inductive ClipItem where
  | start | data | mark | damaged | resend | abort | finish
  deriving DecidableEq, Repr

/-- Kind and owner of a retry entry (Table 7-3). The timecode of a VIDEO owner is the picture's
(notes/assumptions/20.md). -/
inductive Owner where
  | audio (stream : Fin 4)
  | video (channel : Fin 6) (sequence : Seq) (timecode : Timecode)
  | clip (item : ClipItem) (id : Nat) (segment : Option Nat)
  deriving DecidableEq, Repr

/-- Head and payload of an uplink frame as first built (Table 10-5). -/
structure FrameContents where
  kind      : Byte
  cells     : Nat
  stream    : Byte
  last      : Bool
  truncated : Bool
  sequence  : Seq
  payload   : List Byte
  deriving DecidableEq, Repr

/-- What is filled in when a frame starts (R154): the RETRY_REQUEST flag and the tail. -/
structure FrameTail where
  retryRequest : Bool
  creditReturn : Nat
  sendPointer  : Pointer
  ackPointer   : Pointer
  poisoned     : Bool
  deriving DecidableEq, Repr

/-- A retry entry (Table 7-3). -/
structure RetryEntry where
  start    : Pointer
  owner    : Owner
  poisoned : Bool
  sentAt   : Time
  contents : FrameContents
  deriving DecidableEq, Repr

/-- A control frame waiting on the control queue (07): CREDIT, marked when it was queued with RETRY_REQUEST (R172),
HELLO with its count, RETRY_MARK with the pointer from which the replay begins, CLOSE. -/
inductive ControlFrame where
  | credit (retryRequest : Bool)
  | hello (count : Nat)
  | retryMark (pointer : Pointer)
  | close
  deriving DecidableEq, Repr

/-- The frame being transmitted on a path; `entry` is the start pointer of its retry entry, absent for a control
frame. -/
structure PathFrame where
  contents : FrameContents
  tail     : FrameTail
  entry    : Option Pointer
  deriving DecidableEq, Repr

/-- A path record (Table 7-2). `replay` counts the retry entries before the replay position. `helloDue` is the time of
the next HELLO (R150), `requestQueued` the time the last CREDIT with RETRY_REQUEST was queued (R167), `creditFired` says
that the credit timer has expired since it was last set (R172, notes/assumptions/22.md), `arriving` the cells of a frame
that has not arrived whole (07, section 7.10). -/
structure Path where
  state       : PathState
  credit      : Nat
  ceiling     : Nat
  allowance   : Nat
  retry       : List RetryEntry
  sendPointer : Pointer
  acked       : Pointer
  ackDeadline : Option Time
  retryCount  : Nat
  replay      : Option Nat
  closePending : Bool
  closeOwed   : Bool
  helloCount  : Nat
  helloDue    : Option Time
  expected    : Pointer
  unreturned  : Nat
  creditTimer : Option Time
  creditFired : Bool
  receiveError : Bool
  requestQueued : Option Time
  homeRetry   : Bool
  transmitter : Option PathFrame
  control     : List ControlFrame
  ackTimeout  : Nat
  retryLimit  : Nat
  arriving    : List Byte
  framesStarted : Counter
  cellsStarted  : Counter
  framesReplayed : Counter
  retries     : Counter
  framesReceived : Counter
  framesRejected : Counter
  warnings    : Counter
  deriving DecidableEq, Repr

/-! ## Send Scheduler (08) -/

/-- An audio frame on the audio queue (R143, R176). -/
structure AudioFrame where
  stream   : Fin 4
  sequence : Seq
  created  : Counter
  payload  : List Byte
  deriving DecidableEq, Repr

/-- What the outcome of a demand read still reaches: the clip's cursor; no cursor any more, though the read goes on as
the clip's read in progress (a rewind, R190, or a cut, R191); or no clip, the record being freed (R189,
notes/assumptions/41.md). -/
inductive ReadUse where
  | cursor | rewound | freed
  deriving DecidableEq, Repr

/-- A demand read in progress (R184). `path` is the path whose frame `start` it feeds, absent once that path has
failed; `segment` is the segment read, absent once that segment has been freed (R67, R77), and `pages` are the pages it
had when the read began (notes/assumptions/33.md). -/
structure DemandRead where
  clip    : Nat
  path    : Option (Fin 4)
  start   : Pointer
  segment : Option Nat
  pages   : List Nat
  offset  : Nat
  length  : Nat
  use     : ReadUse
  deriving DecidableEq, Repr

/-- Lender and borrower of the clip class (R188). -/
structure Loan where
  lender   : Nat
  borrower : Nat
  deriving DecidableEq, Repr

/-- The scheduler record (Table 8-2). `waiting` says that the SENDING clip was found waiting (R187). -/
structure Scheduler where
  tickCount   : Counter
  channelAllowance : Vector Nat 6
  clipAllowance : Nat
  audioQueue  : List AudioFrame
  frameSequence : Vector Seq 6
  truncatePending : Vector Bool 6
  loan        : Option Loan
  waiting     : Bool
  reads       : List DemandRead
  audioStarted : Counter
  videoStarted : Counter
  clipStarted  : Counter
  audioLate    : Counter
  picturesLate : Counter
  rewinds      : Counter
  deriving DecidableEq, Repr

/-! ## Control Port (09): requests, replies and notices -/

/-- Result codes (Table 9-4). -/
inductive ResultCode where
  | ok | accepted | busy | badKind | badLength | badValue | badState | noRoom | notFound | notReady
  deriving DecidableEq, Repr

/-- The requests (Table 9-5), in the order of that table. -/
inductive RequestKind where
  | setTimecode | setReference | cueAdd | cueCancel | cueList | inputInfo | coderSet | coderInfo | pathRate | clipShare
  | budgetInfo | storeSet | storeInfo | segmentInfo | timelineInfo | clipOpen | clipClose | clipMark | clipLabel
  | clipRate | clipSend | clipHold | clipRelease | clipDiscard | clipTimeout | clipInfo | clipList | embedSet | busSet
  | channelSet | sendSet | sceneStore | sceneRecall | outputSet | meterSet | returnSet | streamSet | mixerInfo
  | pathOpen | pathClose | pathSet | pathInfo | sendInfo | noticeSet | status | reset
  deriving DecidableEq, Repr

/-- Scopes of RESET (R203). -/
inductive Scope where
  | full | keepStore
  deriving DecidableEq, Repr

/-- The last reset (R204). -/
inductive LastReset where
  | powerOn | full | keepStore
  deriving DecidableEq, Repr

/-- A segment as TIMELINE_INFO lists it (R89). -/
structure TimelineEntry where
  id       : Nat
  state    : SegState
  firstTimecode : Timecode
  pictures : Nat
  pinCount : Nat
  damaged  : Bool
  deriving DecidableEq, Repr

/-- A segment of a clip's range as CLIP_INFO lists it (R119). -/
structure RangeEntry where
  id       : Nat
  pinCount : Nat
  damaged  : Bool
  deriving DecidableEq, Repr

/-- A clip as CLIP_LIST lists it (R119). -/
structure ClipEntry where
  id       : Nat
  slot     : Nat
  channel  : Fin 6
  inPoint  : Timecode
  outPoint : Option Timecode
  record   : RecordState
  send     : SendState
  rating   : Nat
  urgent   : Bool
  hold     : Bool
  damaged  : Bool
  truncated : Bool
  clamped  : Bool
  deriving DecidableEq, Repr

/-- A retry entry as PATH_INFO lists it (R173). -/
structure RetryInfo where
  start    : Pointer
  cells    : Nat
  kind     : Byte
  owner    : Owner
  poisoned : Bool
  deriving DecidableEq, Repr

/-- The contents of PATH_INFO about the record of Table 7-2 (R173): the retry buffer as its cells held, the replay
position as the start pointer of its entry, the deadlines as times remaining, and of frames that are transmitted or wait
their kinds and lengths alone. -/
structure PathReport where
  state       : PathState
  credit      : Nat
  ceiling     : Nat
  allowance   : Nat
  cellsHeld   : Nat
  sendPointer : Pointer
  acked       : Pointer
  ackRemaining : Option Time
  retryCount  : Nat
  replay      : Option Pointer
  closePending : Bool
  closeOwed   : Bool
  helloCount  : Nat
  expected    : Pointer
  unreturned  : Nat
  creditRemaining : Option Time
  receiveError : Bool
  homeRetry   : Bool
  transmitter : Option (Byte × Nat)
  control     : List Byte
  ackTimeout  : Nat
  retryLimit  : Nat
  framesStarted : Counter
  cellsStarted  : Counter
  framesReplayed : Counter
  retries     : Counter
  framesReceived : Counter
  framesRejected : Counter
  warnings    : Counter
  deriving DecidableEq, Repr

/-- Page counts of the store (R88, R202). -/
structure PageCounts where
  free          : Nat
  inSegment     : Nat
  retired       : Nat
  uninitialised : Nat
  deriving DecidableEq, Repr

/-- The contents of STORE_INFO (R88). -/
structure StoreReport where
  state        : StoreState
  pageCount    : Nat
  initPosition : Nat
  pages        : PageCounts
  initialised  : Nat
  freeRecords  : Nat
  filling      : Nat
  complete     : Nat
  patrolInterval : Nat
  patrolPosition : Nat
  demandCorrected : Counter
  patrolCorrected : Counter
  uncorrectable : Counter
  reclaimed    : Counter
  pagesRetired : Counter
  unstored     : Counter
  writers      : Vector Writer 6
  deriving DecidableEq, Repr

/-- The contents of STATUS (R13, R202). -/
structure StatusReport where
  refState       : RefState
  rate           : PictureRate
  timecode       : Timecode
  blockNumber    : Counter
  stagedTimecode : Option Timecode
  stagedRate     : Option PictureRate
  cueCount       : Nat
  storeState     : StoreState
  initPosition   : Nat
  pageCount      : Nat
  pages          : PageCounts
  pathStates     : Vector PathState 4
  modes          : Vector CoderMode 6
  frameError     : Bool
  noticeOverrun  : Bool
  requestLost    : Bool
  mask           : BitVec 11
  notices        : Nat
  framesDiscarded : Counter
  requestsLost   : Counter
  metersDropped  : Counter
  noticesLost    : Counter
  lastReset      : LastReset
  deriving DecidableEq, Repr

/-- The contents of SEND_INFO about one channel (R192). -/
structure SendChannelReport where
  allowance     : Nat
  pictures      : Nat
  oldestDeadline : Option Counter
  frameSequence : Seq
  truncatePending : Bool
  deriving DecidableEq, Repr

/-- The contents of SEND_INFO about the SENDING clip (R192). -/
structure SendClipReport where
  id       : Nat
  position : Option Position
  items    : List ClipItem
  waits    : Bool
  deriving DecidableEq, Repr

/-- The contents of SEND_INFO (R192). -/
structure SendReport where
  tickCount     : Counter
  channels      : Vector SendChannelReport 6
  clipAllowance : Nat
  audioLength   : Nat
  oldestCreated : Option Counter
  sending       : Option SendClipReport
  loan          : Option Loan
  audioStarted  : Counter
  videoStarted  : Counter
  clipStarted   : Counter
  audioLate     : Counter
  picturesLate  : Counter
  rewinds       : Counter
  deriving DecidableEq, Repr

/-- The contents of MIXER_INFO about the whole mixer (R144). -/
structure MixerReport where
  changes     : Nat
  recalling   : Option Recall
  meterPeriod : Nat
  periodCount : Nat
  embedded    : Vector (Fin 8 × Fin 4 × Bool) 2
  outputs     : Vector (Vector (Option (Fin 12) × Option (Fin 12)) 4) 2
  serialShorts : Vector Counter 3
  serialSlips : Vector Counter 3
  embeddedShorts : Vector Counter 2
  embeddedSlips : Vector Counter 2
  deriving DecidableEq, Repr

/-- A gain or level as MIXER_INFO gives it: the value used for the last block and, while it has a ramp, the target and
the steps remaining (R144). -/
structure LevelReport where
  value : Int
  ramp  : Option (Int × Nat)
  deriving DecidableEq, Repr

/-- The contents of MIXER_INFO about an input channel (R144). -/
structure ChannelReport where
  gain        : LevelReport
  sends       : Vector LevelReport 12
  saturations : Counter
  deriving DecidableEq, Repr

/-- The contents of MIXER_INFO about a bus (R144); the mode has the reference bus and the excluded channel. -/
structure BusReport where
  mode        : BusMode
  gain        : Int
  meterPeak   : Nat
  meterSaturations : Nat
  deriving DecidableEq, Repr

/-- The contents of MIXER_INFO about a return buffer: Table 6-5 without the sample contents (R144). -/
structure ReturnReport where
  state      : ReturnState
  queueLength : Nat
  threshold  : Nat
  emptyTicks : Nat
  expected   : Option Seq
  framesQueued : Counter
  overruns   : Counter
  concealed  : Counter
  gaps       : Counter
  breaks     : Counter
  deriving DecidableEq, Repr

/-- The contents of MIXER_INFO about a stream (R144). -/
structure StreamReport where
  setting  : StreamSetting
  staged   : Option StreamSetting
  sequence : Seq
  blocks   : Nat
  emitted  : Counter
  deriving DecidableEq, Repr

/-- The contents of a reply with OK or ACCEPTED, as the owning rules give them; `omitted` counts the entries left out
(R198). Their byte layout is not in the spec (notes/assumptions/10.md). -/
inductive ReplyContents where
  /-- Nothing beyond the head. -/
  | none
  /-- CUE_ADD (R7). -/
  | cueId (id : Fin 16)
  /-- CUE_LIST (R9): each cue with its distance. -/
  | cues (entries : List (Cue × Nat)) (omitted : Nat)
  /-- INPUT_INFO (R16). -/
  | input (state : InputState) (held : Option Format) (periods : Option Nat) (channels : List (Fin 6))
  /-- CODER_SET (R18). -/
  | staged (change : Staged)
  /-- CODER_INFO (R24). -/
  | coder (report : CoderReport)
  /-- PATH_RATE (R43), CLIP_TIMEOUT (R113) and STORE_SET (R87): the value as stored. -/
  | value (stored : Nat)
  /-- BUDGET_INFO (R55). -/
  | budget (record : Allocation)
  /-- STORE_INFO (R88). -/
  | store (report : StoreReport)
  /-- SEGMENT_INFO (R88). -/
  | segment (record : Segment) (timelinePosition : Option Nat)
  /-- TIMELINE_INFO (R89). -/
  | timeline (count : Nat) (oldest : Option Timecode) (entries : List TimelineEntry) (omitted : Nat)
  /-- CLIP_OPEN (R94). -/
  | clipOpened (id slot : Nat) (inPoint : Timecode) (clamped : Bool)
  /-- CLIP_CLOSE (R99). -/
  | clipClosing (outPoint : Timecode) (clamped : Bool)
  /-- CLIP_MARK (R103). -/
  | marked (position : Nat) (truncatedLabel : Bool)
  /-- CLIP_LABEL (R105). -/
  | labelled (truncatedLabel : Bool)
  /-- CLIP_INFO (R119): the record without its cursor, the range, the time to the confirm deadline and the cursor as
  a segment and a byte offset. -/
  | clip (record : Clip) (remaining : Option Time) (cursor : Option (Option Nat × Nat)) (segments : List RangeEntry)
      (omitted : Nat)
  /-- CLIP_LIST (R119). -/
  | clips (entries : List ClipEntry) (omitted : Nat)
  /-- MIXER_INFO (R144): a channel. -/
  | mixChannel (report : ChannelReport)
  /-- MIXER_INFO (R144): a bus. -/
  | bus (report : BusReport)
  /-- MIXER_INFO (R144): a scene slot. -/
  | scene (snapshot : Option Scene)
  /-- MIXER_INFO (R144): a return buffer. -/
  | returnBuffer (report : ReturnReport)
  /-- MIXER_INFO (R144): a stream. -/
  | stream (report : StreamReport)
  /-- MIXER_INFO (R144): the whole mixer. -/
  | mixer (report : MixerReport)
  /-- PATH_SET (R149): the values as stored. -/
  | pathValues (ackTimeout retryLimit : Nat)
  /-- PATH_INFO (R173): the record, the retry entries and the stored rate. -/
  | path (report : PathReport) (entries : List RetryInfo) (rate : Nat) (omitted : Nat)
  /-- SEND_INFO (R192). -/
  | send (report : SendReport)
  /-- NOTICE_SET (R199). -/
  | mask (stored : BitVec 11)
  /-- STATUS (R202). -/
  | status (report : StatusReport)
  /-- RESET (R203). -/
  | scope (scope : Scope)
  deriving DecidableEq, Repr

/-- A reply: the result code and the contents (R198). -/
structure Reply where
  code     : ResultCode
  contents : ReplyContents
  deriving DecidableEq, Repr

/-- Outcome of a cue (R11). -/
inductive CueOutcome where
  | onTime | late
  deriving DecidableEq, Repr

/-- Cause of a TAKEN notice (R20, R23). -/
inductive TakeCause where
  | set | rateChange
  deriving DecidableEq, Repr

/-- Cause of a PAGE_RETIRED notice (R77, R84). -/
inductive RetireCause where
  | reclaim | patrol
  deriving DecidableEq, Repr

/-- Cause of a SEND_STATE notice (R107, R109). -/
inductive SendCause where
  | send | chosen | preempted | held | released | finish | confirmed | mismatch | timeout | pathFailure
  deriving DecidableEq, Repr

/-- Cause of a PICTURE_LATE notice (R178, R179). -/
inductive LateCause where
  | deadline | pathFailure
  deriving DecidableEq, Repr

/-- Cause of a RECEIVE_ERROR notice (R166). -/
inductive ReceiveCause where
  | length | crc | pointer | overrun
  deriving DecidableEq, Repr

/-- The figures of an ALLOCATED notice (R53). -/
structure AllocationReport where
  number    : Seq
  cause     : AllocCause
  capacity  : Nat
  audioRes  : Nat
  clipRes   : Nat
  available : Nat
  floorSum  : Nat
  weightSum : Nat
  leftover  : Nat
  clipAllowance : Nat
  live      : List (Fin 6 × Nat × RateState)
  deriving DecidableEq, Repr

/-- The notices (Table 9-6), with the contents the owning rules give. Their byte layout is not in the spec
(notes/assumptions/10.md). -/
inductive NoticeBody where
  -- TIMING (Table 1-4)
  | refLocked (previous : RefState)
  | refLost
  | timecodeTaken (replaced taken : Timecode)
  | rateTaken (old new : PictureRate) (tick : Timecode)
  | cue (id : Fin 16) (action : CueAction) (outcome : CueOutcome) (target : Timecode) (code : ResultCode)
  | cuesCleared (count : Nat)
  -- CODER (Table 2-6 and R58)
  | inputLost (channel : Fin 6) (port : Fin 8)
  | inputBack (channel : Fin 6) (port : Fin 8)
  | taken (channel : Fin 6) (cause : TakeCause) (before after : CoderMode) (changed : Staged)
  | discarded (channel : Fin 6) (fields : Staged)
  | pictureCut (channel : Fin 6) (timecode : Timecode) (slice : Nat)
  | liveFull (channel : Fin 6) (timecode : Timecode) (sequence : Seq)
  | overflow (channel : Fin 6) (sequence : Seq) (timecode : Timecode) (bytes byteBudget fullness : Nat)
  -- BUDGET (R53)
  | allocated (report : AllocationReport)
  -- STORE (Table 4-5)
  | storeReady (pageCount free : Nat)
  | storeFull (channel : Fin 6) (gapStart : Timecode) (free freeRecords : Nat)
  | storeResumed (channel : Fin 6) (stored : Option Timecode) (gapStart : Timecode) (unstored : Counter)
  | segmentDamaged (segment : Nat) (channel : Fin 6) (cause : DamageCause) (first last : Timecode) (clips : Nat)
  | pageRetired (page : Nat) (cause : RetireCause)
  -- CLIP (Table 5-3)
  | clipOpened (id : Nat) (channel : Fin 6) (inPoint : Timecode) (origin : Origin)
  | clipGap (id : Nat) (start : Timecode)
  | clipClosed (id : Nat) (outPoint : Timecode) (digest : Digest) (segments gaps : Nat) (cause : CloseCause)
  | sendState (id : Nat) (before after : SendState) (cause : SendCause)
  | clipDamaged (id segment : Nat)
  | clipDiscarded (id : Nat)
  -- AUDIO (Table 6-7)
  | sceneTaken (slot : Fin 16) (length : Nat) (block : Counter)
  | sceneDone (slot : Fin 16) (block : Counter)
  | meter (bus : Fin 12) (period peak saturations : Nat) (block : Counter)
  | returnPlaying (stream : Fin 2) (queueLength : Nat)
  | returnGap (stream : Fin 2) (block : Counter)
  | returnOverrun (stream : Fin 2) (count : Nat)
  | returnSequence (stream : Fin 2) (expected received : Seq) (firstBlock : Counter) (head : Timecode)
  | streamTaken (stream : Fin 4) (setting : StreamSetting) (block : Counter)
  -- PATH (Table 7-6): for a failure, AUDIO frames dropped, pictures counted late, clips reported
  | pathState (path : Fin 4) (before after : PathState) (cause : PathCause) (failure : Option (Nat × Nat × Nat))
  -- SEND (Table 8-6)
  | audioLate (stream : Fin 4) (sequence : Seq) (created : Counter)
  | pictureLate (channel : Fin 6) (timecode : Timecode) (sequence : Seq) (unstarted : Nat) (cause : LateCause)
  | rewound (id : Nat) (full : Bool) (segment : Option Nat)
  -- PROTOCOL (Tables 5-3, 6-7, 7-6)
  | confirmIgnored (path : Fin 4) (id : Nat) (digest : Digest)
  | badReturn (path : Fin 4) (stream : Byte) (count : Nat)
  | badHello (path : Fin 4) (ceiling : Nat)
  | creditOverflow (path : Fin 4) (before returned : Nat)
  | badAck (path : Fin 4) (received : Nat) (acked : Pointer) (held : Nat)
  | receiveError (path : Fin 4) (cause : ReceiveCause)
  | poisonReceived (path : Fin 4) (kind : Byte) (sendPointer : Nat)
  | unknownKind (path : Fin 4) (kind : Byte)
  | unexpectedKind (path : Fin 4) (kind : Byte)
  -- HOME_MESSAGE (Table 7-6)
  | homeMessage (path : Fin 4) (count : Nat) (payload : List Byte)
  deriving DecidableEq, Repr

/-- A notice with its head filled in: the timecode now when it was raised (R200). -/
structure Notice where
  body     : NoticeBody
  timecode : Timecode
  deriving DecidableEq, Repr

/-- Status of a request queue entry (Table 9-3); READY and SENDING hold the built reply. -/
inductive EntryStatus where
  | waiting
  | ready (reply : Reply)
  | sending (reply : Reply)
  deriving DecidableEq, Repr

/-- A request queue entry (Table 9-3). -/
structure Entry where
  kind   : Byte
  tag    : Byte
  body   : List Byte
  status : EntryStatus
  deriving DecidableEq, Repr

/-- The frame the control port's transmitter is sending (R197): a BUSY reply, the front entry's reply, or a notice. -/
inductive LineFrame where
  | busy (tag kind : Byte)
  | reply (tag kind : Byte) (reply : Reply)
  | notice (notice : Notice)
  deriving DecidableEq, Repr

/-- The Control Port (09). `receiver` holds the bytes taken since a start byte: none in HUNT, fewer than three in LENGTH,
else BODY (R194). `busy` holds tag and kind of each BUSY reply. -/
structure Control where
  receiver     : List Byte
  queue        : List Entry
  busy         : List (Byte × Byte)
  transmitter  : Option LineFrame
  notices      : List Notice
  mask         : BitVec 11
  frameError   : Bool
  noticeOverrun : Bool
  requestLost  : Bool
  framesDiscarded : Counter
  requestsLost : Counter
  metersDropped : Counter
  noticesLost  : Counter
  lastReset    : LastReset
  resetPending : Option Scope
  deriving DecidableEq, Repr

end Sys2Proof.Machine
end

