-- ==== Sys2Proof/Config.lean ====
section
/-! DEFINITION. What the spec leaves open: constants with no body, so that nothing can be proved of their values. -/

namespace Sys2Proof

/-- The 8 bytes of a picture header. R33 says what it gives, not how it is laid out (notes/assumptions/9.md). -/
opaque Config.pictureHeader : Machine.PictureHeader → Vector Byte 8

/-- The 4 bytes of a slice header. R32 says what it gives, not how it is laid out (notes/assumptions/9.md). -/
opaque Config.sliceHeader : Machine.SliceHeader → Vector Byte 4

/-- The bytes of a reply's contents. The spec gives no layout of them (notes/assumptions/10.md). -/
opaque Config.replyContents : Machine.ReplyContents → List Byte

/-- The bytes of a notice's contents after its head. The spec gives no layout of them (notes/assumptions/10.md). -/
opaque Config.noticeContents : Machine.NoticeBody → List Byte

/-- The n-th byte that is read from an uncorrectable line: "the data cannot be trusted" (R80;
notes/assumptions/5.md). -/
opaque Config.uncorrectableByte : Nat → Byte

/-- The sample that a port holds at a component (0 luma, 1 Cb, 2 Cr), a line and a column of a picture that came in at
a moment with planes not of its format's size. The part checks the count of lines alone (R14), and the spec does not
say what samples it then holds (notes/assumptions/18.md). -/
opaque Config.unstatedSample : Time → Fin 8 → Picture → Fin 3 → Nat → Nat → Pixel

end Sys2Proof
end

