-- ==== Sys2Proof/Machine/ResetValues.lean ====
section
/-! DEFINITION. The values each block's record takes at a reset, as the block's reset rule gives them. `now` is the
moment of the reset, `straps` the straps as read at power-on. -/

namespace Sys2Proof.Machine

/-- The value a strap of the store size selects, in pages (00, Table 0-7). -/
def pagesOfStrap : StoreStrap → Nat
  | .gib2 => 32768
  | .gib4 => 65536
  | .gib8 => 131072
  | .unused => 131072

/-- One millisecond (notes/assumptions/1.md). -/
def millisecond : Time := 12288

/-- R12. -/
def resetTiming (straps : Straps) (now : Time) : Timing where
  refState := .free
  rate := straps.rate
  timecode := ⟨0, 0, 0, 0⟩
  lastPulse := none
  lastTick := now
  lastBlock := now
  blockNumber := 0
  stagedTimecode := none
  stagedRate := none
  cues := []

/-- R42, Table 2-1. -/
def resetPort : VideoPort where
  input := .lost
  lastStart := none
  held := none
  heldNew := false
  arriving := none

/-- A staged change with no field given. -/
def Staged.empty : Staged where
  mode := none
  source := none
  weight := none
  floor := none
  recordRate := none
  qMin := none
  qMax := none
  segLength := none
  liveDeadline := none

/-- R42, Table 2-2: channel n has source V(n). -/
def resetCoder (n : Fin 6) : CoderChannel where
  mode := .off
  source := ⟨n.val, Nat.lt_of_lt_of_le n.isLt (by decide)⟩
  weight := 8
  floor := 0
  recordRate := 1000
  qMin := 0
  qMax := 51
  q := 26
  fullness := 0
  bufferSize := 0
  byteBudget := 0
  rateState := .full
  forcedRepeat := false
  segLength := 50
  liveDeadline := 3
  filling := none
  input := .lost
  sequence := 0
  staged := Staged.empty
  liveBuffer := []
  coded := 0
  repeats := 0
  lateDrops := 0
  cutPictures := 0
  inFlight := none
  handed := false

/-- R62, Table 3-1. -/
def resetAllocation : Allocation where
  pathRate := Vector.replicate 4 0
  carrying := Vector.replicate 4 false
  live := Vector.replicate 6 false
  weight := Vector.replicate 6 8
  floor := Vector.replicate 6 0
  streams := 0
  share := 4
  clipDemand := false
  capacity := 0
  audioRes := 0
  clipRes := 0
  available := 0
  floorSum := 0
  weightSum := 0
  budget := Vector.replicate 6 0
  rateState := Vector.replicate 6 .full
  leftover := 0
  clipAllowance := 0
  number := 0

/-- R90, Table 4-4. -/
def resetWriter : Writer where
  state := .idle
  gapStart := none
  unstored := 0

/-- R90, Table 4-1: the DRAM itself is not touched by the reset. -/
def resetStore (straps : Straps) (now : Time) (dram : Mem) (lineErrors : List (Nat × List Nat)) : Store where
  state := .initialising
  pageCount := pagesOfStrap straps.store
  initPosition := 0
  freePool := []
  retired := []
  completion := []
  patrolInterval := 20
  patrolPosition := 0
  patrolDue := now + 20 * millisecond
  demandCorrected := 0
  patrolCorrected := 0
  uncorrectable := 0
  reclaimed := 0
  pagesRetired := 0
  unstored := 0
  segments := []
  timelines := Vector.replicate 6 []
  writers := Vector.replicate 6 resetWriter
  dram := dram
  lineErrors := lineErrors

/-- R120. -/
def resetClipLog : ClipLog where
  clips := []
  nextId := 1
  queueCounter := 0
  timeout := 10

/-- A level at rest. -/
def restingLevel (value : Int) : Level where
  value := value
  ramp := none

/-- R145, Table 6-2. -/
def resetMixChannel : MixChannel where
  gain := restingLevel 0
  sends := Vector.replicate 12 (restingLevel 0)
  saturations := 0

/-- R145, Table 6-3. -/
def resetBus : Bus where
  mode := .off
  gain := restingLevel 16384
  meterPeak := 0
  meterSaturations := 0

/-- R145. -/
def resetSampleQueue : SampleQueue where
  frames := []
  slips := 0
  shorts := 0

/-- R145, Table 6-5. -/
def resetReturn : ReturnBuffer where
  state := .priming
  queue := []
  threshold := 8
  lastPlayed := none
  emptyTicks := 0
  expected := none
  framesQueued := 0
  overruns := 0
  concealed := 0
  gaps := 0
  breaks := 0

/-- R145, Table 6-6. -/
def resetStream : Stream where
  setting := none
  staged := none
  sequence := 0
  blocks := []
  firstBlock := 0
  firstTimecode := ⟨0, 0, 0, 0⟩
  emitted := 0

/-- A block of silence: 16 zero sample pairs. -/
def silentBlock : PairBlock := List.replicate 16 (0, 0)

/-- An output pair at reset: the two buses of section 6.7, or none, playing silence. -/
def outputPair (left right : Option (Fin 12)) : OutputPair where
  left := left
  right := right
  playing := silentBlock

/-- R145 and section 6.7. -/
def resetMixer : Mixer where
  channels := Vector.replicate 32 resetMixChannel
  buses := Vector.replicate 12 resetBus
  scenes := Vector.replicate 16 none
  changes := []
  recalling := none
  serial := Vector.replicate 3 resetSampleQueue
  embedded := #v[⟨0, 0, resetSampleQueue⟩, ⟨1, 0, resetSampleQueue⟩]
  meterPeriod := 60
  periodCount := 0
  outputs :=
    #v[#v[outputPair (some 0) (some 1), outputPair (some 2) (some 3), outputPair (some 4) (some 5),
        outputPair (some 6) (some 7)],
      #v[outputPair (some 8) (some 9), outputPair (some 10) (some 11), outputPair none none, outputPair none none]]
  returns := Vector.replicate 2 resetReturn
  streams := Vector.replicate 4 resetStream

/-- R174, Table 7-2. -/
def resetPath : Path where
  state := .down
  credit := 0
  ceiling := 16
  allowance := 0
  retry := []
  sendPointer := 0
  acked := 0
  ackDeadline := none
  retryCount := 0
  replay := none
  closePending := false
  closeOwed := false
  helloCount := 0
  helloDue := none
  expected := 0
  unreturned := 0
  creditTimer := none
  creditFired := false
  receiveError := false
  requestQueued := none
  homeRetry := false
  transmitter := none
  control := []
  ackTimeout := 200
  retryLimit := 4
  arriving := []
  framesStarted := 0
  cellsStarted := 0
  framesReplayed := 0
  retries := 0
  framesReceived := 0
  framesRejected := 0
  warnings := 0

/-- R193, Table 8-2. -/
def resetScheduler : Scheduler where
  tickCount := 0
  channelAllowance := Vector.replicate 6 0
  clipAllowance := 0
  audioQueue := []
  frameSequence := Vector.replicate 6 0
  truncatePending := Vector.replicate 6 false
  loan := none
  waiting := false
  reads := []
  audioStarted := 0
  videoStarted := 0
  clipStarted := 0
  audioLate := 0
  picturesLate := 0
  rewinds := 0

/-- R204: every enable on but that of METER (bit 10). -/
def resetControl (cause : LastReset) : Control where
  receiver := []
  queue := []
  busy := []
  transmitter := none
  notices := []
  mask := 0b01111111111#11
  frameError := false
  noticeOverrun := false
  requestLost := false
  framesDiscarded := 0
  requestsLost := 0
  metersDropped := 0
  noticesLost := 0
  lastReset := cause
  resetPending := none

end Sys2Proof.Machine
end

