-- ==== Sys2Proof/Machine/State.lean ====
section
/-! DEFINITION. The state of the whole part, the reasons a step can stop, and the state right after power-on. -/

namespace Sys2Proof.Machine

/-- Everything the spec gives the part, block by block, with the queue of waiting commands (first in, first out).
The model's own fields are `now`, the time; `freeReads`, the argument of the next free value read from an uncorrectable
line (notes/assumptions/5.md); `tickOrders`, the free order in which the blocks handle each coming picture tick
(notes/assumptions/3.md). -/
structure State where
  now        : Time
  straps     : Straps
  timing     : Timing
  ports      : Vector VideoPort 8
  coders     : Vector CoderChannel 6
  alloc      : Allocation
  store      : Store
  clipLog    : ClipLog
  mixer      : Mixer
  paths      : Vector Path 4
  sched      : Scheduler
  control    : Control
  freeReads  : Nat
  tickOrders : List (List TickAgent)
  pending    : List Instr
  deriving DecidableEq, Repr

/-- Why the model stops with a fault. -/
inductive Fault where
  /-- MEMORY_ERROR names a page the attached store does not have (00, Table 0-7) or a line a page does not have. Safe:
  no such line exists. -/
  | noSuchLine (page line : Nat)
  deriving DecidableEq, Repr

/-- Why the model refuses a command. -/
inductive Refusal where
  /-- The command has no meaning yet. Safe. -/
  | notModelled (mnemonic : String)
  deriving DecidableEq, Repr

/-- The straps at their defaults (00, Table 0-7). -/
def defaultStraps : Straps where
  rate := .p50
  store := .gib8
  line := .mbit4

/-- The part right after power-on with the default straps (R205, notes/assumptions/4.md). -/
def State.reset : State where
  now := 0
  straps := defaultStraps
  timing := resetTiming defaultStraps 0
  ports := Vector.replicate 8 resetPort
  coders := Vector.ofFn resetCoder
  alloc := resetAllocation
  store := resetStore defaultStraps 0 [] []
  clipLog := resetClipLog
  mixer := resetMixer
  paths := Vector.replicate 4 resetPath
  sched := resetScheduler
  control := resetControl .powerOn
  freeReads := 0
  tickOrders := []
  pending := []

end Sys2Proof.Machine
end

