-- ==== Sys2Proof/Machine/Ops.lean ====
section
/-! DEFINITION. Shared operations: updates of one record of the state, times and timecodes, sums, the raising of a
notice and the choice of the control port's transmitter. -/

namespace Sys2Proof.Machine

/-! ## Updates -/

/-- One item of a vector changed by `f`. -/
def vecModify {α : Type} {n : Nat} (v : Vector α n) (i : Fin n) (f : α → α) : Vector α n :=
  v.set i.val (f v[i]) i.isLt

/-- One item of a vector replaced. -/
def vecSet {α : Type} {n : Nat} (v : Vector α n) (i : Fin n) (x : α) : Vector α n :=
  v.set i.val x i.isLt

/-- Every item of a vector changed by `f`. -/
def vecMap {α β : Type} {n : Nat} (f : α → β) (v : Vector α n) : Vector β n :=
  Vector.ofFn fun i => f v[i]

/-- The items of a vector that `p` marks, as their numbers in ascending order. -/
def vecWhere {α : Type} {n : Nat} (p : α → Bool) (v : Vector α n) : List (Fin n) :=
  (List.finRange n).filter fun i => p v[i]

/-- The sum of `f` over the items of a vector. -/
def vecSum {α : Type} {n : Nat} (f : Fin n → α → Nat) (v : Vector α n) : Nat :=
  (List.finRange n).foldl (fun total i => total + f i v[i]) 0

def State.modTiming (f : Timing → Timing) (s : State) : State := { s with timing := f s.timing }

def State.modPort (p : Fin 8) (f : VideoPort → VideoPort) (s : State) : State :=
  { s with ports := vecModify s.ports p f }

def State.modCoder (c : Fin 6) (f : CoderChannel → CoderChannel) (s : State) : State :=
  { s with coders := vecModify s.coders c f }

def State.modAlloc (f : Allocation → Allocation) (s : State) : State := { s with alloc := f s.alloc }

def State.modStore (f : Store → Store) (s : State) : State := { s with store := f s.store }

def State.modClipLog (f : ClipLog → ClipLog) (s : State) : State := { s with clipLog := f s.clipLog }

def State.modMixer (f : Mixer → Mixer) (s : State) : State := { s with mixer := f s.mixer }

def State.modPath (p : Fin 4) (f : Path → Path) (s : State) : State := { s with paths := vecModify s.paths p f }

def State.modSched (f : Scheduler → Scheduler) (s : State) : State := { s with sched := f s.sched }

def State.modControl (f : Control → Control) (s : State) : State := { s with control := f s.control }

/-- The time that has passed since the command before (notes/assumptions/1.md). -/
def State.elapse (elapsed : Time) (s : State) : State := { s with now := s.now + elapsed }

/-- Time passes up to a deadline that has not come yet (notes/assumptions/1.md). -/
def State.passTo (deadline : Time) (s : State) : State := { s with now := max s.now deadline }

/-! ## Time and timecodes -/

/-- Pictures per second (00, section 4.2). -/
def perSecond : PictureRate → Nat
  | .p25 => 25
  | .p30 => 30
  | .p50 => 50
  | .p60 => 60

/-- The rate a number of pictures per second names (R6). -/
def rateOfNumber (n : Nat) : Option PictureRate :=
  if n = 25 then some .p25 else if n = 30 then some .p30 else if n = 50 then some .p50
  else if n = 60 then some .p60 else none

/-- A picture period, 1/P seconds (00, section 4.2). -/
def period (p : PictureRate) : Time := 12288000 / perSecond p

/-- The spacing of audio block ticks, 1/3000 s (R4). -/
def blockSpacing : Time := 4096

/-- The day length D in pictures (00, section 4.2). -/
def dayLength (p : PictureRate) : Nat := 86400 * perSecond p

/-- The picture number of a timecode (01, section 1.1). -/
def pictureNumber (p : PictureRate) (t : Timecode) : Nat :=
  ((t.hh * 60 + t.mm) * 60 + t.ss) * perSecond p + t.ff

/-- The timecode of a picture number, taken modulo D. -/
def timecodeOf (p : PictureRate) (n : Nat) : Timecode :=
  let n := n % dayLength p
  let seconds := n / perSecond p
  ⟨seconds / 3600, seconds / 60 % 60, seconds % 60, n % perSecond p⟩

/-- HH in 0..23, MM and SS in 0..59, FF in 0..P−1 (R5). -/
def validTimecode (p : PictureRate) (t : Timecode) : Bool :=
  decide (t.hh < 24) && decide (t.mm < 60) && decide (t.ss < 60) && decide (t.ff < perSecond p)

/-- The timecode advanced by one picture, with its carries (R3). An FF of P or more carries like P − 1
(notes/assumptions/35.md). -/
def nextTimecode (p : PictureRate) (t : Timecode) : Timecode :=
  if t.ff + 1 < perSecond p then { t with ff := t.ff + 1 }
  else if t.ss + 1 < 60 then { t with ss := t.ss + 1, ff := 0 }
  else if t.mm + 1 < 60 then { t with mm := t.mm + 1, ss := 0, ff := 0 }
  else if t.hh + 1 < 24 then ⟨t.hh + 1, 0, 0, 0⟩
  else ⟨0, 0, 0, 0⟩

/-- The distance from one timecode to another, (n_to − n_from) mod D (00, section 4.2). -/
def distance (p : PictureRate) (origin target : Timecode) : Nat :=
  (((pictureNumber p target : Int) - (pictureNumber p origin : Int)) % (dayLength p : Int)).toNat

/-- The age of a timecode, (n_now − n_t) mod D (R93). -/
def State.age (s : State) (t : Timecode) : Nat := distance s.timing.rate t s.timing.timecode

/-- A timecode lies in the future when its age is greater than D/2 (R93). -/
def State.inFuture (s : State) (t : Timecode) : Bool := decide (s.age t > dayLength s.timing.rate / 2)

/-- A timecode is earlier than another when its age is greater (R93). The rule says so of timecodes that are not in the
future; the model orders a future one by the same age (notes/assumptions/39.md). -/
def State.earlier (s : State) (t u : Timecode) : Bool := decide (s.age t > s.age u)

/-! ## Sums -/

/-- 16-bit ones' complement addition: a carry out of bit 15 is added back into bit 0 (00, section 4.6). -/
def onesAdd (a b : Digest) : Digest :=
  let total := a.toNat + b.toNat
  BitVec.ofNat 16 (if total < 65536 then total else total - 65535)

/-- Adds bytes into a sum, the byte at an even offset being the high byte of its word (R71). -/
def onesAddBytes (sum : Digest) (offset : Nat) : List Byte → Digest
  | [] => sum
  | b :: rest =>
    let word := if offset % 2 = 0 then b.toNat * 256 else b.toNat
    onesAddBytes (onesAdd sum (BitVec.ofNat 16 word)) (offset + 1) rest

/-- The ones' complement sum of digests (R101, R189). -/
def onesSum (digests : List Digest) : Digest := digests.foldl onesAdd 0

/-! ## Notices (R200) -/

/-- The category number of a notice (Table 9-6, Chapter 10). -/
def category : NoticeBody → Nat
  | .refLocked _ | .refLost | .timecodeTaken _ _ | .rateTaken _ _ _ | .cue _ _ _ _ _ | .cuesCleared _ => 1
  | .inputLost _ _ | .inputBack _ _ | .taken _ _ _ _ _ | .discarded _ _ | .pictureCut _ _ _ | .liveFull _ _ _
  | .overflow _ _ _ _ _ _ => 2
  | .allocated _ => 3
  | .storeReady _ _ | .storeFull _ _ _ _ | .storeResumed _ _ _ _ | .segmentDamaged _ _ _ _ _ _
  | .pageRetired _ _ => 4
  | .clipOpened _ _ _ _ | .clipGap _ _ | .clipClosed _ _ _ _ _ _ | .sendState _ _ _ _ | .clipDamaged _ _
  | .clipDiscarded _ => 5
  | .sceneTaken _ _ _ | .sceneDone _ _ | .meter _ _ _ _ _ | .returnPlaying _ _ | .returnGap _ _
  | .returnOverrun _ _ | .returnSequence _ _ _ _ _ | .streamTaken _ _ _ => 6
  | .pathState _ _ _ _ _ => 7
  | .audioLate _ _ _ | .pictureLate _ _ _ _ _ | .rewound _ _ _ => 8
  | .confirmIgnored _ _ _ | .badReturn _ _ _ | .badHello _ _ | .creditOverflow _ _ _ | .badAck _ _ _ _
  | .receiveError _ _ | .poisonReceived _ _ _ | .unknownKind _ _ | .unexpectedKind _ _ => 9
  | .homeMessage _ _ _ => 10

/-- The kind number of a notice within its category, in the order of Table 9-6 (Chapter 10). -/
def kindNumber : NoticeBody → Nat
  | .refLocked _ | .inputLost _ _ | .allocated _ | .storeReady _ _ | .clipOpened _ _ _ _ | .sceneTaken _ _ _
  | .pathState _ _ _ _ _ | .audioLate _ _ _ | .confirmIgnored _ _ _ | .homeMessage _ _ _ => 1
  | .refLost | .inputBack _ _ | .storeFull _ _ _ _ | .clipGap _ _ | .sceneDone _ _ | .pictureLate _ _ _ _ _
  | .badReturn _ _ _ => 2
  | .timecodeTaken _ _ | .taken _ _ _ _ _ | .storeResumed _ _ _ _ | .clipClosed _ _ _ _ _ _ | .meter _ _ _ _ _
  | .rewound _ _ _ | .badHello _ _ => 3
  | .rateTaken _ _ _ | .discarded _ _ | .segmentDamaged _ _ _ _ _ _ | .sendState _ _ _ _ | .returnPlaying _ _
  | .creditOverflow _ _ _ => 4
  | .cue _ _ _ _ _ | .cuesCleared _ | .pictureCut _ _ _ | .pageRetired _ _ | .clipDamaged _ _ | .returnGap _ _
  | .badAck _ _ _ _ => 5
  | .liveFull _ _ _ | .clipDiscarded _ | .returnOverrun _ _ | .receiveError _ _ => 6
  | .overflow _ _ _ _ _ _ | .returnSequence _ _ _ _ _ | .poisonReceived _ _ _ => 7
  | .streamTaken _ _ _ | .unknownKind _ _ => 8
  | .unexpectedKind _ _ => 9

/-- The bus of a METER notice. -/
def meterBus : NoticeBody → Option (Fin 12)
  | .meter bus _ _ _ _ => some bus
  | _ => none

/-- The notice is a METER notice. -/
def isMeter (body : NoticeBody) : Bool := (meterBus body).isSome

/-- The path of a PROTOCOL notice (R168, Table 7-6). -/
def protocolPath : NoticeBody → Option (Fin 4)
  | .confirmIgnored path _ _ | .badReturn path _ _ | .badHello path _ | .creditOverflow path _ _
  | .badAck path _ _ _ | .receiveError path _ | .poisonReceived path _ _ | .unknownKind path _
  | .unexpectedKind path _ => some path
  | _ => none

/-- The enables of a mask pass this notice: its category's bit, and for METER also bit 10 (R200). -/
def noticeEnabled (mask : BitVec 11) (body : NoticeBody) : Bool :=
  mask.getLsbD (category body - 1) && (!isMeter body || mask.getLsbD 10)

/-- Replaces the queued METER notice of a bus at its place (R200, case 1). -/
def replaceMeter (bus : Fin 12) (new : Notice) (notices : List Notice) : List Notice :=
  notices.map fun n => if meterBus n.body = some bus then new else n

/-- A raised notice at the Control Port (R200). -/
def queueNotice (notice : Notice) (c : Control) : Control :=
  if !noticeEnabled c.mask notice.body then c
  else
    match meterBus notice.body with
    | some bus =>
      if c.notices.any (fun n => meterBus n.body == some bus) then
        { c with notices := replaceMeter bus notice c.notices }
      else joinNotices notice c
    | none => joinNotices notice c
where
  /-- Cases 2 to 4 of R200. -/
  joinNotices (notice : Notice) (c : Control) : Control :=
    if c.notices.length < 32 then { c with notices := c.notices ++ [notice] }
    else if c.notices.any (fun n => isMeter n.body) then
      { c with notices := c.notices.eraseP (fun n => isMeter n.body) ++ [notice]
               metersDropped := c.metersDropped + 1 }
    else { c with noticeOverrun := true, noticesLost := c.noticesLost + 1 }

/-- A block raises a notice; its head gets the timecode now. Every PROTOCOL notice also increases the
protocol-warnings counter of its path (07, after Table 7-6). -/
def raise (body : NoticeBody) (s : State) : State :=
  let s := s.modControl (queueNotice ⟨body, s.timing.timecode⟩)
  match protocolPath body with
  | some path => s.modPath path fun p => { p with warnings := p.warnings + 1 }
  | none => s

/-! ## The control port's transmitter (R197) -/

/-- The next frame of an IDLE transmitter: the oldest BUSY reply, else the reply of the front entry when it is READY,
else the oldest notice (R197). -/
def chooseLineFrame (c : Control) : Control :=
  match c.transmitter with
  | some _ => c
  | none =>
    match c.busy with
    | (tag, kind) :: rest => { c with transmitter := some (.busy tag kind), busy := rest }
    | [] =>
      match c.queue with
      | ⟨kind, tag, body, .ready reply⟩ :: rest =>
        { c with transmitter := some (.reply tag kind reply), queue := ⟨kind, tag, body, .sending reply⟩ :: rest }
      | _ =>
        match c.notices with
        | notice :: rest => { c with transmitter := some (.notice notice), notices := rest }
        | [] => c

/-- The end of a command: a frame that waits is taken by an IDLE transmitter (R197), once every notice of the command has
been raised (notes/assumptions/54.md). -/
def finish (s : State) : Host.Outcome State Fault Refusal := .next (s.modControl chooseLineFrame)

end Sys2Proof.Machine
end

