-- ==== Sys2Proof/Machine/Coding.lean ====
section
/-! DEFINITION. The arithmetic of picture coding (02, sections 2.5 and 2.6; 03, R60): blocks, transform, quantisation,
prediction, tokens, slices and the coded picture. -/

namespace Sys2Proof.Machine

/-! ## Blocks (R25) -/

/-- A list in runs of four; what is left over at the end is dropped. -/
def chunks4 {α : Type} : List α → List (List α)
  | a :: b :: c :: d :: rest => [a, b, c, d] :: chunks4 rest
  | _ => []

/-- The blocks of four lines of a plane, left to right; a block is its four rows. -/
def planeBlocks : List (List Pixel) → List (List (List Pixel))
  | [r0, r1, r2, r3] =>
    zipRows (chunks4 r0) (chunks4 r1) (chunks4 r2) (chunks4 r3)
  | _ => []
where
  /-- Four rows of runs, run by run. -/
  zipRows : List (List Pixel) → List (List Pixel) → List (List Pixel) → List (List Pixel) → List (List (List Pixel))
    | a :: as, b :: bs, c :: cs, d :: ds => [a, b, c, d] :: zipRows as bs cs ds
    | _, _, _, _ => []

/-- The components, each with its own predictor (R28). -/
inductive Component where
  | luma | cb | cr
  deriving DecidableEq, Repr

/-- The blocks of a slice in group order: left luma, right luma, Cb, Cr (R25). -/
def groupBlocks : List (List (List Pixel)) → List (List (List Pixel)) → List (List (List Pixel)) →
    List (Component × List (List Pixel))
  | l0 :: l1 :: luma, b :: cb, r :: cr =>
    (.luma, l0) :: (.luma, l1) :: (.cb, b) :: (.cr, r) :: groupBlocks luma cb cr
  | _, _, _ => []

/-- The slices of a picture, top to bottom, as their blocks (R25). -/
def pictureSlices (p : Picture) : List (List (Component × List (List Pixel))) :=
  ((chunks4 p.luma).zip ((chunks4 p.cb).zip (chunks4 p.cr))).map fun (luma, cb, cr) =>
    groupBlocks (planeBlocks luma) (planeBlocks cb) (planeBlocks cr)

/-! ## Transform and quantisation (R26, R27) -/

/-- The 4-point transform (R26). -/
def transform4 : List Int → List Int
  | [a0, a1, a2, a3] => [a0 + a1 + a2 + a3, a0 + a1 - a2 - a3, a0 - a1 - a2 + a3, a0 - a1 + a2 - a3]
  | other => other

/-- Rows and columns of a 4×4 array exchanged. -/
def transpose4 : List (List Int) → List (List Int)
  | [[a0, a1, a2, a3], [b0, b1, b2, b3], [c0, c1, c2, c3], [d0, d1, d2, d3]] =>
    [[a0, b0, c0, d0], [a1, b1, c1, d1], [a2, b2, c2, d2], [a3, b3, c3, d3]]
  | other => other

/-- The coefficients of a block: centred, then rows, then columns (R26). -/
def coefficients (block : List (List Pixel)) : List (List Int) :=
  let rows := block.map fun row => transform4 (row.map fun x => (x.toNat : Int) - 512)
  transpose4 ((transpose4 rows).map transform4)

/-- The quantiser step s(q) (R27, Table 2-4). -/
def quantiserStep (q : Nat) : Nat := ([8, 9, 10, 11, 13, 14][q % 6]?.getD 8) * 2 ^ (q / 6)

/-- A level kept within −1023..1023 (R27, R28). -/
def limitLevel (x : Int) : Int := max (-1023) (min 1023 x)

/-- The level of a DC coefficient: nearest, halves away from zero (R27). -/
def dcLevel (step : Nat) (c : Int) : Int := limitLevel (c.sign * ((2 * c.natAbs + step) / (2 * step) : Nat))

/-- The level of an AC coefficient (R27). -/
def acLevel (step : Nat) (c : Int) : Int := limitLevel (c.sign * ((3 * c.natAbs + step) / (3 * step) : Nat))

/-- The levels of a block in raster order, the DC level first. -/
def blockLevels (q : Nat) (block : List (List Pixel)) : List Int :=
  match (coefficients block).flatten with
  | [] => []
  | dc :: ac => dcLevel (quantiserStep q) dc :: ac.map (acLevel (quantiserStep q))

/-! ## Prediction, scan and tokens (R28 to R31) -/

/-- The raster positions in scan order (R29). -/
def scanOrder : List Nat := [0, 1, 4, 8, 5, 2, 3, 6, 9, 12, 13, 10, 7, 11, 14, 15]

/-- The predictors of a slice (R28). -/
structure Predictors where
  luma : Int
  cb   : Int
  cr   : Int
  deriving DecidableEq, Repr

/-- The predictor of a component. -/
def Predictors.get (p : Predictors) : Component → Int
  | .luma => p.luma
  | .cb => p.cb
  | .cr => p.cr

/-- The predictor of a component replaced. -/
def Predictors.put (p : Predictors) (x : Int) : Component → Predictors
  | .luma => { p with luma := x }
  | .cb => { p with cb := x }
  | .cr => { p with cr := x }

/-- The saturated difference of a DC level from its predictor (R28). -/
def dcDifference (predictor level : Int) : Int := limitLevel (level - predictor)

/-- So many bits of a number, most significant first. -/
def bitsOf (count n : Nat) : List Bool := (List.range count).map fun i => n.testBit (count - 1 - i)

/-- A coefficient token (R30). -/
def coefficientToken (run : Nat) (level : Int) : List Bool :=
  let k := level.natAbs.log2
  true :: bitsOf 4 run ++ List.replicate k true ++ false :: bitsOf k level.natAbs ++ [decide (level < 0)]

/-- The tokens of a block's values in scan order, after so many zeros (R30). -/
def blockTokens : Nat → List Int → List Bool
  | _, [] => [false, false]
  | run, v :: rest => if v = 0 then blockTokens (run + 1) rest else coefficientToken run v ++ blockTokens 0 rest

/-- The token of a run of empty blocks (R31). -/
def skipToken (count : Nat) : List Bool := if count = 0 then [] else false :: true :: bitsOf 10 (count - 1)

/-- The token bits of the blocks of a slice; `empty` counts the empty blocks before the first (R28 to R31). -/
def sliceBits (q : Nat) : Predictors → Nat → List (Component × List (List Pixel)) → List Bool
  | _, empty, [] => skipToken empty
  | p, empty, (component, block) :: rest =>
    match blockLevels q block with
    | [] => sliceBits q p empty rest
    | dc :: ac =>
      let difference := dcDifference (p.get component) dc
      let values := difference :: ac
      let p := p.put (p.get component + difference) component
      if values.all (· == 0) then sliceBits q p (empty + 1) rest
      else skipToken empty ++ blockTokens 0 (scanOrder.map fun i => values[i]?.getD 0) ++ sliceBits q p 0 rest

/-- Bits packed from the first bit of the first byte on, with zero bits up to the next byte boundary (R32). -/
def packBits : List Bool → List Byte
  | b7 :: b6 :: b5 :: b4 :: b3 :: b2 :: b1 :: b0 :: rest => byteOfBits [b7, b6, b5, b4, b3, b2, b1, b0] :: packBits rest
  | [] => []
  | rest => [byteOfBits (rest ++ List.replicate (8 - rest.length) false)]
where
  /-- Eight bits as a byte, most significant first. -/
  byteOfBits (bits : List Bool) : Byte := BitVec.ofNat 8 (bits.foldl (fun n b => 2 * n + b.toNat) 0)

/-! ## Slices and the picture (R32, R33, R60) -/

/-- A slice with its header (R32). -/
def sliceBytes (number q : Nat) (cut : Bool) (bits : List Bool) : List Byte :=
  (Config.sliceHeader ⟨number, q, cut⟩).toList ++ packBits bits

/-- The limit of a coded picture in bytes (R33). -/
def pictureLimit : Nat := 262144

/-- The quantiser index after the check at the end of a slice (R60). -/
def guardIndex (slices done bytes byteBudget qMax q : Nat) : Nat :=
  if done % 16 = 0 ∧ 2 * slices * bytes > 3 * byteBudget * done then (if q < qMax then q + 1 else q) else q

/-- The slices of a picture from number `done` on: their bytes and the first cut slice. `bytes` counts the picture
header and the slices before; `cut` says that a slice before was cut (R33, R60). -/
def codeSlices (slices byteBudget qMax : Nat) :
    Nat → Nat → Nat → Bool → List (List (Component × List (List Pixel))) → List Byte × Option Nat
  | _, _, _, _, [] => ([], none)
  | done, bytes, q, cut, blocks :: rest =>
    let empty := sliceBytes done q true (skipToken blocks.length)
    let coded := if cut then empty else sliceBytes done q false (sliceBits q ⟨0, 0, 0⟩ 0 blocks)
    let next := guardIndex slices (done + 1) (bytes + coded.length) byteBudget qMax q
    let exceeds := decide (bytes + coded.length + 6 * rest.length > pictureLimit)
    let slice := if exceeds then empty else coded
    let (tail, first) := codeSlices slices byteBudget qMax (done + 1) (bytes + slice.length) next (cut || exceeds) rest
    (slice ++ tail, if exceeds && !cut then some done else first)

/-- The coded picture of a picture in flight: its bytes and the first cut slice (R33, R36). -/
def codePicture (c : Fin 6) (sequence : Seq) (qMax : Nat) (f : InFlight) : List Byte × Option Nat :=
  let header := fun cut => (Config.pictureHeader
    ⟨f.kind, f.picture.map (·.format), f.qStart, cut, c, sequence, f.timecode⟩).toList
  match f.kind, f.picture with
  | .coded, some p =>
    let slices := pictureSlices p
    let (bytes, cut) := codeSlices slices.length f.byteBudget qMax 0 8 f.qStart false slices
    (header cut.isSome ++ bytes, cut)
  | _, _ => (header false, none)

end Sys2Proof.Machine
end

