-- ==== Sys2Proof/Machine/Formats.lean ====
section
/-! DEFINITION. Byte layouts of control frames and uplink frames, and the two CRCs (Chapter 10). -/

namespace Sys2Proof.Machine

/-! ## Fields -/

/-- The low byte of a number. -/
def byteOf (n : Nat) : Byte := BitVec.ofNat 8 n

/-- A number as so many bytes, most significant first (00, section 4.7). -/
def bigEndian : Nat → Nat → List Byte
  | 0, _ => []
  | size + 1, n => byteOf (n / 256 ^ size) :: bigEndian size n

/-- The number that bytes spell, most significant first. -/
def numberOf (bytes : List Byte) : Nat := bytes.foldl (fun n b => n * 256 + b.toNat) 0

/-- The number in `size` bytes from an offset on. -/
def field (bytes : List Byte) (offset size : Nat) : Nat := numberOf ((bytes.drop offset).take size)

/-- A timecode in four bytes (Table 10-2). -/
def timecodeBytes (t : Timecode) : List Byte := [byteOf t.hh, byteOf t.mm, byteOf t.ss, byteOf t.ff]

/-- The timecode in four bytes from an offset on (Table 10-2). -/
def timecodeField (bytes : List Byte) (offset : Nat) : Timecode :=
  ⟨field bytes offset 1, field bytes (offset + 1) 1, field bytes (offset + 2) 1, field bytes (offset + 3) 1⟩

/-! ## CRCs -/

/-- One bit into a CRC, most significant bit first (R206, R207). -/
def crcBit {w : Nat} (generator crc : BitVec w) (bit : Bool) : BitVec w :=
  if crc.msb != bit then (crc <<< 1) ^^^ generator else crc <<< 1

/-- One byte into a CRC, most significant bit first. -/
def crcByte {w : Nat} (generator crc : BitVec w) (b : Byte) : BitVec w :=
  [7, 6, 5, 4, 3, 2, 1, 0].foldl (fun crc i => crcBit generator crc (b.getLsbD i)) crc

/-- CRC-16: generator 1021H, initial value FFFFH, no final inversion (R206). -/
def crc16 (bytes : List Byte) : BitVec 16 := bytes.foldl (crcByte 0x1021#16) 0xFFFF#16

/-- CRC-32: generator 04C11DB7H, initial value FFFFFFFFH, inverted at the end (R207). -/
def crc32 (bytes : List Byte) : BitVec 32 := ~~~(bytes.foldl (crcByte 0x04C11DB7#32) 0xFFFFFFFF#32)

/-! ## Uplink frames -/

/-- Kind values (Table 10-6). -/
def kindCredit : Byte := 0x01
def kindHello : Byte := 0x02
def kindHelloReply : Byte := 0x03
def kindRetryMark : Byte := 0x04
def kindClose : Byte := 0x05
def kindAudio : Byte := 0x10
def kindVideo : Byte := 0x11
def kindReturnAudio : Byte := 0x30
def kindClipConfirm : Byte := 0x31
def kindHomeMessage : Byte := 0x32

/-- Kind values of the clip items (Table 10-6). -/
def kindOfItem : ClipItem → Byte
  | .start => 0x20
  | .data => 0x21
  | .mark => 0x22
  | .damaged => 0x23
  | .resend => 0x24
  | .abort => 0x25
  | .finish => 0x26

/-- Kinds 01H to 05H are the control kinds (R208). -/
def isControlKind (kind : Byte) : Bool := decide (1 ≤ kind.toNat) && decide (kind.toNat ≤ 5)

/-- The fewest cells that hold a payload, ceil((payload + 16) / 32) (10, section 10.2). -/
def cellsFor (payload : Nat) : Nat := (payload + 47) / 32

/-- The flags byte of a head (Table 10-5). -/
def flagsByte (retryRequest last truncated : Bool) : Byte :=
  byteOf ((if retryRequest then 128 else 0) + (if last then 64 else 0) + (if truncated then 32 else 0))

/-- Head, payload area and the first four tail bytes of a frame: what its CRC-32 covers (R207). -/
def coveredBytes (c : FrameContents) (t : FrameTail) : List Byte :=
  [c.kind, byteOf ((c.cells - 1) * 17), c.stream, flagsByte t.retryRequest c.last c.truncated]
    ++ bigEndian 2 c.sequence.toNat ++ bigEndian 2 c.payload.length
    ++ c.payload ++ List.replicate (32 * c.cells - 16 - c.payload.length) 0
    ++ byteOf t.creditReturn :: bigEndian 3 (t.sendPointer.toNat * 4096 + t.ackPointer.toNat)

/-- The CRC-32 of a frame; a poisoned frame carries its complement (R207). -/
def frameSeal (c : FrameContents) (t : FrameTail) : BitVec 32 :=
  if t.poisoned then ~~~(crc32 (coveredBytes c t)) else crc32 (coveredBytes c t)

/-- The bytes of a frame on the path port (Table 10-5). -/
def frameBytes (f : PathFrame) : List Byte :=
  coveredBytes f.contents f.tail ++ bigEndian 4 (frameSeal f.contents f.tail).toNat

/-- How the CRC-32 of a frame from home compares (R165, check 2). -/
inductive Seal where
  | whole | poisoned | bad
  deriving DecidableEq, Repr

/-- A frame from home as the part reads it (R208). -/
structure HomeFrame where
  kind         : Byte
  cells        : Nat
  lengthOk     : Bool
  stream       : Byte
  retryRequest : Bool
  sequence     : Seq
  count        : Nat
  payload      : List Byte
  creditReturn : Nat
  sendPointer  : Nat
  ackPointer   : Nat
  crc          : Seal
  deriving DecidableEq, Repr

/-- The two length fields of a head agree (R208). -/
def lengthsAgree (bytes : List Byte) : Bool := field bytes 1 1 / 16 == field bytes 1 1 % 16

/-- The length in cells that a head gives: the upper nibble of byte 1 plus 1 (R208). -/
def headCells (bytes : List Byte) : Nat := field bytes 1 1 / 16 + 1

/-- The fields of a frame from home that fills the given bytes (R208). -/
def readHomeFrame (bytes : List Byte) : HomeFrame :=
  let cells := headCells bytes
  let size := 32 * cells
  let kind := byteOf (field bytes 0 1)
  let count := field bytes 6 2
  let received := BitVec.ofNat 32 (field bytes (size - 4) 4)
  let correct := crc32 (bytes.take (size - 4))
  let pointers := field bytes (size - 7) 3
  { kind := kind
    cells := cells
    lengthOk := lengthsAgree bytes && decide (count ≤ size - 16) && (!isControlKind kind || cells == 1)
    stream := byteOf (field bytes 2 1)
    retryRequest := decide (128 ≤ field bytes 3 1)
    sequence := BitVec.ofNat 16 (field bytes 4 2)
    count := count
    payload := (bytes.drop 8).take count
    creditReturn := field bytes (size - 8) 1
    sendPointer := pointers / 4096
    ackPointer := pointers % 4096
    crc := if received = correct then .whole else if received = ~~~correct then .poisoned else .bad }

/-! ## Control frames -/

/-- The requests in the order of Table 9-5; kind values number them from 01H (10, section 10.1). -/
def requestKinds : List RequestKind :=
  [.setTimecode, .setReference, .cueAdd, .cueCancel, .cueList, .inputInfo, .coderSet, .coderInfo, .pathRate,
   .clipShare, .budgetInfo, .storeSet, .storeInfo, .segmentInfo, .timelineInfo, .clipOpen, .clipClose, .clipMark,
   .clipLabel, .clipRate, .clipSend, .clipHold, .clipRelease, .clipDiscard, .clipTimeout, .clipInfo, .clipList,
   .embedSet, .busSet, .channelSet, .sendSet, .sceneStore, .sceneRecall, .outputSet, .meterSet, .returnSet,
   .streamSet, .mixerInfo, .pathOpen, .pathClose, .pathSet, .pathInfo, .sendInfo, .noticeSet, .status, .reset]

/-- The kind value of a request. -/
def kindOfRequest (k : RequestKind) : Byte := byteOf (requestKinds.idxOf k + 1)

/-- The request that a kind value names, if any (R196). -/
def requestOfKind (kind : Byte) : Option RequestKind :=
  if kind.toNat = 0 then none else requestKinds[kind.toNat - 1]?

/-- Kind of a reply and of a notice (10, section 10.1). -/
def kindReply : Byte := 0xF0
def kindNotice : Byte := 0xF1

/-- Result codes are numbered in the order of Table 9-4 from 00H (10, section 10.1). -/
def codeByte : ResultCode → Byte
  | .ok => 0
  | .accepted => 1
  | .busy => 2
  | .badKind => 3
  | .badLength => 4
  | .badValue => 5
  | .badState => 6
  | .noRoom => 7
  | .notFound => 8
  | .notReady => 9

/-- The bytes of a control frame of a kind, a tag and a body (Table 10-1). -/
def controlFrameBytes (kind tag : Byte) (body : List Byte) : List Byte :=
  let covered := bigEndian 2 (body.length + 2) ++ kind :: tag :: body
  0xC5 :: (covered ++ bigEndian 2 (crc16 covered).toNat)

/-- The contents bytes of a reply: present for OK and ACCEPTED, at most 1018 bytes (R198, notes/assumptions/10.md). -/
def replyBytes (r : Reply) : List Byte :=
  match r.code, r.contents with
  | _, .none => []
  | .ok, contents | .accepted, contents => (Config.replyContents contents).take 1018
  | _, _ => []

/-- The bytes of a frame the part sends on the control line (Table 10-3). -/
def lineFrameBytes : LineFrame → List Byte
  | .busy tag kind => controlFrameBytes kindReply tag [codeByte .busy, kind]
  | .reply tag kind reply => controlFrameBytes kindReply tag (codeByte reply.code :: kind :: replyBytes reply)
  | .notice n =>
    controlFrameBytes kindNotice 0
      (byteOf (category n.body) :: byteOf (kindNumber n.body) :: timecodeBytes n.timecode
        ++ (Config.noticeContents n.body).take 1014)

/-- The contents take at most 1018 bytes as they are laid out (R198). -/
def fits (contents : ReplyContents) : Bool := decide ((Config.replyContents contents).length ≤ 1018)

/-- As many whole entries as fit, in order, with the count of entries left out (R198). -/
def fitEntries {α : Type} (build : List α → Nat → ReplyContents) (entries : List α) : ReplyContents :=
  longest entries.length
where
  /-- The longest prefix of at most so many entries that fits. -/
  longest : Nat → ReplyContents
    | 0 => build [] entries.length
    | n + 1 =>
      let contents := build (entries.take (n + 1)) (entries.length - (n + 1))
      if fits contents then contents else longest n

end Sys2Proof.Machine
end

