-- ==== Sys2Proof/Machine/Operands.lean ====
section
/-! DEFINITION. The bodies of requests: their lengths and fields (Table 10-4), and the three ways an owner answers. -/

namespace Sys2Proof.Machine

/-- A request refused: the reply carries the code alone (R198), and the state is left as it was. -/
def refuse (code : ResultCode) (s : State) : Reply × State := (⟨code, .none⟩, s)

/-- A request carried out. -/
def answerOk (contents : ReplyContents) (s : State) : Reply × State := (⟨.ok, contents⟩, s)

/-- A request taken whose operation continues. -/
def answerAccepted (contents : ReplyContents) (s : State) : Reply × State := (⟨.accepted, contents⟩, s)

/-- The item of so many that a field numbers, if it is one. -/
def finOf (n k : Nat) : Option (Fin n) := if h : k < n then some ⟨k, h⟩ else none

/-- A bit of a flag byte or presence mask. -/
def maskBit (mask bit : Nat) : Bool := mask.testBit bit

/-- A mask sets no bit beyond the so many it defines (R206). -/
def maskDefined (mask bits : Nat) : Bool := decide (mask < 2 ^ bits)

/-- A field that is read when it is present, and the offset after it. -/
def optionalField (present : Bool) (body : List Byte) (offset size : Nat) : Option Nat × Nat :=
  if present then (some (field body offset size), offset + size) else (none, offset)

/-- A field in two's complement of 16 bits (Table 10-2). -/
def signedField (body : List Byte) (offset : Nat) : Int := (BitVec.ofNat 16 (field body offset 2)).toInt

/-! ## CODER_SET -/

/-- Sizes of the optional fields of CODER_SET in bit order (Table 10-4). -/
def coderFieldSizes : List Nat := [1, 1, 1, 2, 2, 1, 1, 1, 1]

/-- The bytes of the fields that a mask declares. -/
def declaredSize (mask : Nat) : List Nat → Nat → Nat
  | [], _ => 0
  | size :: rest, bit => (if maskBit mask bit then size else 0) + declaredSize mask rest (bit + 1)

/-- The values of the fields that a mask declares, in bit order. -/
def declaredFields (mask : Nat) (body : List Byte) : List Nat → Nat → Nat → List (Option Nat)
  | [], _, _ => []
  | size :: rest, bit, offset =>
    let (value, after) := optionalField (maskBit mask bit) body offset size
    value :: declaredFields mask body rest (bit + 1) after

/-- The presence mask of CODER_SET. -/
def coderMask (body : List Byte) : Nat := field body 1 2

/-- Check 1 of R18. -/
def coderSetLengthOk (body : List Byte) : Bool :=
  decide (3 ≤ body.length) && body.length == 3 + declaredSize (coderMask body) coderFieldSizes 0

/-- A coder mode by its value (Table 10-2). -/
def modeOf : Nat → Option CoderMode
  | 0 => some .off
  | 1 => some .standby
  | 2 => some .live
  | 3 => some .record
  | 4 => some .both
  | _ => none

/-! ## Clip requests -/

/-- A body that ends in a flags byte and, when its bit 0 is set, a timecode (CLIP_OPEN, CLIP_CLOSE). -/
def pointLengthOk (flagsAt : Nat) (body : List Byte) : Bool :=
  decide (flagsAt < body.length)
    && body.length == flagsAt + 1 + (if maskBit (field body flagsAt 1) 0 then 4 else 0)

/-- Check 1 of R94. -/
def clipOpenLengthOk (body : List Byte) : Bool := pointLengthOk 1 body

/-- Check 1 of R99. -/
def clipCloseLengthOk (body : List Byte) : Bool := pointLengthOk 2 body

/-- The timecode that a flags byte at an offset declares behind it. -/
def optionalPoint (flagsAt : Nat) (body : List Byte) : Option Timecode :=
  if maskBit (field body flagsAt 1) 0 then some (timecodeField body (flagsAt + 1)) else none

/-- Where the kind byte of a CLIP_MARK body lies. -/
def markKindAt (body : List Byte) : Nat := if maskBit (field body 2 1) 0 then 7 else 3

/-- Check 1 of R103: 5 + n bytes, or 9 + n with a timecode (R206). -/
def clipMarkLengthOk (body : List Byte) : Bool :=
  decide (markKindAt body + 2 ≤ body.length)
    && body.length == markKindAt body + 2 + field body (markKindAt body + 1) 1

/-! ## BUS_SET -/

/-- Check 1 of R125: the fields the mask declares, and with mode FOLLOW the reference bus and the excluded channel. -/
def busSetLengthOk (body : List Byte) : Bool :=
  let mask := field body 1 1
  let follows := maskBit mask 0 && field body 2 1 == 2
  decide (2 ≤ body.length)
    && body.length == 2 + (if maskBit mask 0 then 1 else 0) + (if maskBit mask 1 then 2 else 0)
        + (if follows then 2 else 0)

/-! ## Lengths (R196, step 2) -/

/-- The action of a cue by its value (Table 10-4). -/
def actionOf : Nat → Option CueAction
  | 1 => some .coderSet
  | 2 => some .sceneRecall
  | 3 => some .clipOpen
  | 4 => some .clipClose
  | 5 => some .clipMark
  | _ => none

/-- The lengths that the request matching a cue's action accepts (check 2 of R7). -/
def actionLengthOk : CueAction → List Byte → Bool
  | .coderSet, body => coderSetLengthOk body
  | .sceneRecall, body => body.length == 3
  | .clipOpen, body => clipOpenLengthOk body
  | .clipClose, body => clipCloseLengthOk body
  | .clipMark, body => clipMarkLengthOk body

/-- A body's length is one that Table 10-4 gives for the kind. -/
def lengthOk : RequestKind → List Byte → Bool
  | .coderSet, body => coderSetLengthOk body
  | .clipOpen, body => clipOpenLengthOk body
  | .clipClose, body => clipCloseLengthOk body
  | .clipMark, body => clipMarkLengthOk body
  | .busSet, body => busSetLengthOk body
  | .cueAdd, body => decide (5 ≤ body.length)
  | .clipLabel, body => decide (2 ≤ body.length)
  | .cueList, body | .budgetInfo, body | .storeInfo, body | .sendInfo, body | .status, body => body.length == 0
  | .setReference, body | .cueCancel, body | .inputInfo, body | .coderInfo, body | .clipShare, body
  | .clipTimeout, body | .sceneStore, body | .meterSet, body | .pathOpen, body | .pathClose, body
  | .pathInfo, body | .reset, body => body.length == 1
  | .storeSet, body | .segmentInfo, body | .clipSend, body | .clipHold, body | .clipRelease, body
  | .clipDiscard, body | .clipInfo, body | .returnSet, body | .mixerInfo, body | .noticeSet, body =>
    body.length == 2
  | .pathRate, body | .sceneRecall, body | .timelineInfo, body | .embedSet, body | .channelSet, body =>
    body.length == 3
  | .setTimecode, body | .clipRate, body | .clipList, body | .sendSet, body | .outputSet, body
  | .streamSet, body | .pathSet, body => body.length == 4

end Sys2Proof.Machine
end

