-- ==== Sys2Proof/Machine/Allocator.lean ====
section
/-! DEFINITION. The Rate Allocator (03, sections 3.1 to 3.3): its inputs, the recompute and its requests. -/

namespace Sys2Proof.Machine

/-- The capacity: the rates of the paths that carry (R46). -/
def capacityOf (a : Allocation) : Nat := vecSum (fun p rate => if a.carrying[p] then rate else 0) a.pathRate

/-- The audio reservation (R47). -/
def audioReservation (streams : Nat) (p : PictureRate) : Nat := streams * ((9750 + perSecond p - 1) / perSecond p)

/-- The clip reservation (R48). -/
def clipReservation (capacity share : Nat) (demand : Bool) : Nat := if demand then capacity * share / 16 else 0

/-- A live channel's budget before the cut (R50). -/
def rawBudget (available floorSum weightSum weight floor : Nat) : Nat :=
  if floorSum ≤ available then floor + (available - floorSum) * weight / weightSum
  else available * floor / floorSum

/-- The cut of a budget at 4095 (R50). -/
def budgetCut (raw : Nat) : Nat := min 4095 raw

/-- The rate state that a budget and a floor give (R51). -/
def rateStateOf (budget floor : Nat) : RateState :=
  if budget = 0 then .starved else if budget < floor then .halfRate else .full

/-- The record with every figure computed anew from its inputs, in the order of R46 to R52. -/
def computeFigures (p : PictureRate) (a : Allocation) : Allocation :=
  let capacity := capacityOf a
  let audioRes := audioReservation a.streams p
  let clipRes := clipReservation capacity a.share a.clipDemand
  let available := capacity - audioRes - clipRes
  let floorSum := vecSum (fun c live => if live then a.floor[c] else 0) a.live
  let weightSum := vecSum (fun c live => if live then a.weight[c] else 0) a.live
  let budget := Vector.ofFn fun c : Fin 6 =>
    if a.live[c] then budgetCut (rawBudget available floorSum weightSum a.weight[c] a.floor[c]) else 0
  let rateState := Vector.ofFn fun c : Fin 6 =>
    if a.live[c] then rateStateOf budget[c] a.floor[c] else .full
  let leftover := available - vecSum (fun _ b => b) budget
  { a with
    capacity := capacity
    audioRes := audioRes
    clipRes := clipRes
    available := available
    floorSum := floorSum
    weightSum := weightSum
    budget := budget
    rateState := rateState
    leftover := leftover
    clipAllowance := min 4095 (clipRes + leftover) }

/-- Some published figure differs: a budget, a rate state or K (R53, Table 3-1). -/
def publishedDiffer (a b : Allocation) : Bool :=
  a.budget != b.budget || a.rateState != b.rateState || a.clipAllowance != b.clipAllowance

/-- What an ALLOCATED notice carries (R53). -/
def allocationReport (cause : AllocCause) (a : Allocation) : AllocationReport where
  number := a.number
  cause := cause
  capacity := a.capacity
  audioRes := a.audioRes
  clipRes := a.clipRes
  available := a.available
  floorSum := a.floorSum
  weightSum := a.weightSum
  leftover := a.leftover
  clipAllowance := a.clipAllowance
  live := (vecWhere id a.live).map fun c => (c, a.budget[c], a.rateState[c])

/-- A recompute (R53). The figures are computed from the inputs and the P in force now, whatever the cause: after a rate
take that no recompute followed, the next one of any cause may publish new figures (notes/assumptions/49.md). -/
def recompute (cause : AllocCause) (s : State) : State :=
  let figures := computeFigures s.timing.rate s.alloc
  if publishedDiffer s.alloc figures then
    let numbered := { figures with number := figures.number + 1 }
    raise (.allocated (allocationReport cause numbered)) { s with alloc := numbered }
  else { s with alloc := figures }

/-- The Path Controller reports a state transition (R45). -/
def reportPath (p : Fin 4) (carrying : Bool) (s : State) : State :=
  recompute .pathState (s.modAlloc fun a => { a with carrying := vecSet a.carrying p carrying })

/-- A mode is live (02, section 2.3). -/
def CoderMode.isLive : CoderMode → Bool
  | .live | .both => true
  | .off | .standby | .record => false

/-- A mode is recording (02, section 2.3). -/
def CoderMode.isRecording : CoderMode → Bool
  | .record | .both => true
  | .off | .standby | .live => false

/-- A mode is active (02, section 2.3). -/
def CoderMode.isActive (m : CoderMode) : Bool := m.isLive || m.isRecording

/-- A coder channel reports its take: membership of the live set, weight and floor as they stand after it (R45). -/
def reportTake (c : Fin 6) (s : State) : State :=
  recompute .coderTake <| s.modAlloc fun a =>
    { a with
      live := vecSet a.live c s.coders[c].mode.isLive
      weight := vecSet a.weight c s.coders[c].weight
      floor := vecSet a.floor c s.coders[c].floor }

/-- The Audio Mixer reports the number of enabled streams (R45). -/
def reportStreams (count : Nat) (s : State) : State :=
  recompute .audioStreams (s.modAlloc fun a => { a with streams := count })

/-- The Clip Log reports clip demand (R45). -/
def reportDemand (demand : Bool) (s : State) : State :=
  recompute .clipDemand (s.modAlloc fun a => { a with clipDemand := demand })

/-- PATH_RATE (R43). -/
def pathRate (body : List Byte) (s : State) : Reply × State :=
  match finOf 4 (field body 0 1) with
  | none => refuse .badValue s
  | some p =>
    let rate := min 4095 (field body 1 2)
    answerOk (.value rate) <|
      recompute .pathRate (s.modAlloc fun a => { a with pathRate := vecSet a.pathRate p rate })

/-- CLIP_SHARE (R44). -/
def clipShare (body : List Byte) (s : State) : Reply × State :=
  let share := field body 0 1
  if 8 < share then refuse .badValue s
  else answerOk .none (recompute .clipShare (s.modAlloc fun a => { a with share := share }))

/-- BUDGET_INFO (R55). -/
def budgetInfo (_body : List Byte) (s : State) : Reply × State := answerOk (.budget s.alloc) s

end Sys2Proof.Machine
end

