-- ==== Sys2Proof/Machine/Memory.lean ====
section
/-! DEFINITION. The attached DRAM: bytes in a canonical form, and its lines of 64 bytes with their errors
(04, section 4.1 and R80). The address of a byte is page * 65,536 + offset in the page. -/

namespace Sys2Proof.Machine

/-- The byte at an address; an unlisted address reads 0 (notes/assumptions/7.md). -/
def memRead : Mem → Nat → Byte
  | [], _ => 0
  | (k, b) :: rest, a => if k = a then b else memRead rest a

/-- A byte written; writing 0 removes the entry. -/
def memWrite : Mem → Nat → Byte → Mem
  | [], a, b => if b = 0 then [] else [(a, b)]
  | (k, c) :: rest, a, b =>
    if a < k then (if b = 0 then (k, c) :: rest else (a, b) :: (k, c) :: rest)
    else if a = k then (if b = 0 then rest else (a, b) :: rest)
    else (k, c) :: memWrite rest a b

/-- Addresses strictly rise from at least `low`, and no entry holds 0. -/
def memSorted : Nat → Mem → Bool
  | _, [] => true
  | low, (k, b) :: rest => decide (low ≤ k) && b != 0 && memSorted (k + 1) rest

/-- The canonical form of memory. -/
def Mem.wf (m : Mem) : Bool := memSorted 0 m

/-- Zeros written from address `low` up to, not including, `high`. -/
def memClear (m : Mem) (low high : Nat) : Mem := m.filter fun cell => decide (cell.1 < low) || decide (high ≤ cell.1)

/-- The size of a page and of a line (04, section 4.1). -/
def pageSize : Nat := 65536

/-- The size of a line. -/
def lineSize : Nat := 64

/-- The most bytes of a segment: 64 pages (Table 4-3). -/
def segmentLimit : Nat := 4194304

/-- The page count below which reclaim starts (04, section 4.1). -/
def reserve : Nat := 256

/-- The address of a segment's byte at an offset (04, section 4.3). -/
def segAddress (pages : List Nat) (x : Nat) : Nat := (pages[x / pageSize]?.getD 0) * pageSize + x % pageSize

/-- Bytes written at an offset of a segment. -/
def segWrite (pages : List Nat) : Mem → Nat → List Byte → Mem
  | m, _, [] => m
  | m, x, b :: rest => segWrite pages (memWrite m (segAddress pages x) b) (x + 1) rest

/-- The outcome of reading a line, or a range of lines (R80, R81). -/
inductive ReadOutcome where
  | clean | corrected | uncorrectable
  deriving DecidableEq, Repr

/-- The bits of a line that are in error. -/
def errorBits (errors : List (Nat × List Nat)) (line : Nat) : List Nat :=
  match errors with
  | [] => []
  | (l, bits) :: rest => if l = line then bits else errorBits rest line

/-- A line free of errors again. -/
def clearLine (errors : List (Nat × List Nat)) (line : Nat) : List (Nat × List Nat) :=
  errors.filter fun e => e.1 != line

/-- What a read of a line finds: one bit in error is corrected, two or more cannot be (R80). -/
def lineOutcome (errors : List (Nat × List Nat)) (line : Nat) : ReadOutcome :=
  match errorBits errors line with
  | [] => .clean
  | [_] => .corrected
  | _ => .uncorrectable

/-- Bits of a line fall into error: the set of bits in error grows, and the list stays in ascending order of lines. -/
def addLineErrors (line : Nat) (bits : List Nat) : List (Nat × List Nat) → List (Nat × List Nat)
  | [] => [(line, bits.dedup)]
  | (l, old) :: rest =>
    if line < l then (line, bits.dedup) :: (l, old) :: rest
    else if line = l then (l, (old ++ bits).dedup) :: rest
    else (l, old) :: addLineErrors line bits rest

/-- The 64 bytes of a line as a read gives them. A corrected line is written back; each uncorrectable line found is
counted, and its bytes are free values (R80, notes/assumptions/5.md). -/
def readLine (line : Nat) (s : State) : ReadOutcome × List Byte × State :=
  let asWritten := (List.range lineSize).map fun i => memRead s.store.dram (line * lineSize + i)
  match lineOutcome s.store.lineErrors line with
  | .clean => (.clean, asWritten, s)
  | .corrected =>
    (.corrected, asWritten, s.modStore fun st => { st with lineErrors := clearLine st.lineErrors line })
  | .uncorrectable =>
    (.uncorrectable, (List.range lineSize).map (fun i => Config.uncorrectableByte (s.freeReads + i)),
      { s.modStore (fun st => { st with uncorrectable := st.uncorrectable + 1 }) with
        freeReads := s.freeReads + lineSize })

/-- Bytes written at an offset of a segment by the writer: every line whole with a fresh code, zeros beyond the bytes,
and a line already holding bytes of the segment read first (R70). -/
def writeSegment (pages : List Nat) (x : Nat) (bytes : List Byte) (s : State) : State :=
  let first := x - x % lineSize
  let (kept, s) :=
    if x % lineSize = 0 then ([], s)
    else
      let (_, whole, s) := readLine (segAddress pages first / lineSize) s
      (whole.take (x % lineSize), s)
  let used := kept ++ bytes
  let lines := (used.length + (lineSize - 1)) / lineSize
  let touched := (List.range lines).map fun i => segAddress pages (first + lineSize * i) / lineSize
  s.modStore fun st =>
    { st with
      dram := segWrite pages st.dram first (used ++ List.replicate (lineSize * lines - used.length) 0)
      lineErrors := st.lineErrors.filter fun e => !touched.contains e.1 }

/-- The lines that hold a range, read in order: the outcome, the bytes of the range, the offsets of the uncorrectable
lines, and the count of corrected lines (R81). -/
structure RangeRead where
  outcome   : ReadOutcome
  bytes     : List Byte
  badLines  : List Nat
  corrected : Nat
  deriving DecidableEq, Repr

/-- Reads so many lines of a segment from an offset on. -/
def readLines (pages : List Nat) : Nat → Nat → State → RangeRead × State
  | 0, _, s => (⟨.clean, [], [], 0⟩, s)
  | n + 1, x, s =>
    let (outcome, bytes, s) := readLine (segAddress pages x / lineSize) s
    let (rest, s) := readLines pages n (x + lineSize) s
    match outcome with
    | .clean => ({ rest with bytes := bytes ++ rest.bytes }, s)
    | .corrected =>
      (⟨if rest.outcome = .clean then .corrected else rest.outcome, bytes ++ rest.bytes, rest.badLines,
        rest.corrected + 1⟩, s)
    | .uncorrectable => (⟨.uncorrectable, bytes ++ rest.bytes, x :: rest.badLines, rest.corrected⟩, s)

/-- Reads a byte range of a segment (R81). -/
def readSegment (pages : List Nat) (x length : Nat) (s : State) : RangeRead × State :=
  let first := x - x % lineSize
  let lines := (x % lineSize + length + (lineSize - 1)) / lineSize
  let (read, s) := readLines pages lines first s
  ({ read with bytes := (read.bytes.drop (x % lineSize)).take length }, s)

end Sys2Proof.Machine
end

