-- ==== Sys2Proof/Machine/Store.lean ====
section
/-! DEFINITION. The Segment Store Controller (04): pages, segments, timelines, pins, reclaim, damage, the patrol and the
store requests. The segment writer is in Writer.lean. -/

namespace Sys2Proof.Machine

/-! ## Records -/

/-- The FILLING or COMPLETE record of an id. -/
def State.segment? (s : State) (id : Nat) : Option Segment := s.store.segments.find? fun g => g.id == id

def State.modSegment (id : Nat) (f : Segment → Segment) (s : State) : State :=
  s.modStore fun st => { st with segments := st.segments.map fun g => if g.id = id then f g else g }

/-- A segment's place in the table, which is kept in ascending order of ids. -/
def insertSegment (g : Segment) : List Segment → List Segment
  | [] => [g]
  | h :: rest => if g.id < h.id then g :: h :: rest else h :: insertSegment g rest

/-- The lowest-numbered FREE record (R67). -/
def State.lowestFreeRecord (s : State) : Option Nat :=
  (List.range (s.store.segments.length + 1)).find? fun i =>
    decide (i < 8192) && !s.store.segments.any fun g => g.id == i

/-- Inserts a number into an ascending list. -/
def insertAscending (n : Nat) : List Nat → List Nat
  | [] => [n]
  | m :: rest => if n < m then n :: m :: rest else if n = m then m :: rest else m :: insertAscending n rest

/-- The timecode of a segment's picture by its index. -/
def pictureTimecode (g : Segment) (index : Nat) : Timecode :=
  timecodeOf g.rate (pictureNumber g.rate g.firstTimecode + index)

/-- The timecode of a segment's last picture. -/
def lastPicture (g : Segment) : Timecode := pictureTimecode g (g.pictures - 1)

/-- The segments of a channel's timeline, oldest first. -/
def State.timeline (s : State) (c : Fin 6) : List Segment := s.store.timelines[c].filterMap s.segment?

/-- The segments of a timeline recorded under the P now in force (R68). -/
def State.timelineNow (s : State) (c : Fin 6) : List Segment :=
  (s.timeline c).filter fun g => g.rate == s.timing.rate

/-- The segment's pictures include t; the index of the picture (R68). -/
def pictureIndex (g : Segment) (t : Timecode) : Option Nat :=
  let d := distance g.rate g.firstTimecode t
  if d < g.pictures then some d else none

/-- Location of a timecode on a channel's timeline, from the newest segment back (R68). -/
def State.locate (s : State) (c : Fin 6) (t : Timecode) : Option Segment :=
  (s.timelineNow c).reverse.find? fun g => (pictureIndex g t).isSome

/-- The oldest retained picture of a channel, with its segment (R68). -/
def State.oldestRetained (s : State) (c : Fin 6) : Option Segment := (s.timelineNow c).head?

/-- The number of initialised pages (R66). -/
def State.initialisedPages (s : State) : Nat := s.store.initPosition

/-- RECORD and BOTH may be requested (R18, R66). -/
def State.storeReady (s : State) : Bool := decide (1024 ≤ s.initialisedPages)

/-! ## Freeing and reclaim -/

/-- The pages of a freed segment, in the order of its page list: retired when on its bad-page list, else free (R77,
notes/assumptions/14.md). -/
def releasePages (bad : List Nat) : List Nat → State → State
  | [], s => s
  | page :: rest, s =>
    releasePages bad rest <|
      if bad.contains page then
        raise (.pageRetired page .reclaim) <| s.modStore fun st =>
          { st with retired := insertAscending page st.retired, pagesRetired := st.pagesRetired + 1 }
      else s.modStore fun st => { st with freePool := insertAscending page st.freePool }

/-- Reads in progress whose outcome reaches less from now on (R77, R189, R190, R191). -/
def State.modReads (f : DemandRead → DemandRead) (s : State) : State :=
  s.modSched fun sc => { sc with reads := sc.reads.map f }

/-- A read of a segment that is freed is a read of no segment any more: a record opened again under that id is another
segment (R67, R189; notes/assumptions/33.md). -/
def loseSegment (id : Nat) (r : DemandRead) : DemandRead :=
  if r.segment = some id then { r with segment := none } else r

/-- A segment is freed (R77). -/
def freeSegment (id : Nat) (s : State) : State :=
  match s.segment? id with
  | none => s
  | some g =>
    ((releasePages g.badPages g.pages s).modReads (loseSegment id)).modStore fun st =>
      { st with
        segments := st.segments.filter fun h => h.id != id
        timelines := vecModify st.timelines g.channel fun t => t.filter (· != id)
        completion := st.completion.filter (· != id)
        reclaimed := st.reclaimed + 1 }

/-- The earliest-completed segment with pin count 0 (R76). -/
def State.firstUnpinned (s : State) : Option Nat :=
  s.store.completion.find? fun id =>
    match s.segment? id with
    | some g => g.pinCount == 0
    | none => false

/-- Frees segments until the pool holds the reserve or none is unpinned, at most so many. -/
def reclaimLoop : Nat → State → State
  | 0, s => s
  | n + 1, s =>
    if s.store.freePool.length < reserve then
      match s.firstUnpinned with
      | some id => reclaimLoop n (freeSegment id s)
      | none => s
    else s

/-- Reclaim for a page need (R76). -/
def reclaimPages (s : State) : State := reclaimLoop s.store.completion.length s

/-- Reclaim for a record need: frees one segment, or none (R76). -/
def reclaimRecord (s : State) : State :=
  match s.firstUnpinned with
  | some id => freeSegment id s
  | none => s

/-- Takes so many pages from the pool, each the lowest at that moment; each page that leaves may trigger a reclaim
(R64, R70, R76). -/
def takePages : Nat → State → List Nat × State
  | 0, s => ([], s)
  | n + 1, s =>
    match s.store.freePool with
    | [] => ([], s)
    | page :: rest =>
      let (pages, s) := takePages n (reclaimPages (s.modStore fun st => { st with freePool := rest }))
      (page :: pages, s)

/-- The pages a picture needs, or `none` when the pool holds too few once reclaim has done what it can (R70). -/
def obtainPages (need : Nat) (s : State) : Option (List Nat) × State :=
  let s := if s.store.freePool.length < need then reclaimPages s else s
  if s.store.freePool.length < need then (none, s)
  else
    let (pages, s) := takePages need s
    (some pages, s)

/-! ## Pins (R74) -/

/-- One pin more on each of the segments. -/
def pinAll (ids : List Nat) (s : State) : State :=
  s.modStore fun st =>
    { st with segments := st.segments.map fun g => if ids.contains g.id then { g with pinCount := g.pinCount + 1 } else g }

/-- A pin on one of the segments would be refused (R74). -/
def State.pinRefused (s : State) (ids : List Nat) : Bool :=
  s.store.segments.any fun g => ids.contains g.id && decide (255 ≤ g.pinCount)

/-- One pin less on a segment; a COMPLETE segment's last pin is a reclaim trigger (R74). -/
def unpin (id : Nat) (s : State) : State :=
  let s := s.modSegment id fun g => { g with pinCount := g.pinCount - 1 }
  match s.segment? id with
  | some g => if g.state = .complete ∧ g.pinCount = 0 then reclaimPages s else s
  | none => s

/-- One pin less on each of the segments, in order. -/
def unpinAll (ids : List Nat) (s : State) : State := ids.foldl (fun s id => unpin id s) s

/-! ## Damage (R82, R118) -/

/-- The clips whose range includes the segment are DAMAGED; those that were not are reported in slot order (R118). -/
def damageClips (id : Nat) (s : State) : State :=
  let reached := s.clipLog.clips.filter fun c => c.range.contains id && !c.damaged
  let s := s.modClipLog fun log =>
    { log with clips := log.clips.map fun c => if c.range.contains id then { c with damaged := true } else c }
  reached.foldl (fun s c => raise (.clipDamaged c.id id) s) s

/-- A segment is marked damaged in the pictures `first` to `last` (R82). -/
def markDamaged (id first last : Nat) (cause : DamageCause) (s : State) : State :=
  match s.segment? id with
  | none => s
  | some g =>
    match g.damage with
    | some d => s.modSegment id fun g => { g with damage := some ⟨min d.first first, max d.last last, d.cause⟩ }
    | none =>
      let s := damageClips id (s.modSegment id fun g => { g with damage := some ⟨first, last, cause⟩ })
      raise (.segmentDamaged id g.channel cause (pictureTimecode g first) (pictureTimecode g last) g.pinCount) s

/-- The picture whose index entry is the greatest offset not above the one given (R82). -/
def pictureAtOffset (g : Segment) (offset : Nat) : Nat := (g.index.takeWhile fun entry => decide (entry ≤ offset)).length - 1

/-- A page joins a segment's bad-page list once. -/
def addBadPage (id page : Nat) (s : State) : State :=
  s.modSegment id fun g =>
    { g with badPages := if g.badPages.contains page then g.badPages else g.badPages ++ [page] }

/-- Uncorrectable lines found in a segment at ascending offsets: each line's page is bad, and one marking covers the
pictures from the first line's to the last one's (R81, R82, notes/assumptions/38.md). -/
def markBadLines (g : Segment) (cause : DamageCause) (offsets : List Nat) (s : State) : State :=
  match offsets with
  | [] => s
  | first :: rest =>
    markDamaged g.id (pictureAtOffset g first) (pictureAtOffset g (rest.getLast?.getD first)) cause <|
      offsets.foldl (fun s offset => addBadPage g.id (g.pages[offset / pageSize]?.getD 0) s) s

/-- A demand read of a byte range (R81): the bytes and the outcome; corrected lines counted, damage marked. `segment` is
absent when it was freed since the read began, and nothing is left to mark (R189; notes/assumptions/33.md). -/
def demandRead (segment : Option Nat) (pages : List Nat) (x length : Nat) (s : State) : RangeRead × State :=
  let (read, s) := readSegment pages x length s
  let s := s.modStore fun st => { st with demandCorrected := st.demandCorrected + BitVec.ofNat 32 read.corrected }
  match segment.bind s.segment? with
  | none => (read, s)
  | some g => (read, markBadLines g .demand read.badLines s)

/-! ## The patrol (R83, R84) -/

/-- The page to read: the one at the patrol position, or the next that is neither uninitialised nor retired (R83). -/
def State.patrolPage (s : State) : Option Nat :=
  let position := s.store.patrolPosition
  let fit := fun page => !s.store.retired.contains page
  match (List.range' position (s.store.initPosition - position)).find? fit with
  | some page => some page
  | none => (List.range s.store.initPosition).find? fit

/-- The segment that lists a page. -/
def State.pageOwner (s : State) (page : Nat) : Option Segment := s.store.segments.find? fun g => g.pages.contains page

/-- The lines of a page read by the patrol. Only lines with an error have an effect (R84); they are taken in ascending
order. -/
def patrolLines (page : Nat) : List Nat → State → State
  | [], s => s
  | line :: rest, s =>
    match readLine line s with
    | (.clean, _, s) => patrolLines page rest s
    | (.corrected, _, s) =>
      patrolLines page rest (s.modStore fun st => { st with patrolCorrected := st.patrolCorrected + 1 })
    | (.uncorrectable, _, s) =>
      match s.pageOwner page with
      | none =>
        reclaimPages <| raise (.pageRetired page .patrol) <| s.modStore fun st =>
          { st with
            freePool := st.freePool.filter (· != page)
            retired := insertAscending page st.retired
            pagesRetired := st.pagesRetired + 1 }
      | some g =>
        let s := addBadPage g.id page s
        let offset := g.pages.idxOf page * pageSize + (line * lineSize - page * pageSize)
        let s :=
          if offset < g.byteLength then
            markDamaged g.id (pictureAtOffset g offset) (pictureAtOffset g offset) .patrol s
          else s
        patrolLines page rest s

/-- The lines of a page that have an error. -/
def State.errorLinesOf (s : State) (page : Nat) : List Nat :=
  (s.store.lineErrors.map (·.1)).filter fun line => line / (pageSize / lineSize) == page

/-- One patrol read; the next comes one interval later (R83). -/
def patrolRead (s : State) : State :=
  let s := s.modStore fun st => { st with patrolDue := s.now + st.patrolInterval * millisecond }
  match s.patrolPage with
  | none => s
  | some page =>
    (patrolLines page (s.errorLinesOf page) s).modStore fun st =>
      { st with patrolPosition := if page + 1 = st.pageCount then 0 else page + 1 }

/-! ## Initialisation (R65) -/

/-- The next page is initialised: written with zeros and a valid code, and free. -/
def initialisePage (s : State) : State :=
  match s.store.state with
  | .ready => s
  | .initialising =>
    let page := s.store.initPosition
    let s := s.modStore fun st =>
      { st with
        dram := memClear st.dram (page * pageSize) ((page + 1) * pageSize)
        lineErrors := st.lineErrors.filter fun e => e.1 / (pageSize / lineSize) != page
        freePool := insertAscending page st.freePool
        initPosition := page + 1 }
    if s.store.initPosition = s.store.pageCount then
      raise (.storeReady s.store.pageCount s.store.freePool.length)
        (s.modStore fun st => { st with state := .ready })
    else s

/-! ## Requests -/

/-- Page counts (R63). -/
def State.pageCounts (s : State) : PageCounts where
  free := s.store.freePool.length
  inSegment := (s.store.segments.map fun g => g.pages.length).sum
  retired := s.store.retired.length
  uninitialised := s.store.pageCount - s.store.initPosition

/-- STORE_SET (R87). -/
def storeSet (body : List Byte) (s : State) : Reply × State :=
  let interval := min 1000 (max 1 (field body 0 2))
  answerOk (.value interval) <| s.modStore fun st =>
    { st with patrolInterval := interval, patrolDue := s.now + interval * millisecond }

/-- STORE_INFO (R88). -/
def storeInfo (_body : List Byte) (s : State) : Reply × State :=
  let st := s.store
  answerOk (.store
    { state := st.state
      pageCount := st.pageCount
      initPosition := st.initPosition
      pages := s.pageCounts
      initialised := s.initialisedPages
      freeRecords := 8192 - st.segments.length
      filling := (st.segments.filter fun g => g.state == .filling).length
      complete := (st.segments.filter fun g => g.state == .complete).length
      patrolInterval := st.patrolInterval
      patrolPosition := st.patrolPosition
      demandCorrected := st.demandCorrected
      patrolCorrected := st.patrolCorrected
      uncorrectable := st.uncorrectable
      reclaimed := st.reclaimed
      pagesRetired := st.pagesRetired
      unstored := st.unstored
      writers := st.writers }) s

/-- SEGMENT_INFO (R88). -/
def segmentInfo (body : List Byte) (s : State) : Reply × State :=
  let id := field body 0 2
  if 8192 ≤ id then refuse .badValue s
  else
    match s.segment? id with
    | none => refuse .notFound s
    | some g =>
      answerOk (.segment g (some (s.store.timelines[g.channel].idxOf id))) s

/-- TIMELINE_INFO (R89). -/
def timelineInfo (body : List Byte) (s : State) : Reply × State :=
  match finOf 6 (field body 0 1) with
  | none => refuse .badValue s
  | some c =>
    let all := s.timeline c
    let entries := ((all.drop (field body 1 2)).take 32).map fun g =>
      (⟨g.id, g.state, g.firstTimecode, g.pictures, g.pinCount, g.damage.isSome⟩ : TimelineEntry)
    let oldest := (s.oldestRetained c).map (·.firstTimecode)
    answerOk (fitEntries (.timeline all.length oldest) entries) s

end Sys2Proof.Machine
end

