-- ==== Sys2Proof/Machine/Clips.lean ====
section
/-! DEFINITION. The Clip Log (05): the clip table, in-points and out-points, gaps, completion of a close, send states and
confirms. The clip requests are in ClipRequests.lean. -/

namespace Sys2Proof.Machine

/-! ## The table (R92) -/

/-- The record in use that holds an id. -/
def State.clip? (s : State) (id : Nat) : Option Clip := s.clipLog.clips.find? fun c => c.id == id

/-- The record that a request naming an id finds: one whose discard pending is no (R92). -/
def State.clipNamed (s : State) (id : Nat) : Option Clip := s.clipLog.clips.find? fun c => c.id == id && !c.discardPending

def State.modClip (id : Nat) (f : Clip → Clip) (s : State) : State :=
  s.modClipLog fun log => { log with clips := log.clips.map fun c => if c.id = id then f c else c }

/-- A record's place in the table, in ascending order of slots. -/
def insertClip (c : Clip) : List Clip → List Clip
  | [] => [c]
  | d :: rest => if c.slot < d.slot then c :: d :: rest else d :: insertClip c rest

/-- The lowest-numbered free slot. -/
def State.freeSlot (s : State) : Option Nat := (List.range 256).find? fun i => !s.clipLog.clips.any fun c => c.slot == i

/-- The first id from the next id on that no record in use holds, 65535 being followed by 1 (R92). -/
def State.nextClipId (s : State) : Nat :=
  let candidates := (List.range (s.clipLog.clips.length + 1)).map fun i => (s.clipLog.nextId - 1 + i) % 65535 + 1
  (candidates.find? fun id => !s.clipLog.clips.any fun c => c.id == id).getD s.clipLog.nextId

/-- Clip demand is yes while a record is QUEUED or SENDING (R108). -/
def State.clipDemand (s : State) : Bool := s.clipLog.clips.any fun c => c.send == .queued || c.send == .sending

/-- A change of clip demand is reported (R108). -/
def updateDemand (s : State) : State :=
  if s.clipDemand = s.alloc.clipDemand then s else reportDemand s.clipDemand s

/-- A change of send state with its notice and the demand it leaves (R108, R109). -/
def setSend (id : Nat) (after : SendState) (cause : SendCause) (s : State) : State :=
  match s.clip? id with
  | none => s
  | some c =>
    updateDemand <| raise (.sendState id c.send after cause) <| s.modClip id fun c => { c with send := after }

/-- A read of a clip that was rewound or cut changes no cursor, and stays the clip's read in progress (R184, R190). -/
def rewindRead (p : DemandRead → Bool) (r : DemandRead) : DemandRead :=
  if p r && r.use == .cursor then { r with use := .rewound } else r

/-- A read of a clip whose record is freed is no clip's read any more (R189). -/
def freeRead (id : Nat) (r : DemandRead) : DemandRead := if r.clip = id then { r with use := .freed } else r

/-- A record is freed by a discard (R92, R112). -/
def freeClip (id : Nat) (s : State) : State :=
  match s.clip? id with
  | none => s
  | some c =>
    let s := s.modClipLog fun log => { log with clips := log.clips.filter fun d => d.id != id }
    let s := unpinAll c.range (s.modReads (freeRead id))
    updateDemand (raise (.clipDiscarded id) s)

/-! ## Ranges and completion of a close -/

/-- The last segment of a range. -/
def Clip.lastSegment (c : Clip) : Option Nat := c.range.getLast?

/-- The first segment of a range. -/
def Clip.firstSegment (c : Clip) : Option Nat := c.range.head?

/-- A position that lies in or after a removed segment moves to the boundary after the out segment (R191). -/
def cutPosition (removed : List Nat) (outSegment : Option Nat) : Position → Position
  | .inside segment offset => if removed.contains segment then .boundary outSegment true else .inside segment offset
  | .boundary (some segment) passed =>
    if removed.contains segment then .boundary outSegment true else .boundary (some segment) passed
  | .boundary none passed => .boundary none passed
  | .beforeStart => .beforeStart

/-- An item that names a removed segment. -/
def itemNames (removed : List Nat) : QueuedItem → Bool
  | .resend (some segment) => removed.contains segment
  | .damaged segment => removed.contains segment
  | .resend none | .abort => false

/-- The cursor is kept consistent with a cut range (R191). -/
def cutCursor (removed : List Nat) (outSegment : Option Nat) (gaps : Nat) (k : Cursor) : Cursor :=
  { k with
    position := cutPosition removed outSegment k.position
    sent := k.sent.filter fun e => !removed.contains e.1
    items := k.items.filter fun i => !itemNames removed i
    gapsEmitted := min k.gapsEmitted gaps }

/-- The segments of a range that lie after the out segment; all of them when there is none (R101, step 1). -/
def segmentsAfter (outSegment : Option Nat) (range : List Nat) : List Nat :=
  match outSegment with
  | none => range
  | some o => (range.dropWhile (· != o)).drop 1

/-- The gaps that a close leaves: none after a removed segment, none that starts after the out-point, none open
(R101, step 2). At a rate take the timecodes are ordered and counted under the new P, at RESET KEEP_STORE under the P
before it (notes/assumptions/44.md). -/
def gapsAfterClose (s : State) (outPoint : Timecode) (removed : List Nat) (gaps : List Gap) : List Gap :=
  (gaps.filter fun g =>
      !(match g.follows with | some f => removed.contains f | none => false) && !s.earlier outPoint g.start).map
    fun g => { g with count := some (g.count.getD (distance s.timing.rate g.start outPoint)) }

/-- The close digest of a range (R101, step 3). -/
def State.digestOf (s : State) (range : List Nat) : Digest :=
  onesSum (range.filterMap fun id => (s.segment? id).map (·.digest))

/-- A close completes (R101), with its out-point already placed. -/
def completeClose (id : Nat) (outSegment : Option Nat) (cause : CloseCause) (s : State) : State :=
  match s.clip? id with
  | none => s
  | some c =>
    let removed := segmentsAfter outSegment c.range
    let outPoint := c.outPoint.getD c.inPoint
    let range := c.range.filter fun g => !removed.contains g
    let gaps := gapsAfterClose s outPoint removed c.gaps
    let digest := s.digestOf range
    let s := s.modClip id fun c =>
      { c with
        range := range
        gaps := gaps
        outPoint := some outPoint
        inPending := false
        outPending := false
        cursor := c.cursor.map (cutCursor removed outSegment gaps.length) }
    let s := unpinAll removed (s.modReads (rewindRead fun r => r.clip == id && r.segment.any removed.contains))
    let s := s.modClip id fun c =>
      { c with closeDigest := some digest, record := .closed, outSegment := none, closeOrigin := none }
    raise (.clipClosed id outPoint digest range.length gaps.length cause) s

/-- The cause of a completed close that a request or a cue began. -/
def originCause : Option Origin → CloseCause
  | some .cue => .cue
  | some .request | none => .request

/-- Closes at the last picture of the last segment of the range, or at the in-point when the range is absent
(R97, R98); so does a clip whose in-point or out-point a cue of the same tick has left pending
(notes/assumptions/42.md). -/
def closeAtEnd (id : Nat) (cause : CloseCause) (s : State) : State :=
  match s.clip? id with
  | none => s
  | some c =>
    let out := ((c.lastSegment.bind s.segment?).map lastPicture).getD c.inPoint
    completeClose id c.lastSegment cause (s.modClip id fun c => { c with outPoint := some out })

/-- Case 2 or 3 of R100: the out segment is COMPLETE and the close completes, or it is FILLING and the clip waits. -/
def closeInSegment (id segment : Nat) (cause : CloseCause) (s : State) : State :=
  match s.segment? segment with
  | none => completeClose id none cause s
  | some g =>
    match g.state with
    | .complete => completeClose id (some segment) cause s
    | .filling =>
      s.modClip id fun c =>
        { c with record := .closing, outSegment := some segment, outPending := false, inPending := false }

/-! ## What the segment writer tells the Clip Log -/

/-- The ids of the clips that satisfy `p`, in slot order. -/
def State.clipsWhere (s : State) (p : Clip → Bool) : List Nat := (s.clipLog.clips.filter p).map (·.id)

/-- The clip is OPEN on the channel. -/
def openOn (c : Fin 6) (clip : Clip) : Bool := clip.record == .opened && clip.channel == c

/-- The segment of a range after a boundary. -/
def segmentAfter (range : List Nat) : Option Nat → Option Nat
  | none => range.head?
  | some g => (segmentsAfter (some g) range).head?

/-- A position at the end of the range moves to the start of the segment by which the range extends (R186), but for a
boundary with a gap still to be emitted (notes/assumptions/28.md). -/
def extendCursor (c : Clip) (segment : Nat) (k : Cursor) : Cursor :=
  match k.position with
  | .boundary after true =>
    if (segmentAfter c.range after).isNone && (c.gaps[k.gapsEmitted]?).all (fun g => g.follows != after) then
      { k with position := .inside segment 0 }
    else k
  | .boundary _ false | .beforeStart | .inside _ _ => k

/-- A range extends to a segment (R75, R97). -/
def extendClip (segment : Nat) (c : Clip) : Clip :=
  { c with range := c.range ++ [segment], cursor := c.cursor.map (extendCursor c segment) }

/-- A segment opens: every OPEN clip on the channel extends to it and pins it (R75, R97). -/
def extendClips (c : Fin 6) (segment : Nat) (s : State) : State :=
  let extended := s.clipsWhere (openOn c)
  let s := s.modClipLog fun log =>
    { log with clips := log.clips.map fun k => if openOn c k then extendClip segment k else k }
  s.modSegment segment fun g => { g with pinCount := extended.length }

/-- A segment completes: the closes that wait on it complete (R72, R101). -/
def completeCloses (segment : Nat) (s : State) : State :=
  (s.clipLog.clips.filter fun c => c.record == .closing && c.outSegment == some segment).foldl
    (fun s c => completeClose c.id (some segment) (originCause c.closeOrigin) s) s

/-- The in-point picture was stored: the range begins at its segment (R96). A cursor at a segment that the range loses is
moved as R191 moves it at a cut (notes/assumptions/40.md). -/
def settleInStored (segment : Nat) (s : State) (id : Nat) : State :=
  match s.clip? id with
  | none => s
  | some c =>
    let before := c.range.takeWhile (· != segment)
    unpinAll before <| s.modClip id fun c =>
      { c with
        range := c.range.dropWhile (· != segment)
        inPending := false
        cursor := c.cursor.map (cutCursor before none c.gaps.length) }

/-- The out-point picture was stored: its segment becomes the out segment (R100, case 1). -/
def settleOutStored (segment : Nat) (s : State) (id : Nat) : State :=
  match s.clip? id with
  | none => s
  | some c => closeInSegment id segment (originCause c.closeOrigin) s

/-- A picture of the channel was stored in a segment (R96, R100). -/
def pictureStored (c : Fin 6) (segment : Nat) (s : State) : State :=
  let s := (s.clipsWhere fun k => openOn c k && k.inPending).foldl (settleInStored segment) s
  (s.clipsWhere fun k => openOn c k && k.outPending).foldl (settleOutStored segment) s

/-- The in-point picture was not stored: the range becomes absent, and when the writer was already paused the clip gets
an open gap before the range (R96). The cursor is moved as in `settleInStored`. -/
def settleInUnstored (alreadyPaused : Bool) (s : State) (id : Nat) : State :=
  match s.clip? id with
  | none => s
  | some c =>
    unpinAll c.range <| s.modClip id fun c =>
      { c with
        range := []
        inPending := false
        truncated := c.truncated || alreadyPaused
        gaps := if alreadyPaused then c.gaps ++ [⟨c.inPoint, none, none⟩] else c.gaps
        cursor := c.cursor.map (cutCursor c.range none c.gaps.length) }

/-- The out-point picture was not stored (R100, case 1). -/
def settleOutUnstored (s : State) (id : Nat) : State :=
  match s.clip? id with
  | none => s
  | some c =>
    let cause := originCause c.closeOrigin
    match c.lastSegment.bind s.segment? with
    | some g =>
      closeInSegment id g.id cause (s.modClip id fun c => { c with outPoint := some (lastPicture g), clamped := true })
    | none => completeClose id none cause s

/-- A pause reaches an OPEN clip: a gap, or the close of a clip that holds 16 (R97). -/
def addGap (start : Timecode) (s : State) (id : Nat) : State :=
  match s.clip? id with
  | none => s
  | some c =>
    if 16 ≤ c.gaps.length then closeAtEnd id .gapLimit s
    else
      raise (.clipGap id start) <| s.modClip id fun c =>
        { c with truncated := true, gaps := c.gaps ++ [⟨start, none, c.lastSegment⟩] }

/-- A picture of the channel was not stored; `pauseStart` is the gap start when the writer paused at this handover
(R96, R97, R100). -/
def pictureUnstored (c : Fin 6) (pauseStart : Option Timecode) (s : State) : State :=
  let s := (s.clipsWhere fun k => openOn c k && k.inPending).foldl (settleInUnstored pauseStart.isNone) s
  let s :=
    match pauseStart with
    | some start => (s.clipsWhere fun k => openOn c k && !k.outPending).foldl (addGap start) s
    | none => s
  (s.clipsWhere fun k => openOn c k && k.outPending).foldl settleOutUnstored s

/-- A pause ends at a picture or a take: the open gaps of the channel's OPEN clips close (R97), counted under the P in
force (notes/assumptions/44.md). -/
def closeGaps (c : Fin 6) (stop : Timecode) (s : State) : State :=
  s.modClipLog fun log =>
    { log with
      clips := log.clips.map fun k =>
        if openOn c k then
          { k with gaps := k.gaps.map fun g =>
              { g with count := some (g.count.getD (distance s.timing.rate g.start stop)) } }
        else k }

/-- The channel leaves recording: every OPEN clip on it closes at once (R98). -/
def closeOpenClips (c : Fin 6) (s : State) : State :=
  (s.clipsWhere (openOn c)).foldl (fun s id => closeAtEnd id .leave s) s

/-! ## Placing an in-point (R95) -/

/-- An in-point as placed: `start` is the segment at which the range begins, `gap` says that an open gap starts at the
in-point and lies before the range. -/
structure PlacedIn where
  inPoint : Timecode
  clamped : Bool
  waits   : Bool
  start   : Option Nat
  gap     : Bool
  deriving DecidableEq, Repr

/-- The picture in progress as an in-point: case 1 while it has not been handed over, else where it lies. One that was
stored and whose segment has been reclaimed since, outside a pause, lies nowhere: the in-point stays, with no range
(notes/assumptions/21.md). -/
def State.placeNow (s : State) (c : Fin 6) (clamped : Bool) : PlacedIn :=
  let now := s.timing.timecode
  if !s.coders[c].handed then ⟨now, clamped, true, s.coders[c].filling, false⟩
  else
    match s.locate c now with
    | some g => ⟨now, clamped, false, some g.id, false⟩
    | none => ⟨now, clamped, false, none, s.store.writers[c].state == .paused⟩

/-- The writer is PAUSED and the timecode is not earlier than the gap start. -/
def State.inPause (s : State) (c : Fin 6) (t : Timecode) : Bool :=
  match s.store.writers[c].state, s.store.writers[c].gapStart with
  | .paused, some start => !s.earlier t start
  | _, _ => false

/-- The first case of R95 that applies; the last branch is an in-point that none of them covers
(notes/assumptions/11.md). -/
def State.placeIn (s : State) (c : Fin 6) (t : Timecode) : PlacedIn :=
  if t = s.timing.timecode ∧ s.coders[c].handed = false then s.placeNow c false
  else
    match s.locate c t with
    | some g => ⟨t, false, false, some g.id, false⟩
    | none =>
      match s.oldestRetained c with
      | none => s.placeNow c (t != s.timing.timecode)
      | some oldest =>
        if s.earlier t oldest.firstTimecode then ⟨oldest.firstTimecode, true, false, some oldest.id, false⟩
        else
          match (s.timelineNow c).find? fun g => s.earlier t g.firstTimecode with
          | some g => ⟨g.firstTimecode, true, false, some g.id, false⟩
          | none =>
            if s.inPause c t then ⟨t, false, false, none, true⟩
            else s.placeNow c (t != s.timing.timecode)

/-- The range that begins at a segment: to the end of the channel's timeline (R95). -/
def State.rangeFrom (s : State) (c : Fin 6) (start : Option Nat) : List Nat :=
  match start with
  | none => []
  | some id => s.store.timelines[c].dropWhile (· != id)

/-! ## Placing an out-point (R100) -/

/-- An out-point as placed. -/
inductive PlacedOut where
  /-- Case 1: the picture in progress, not handed over. -/
  | waits
  /-- Cases 2 and 3, with the out-point moved back to the last picture of the segment when `clamped`. -/
  | inSegment (segment : Nat) (clamped : Bool)
  /-- Cases 4 and 5 with no stored picture before the out-point. -/
  | empty
  deriving DecidableEq, Repr

/-- A gap of the clip holds the timecode. -/
def State.gapHolds (s : State) (t : Timecode) (g : Gap) : Bool :=
  !s.earlier t g.start &&
    (match g.count with
     | some n => decide (distance s.timing.rate g.start t < n)
     | none => true)

/-- The first case of R100 that applies; an out-point that the timeline holds in a segment outside the clip's range counts
as not located (notes/assumptions/43.md). -/
def State.placeOut (s : State) (c : Clip) (t : Timecode) : PlacedOut :=
  if t = s.timing.timecode ∧ s.coders[c.channel].handed = false then .waits
  else
    match (s.locate c.channel t).filter fun g => c.range.contains g.id with
    | some g => .inSegment g.id false
    | none =>
      match c.gaps.find? (s.gapHolds t) with
      | some gap =>
        match gap.follows with
        | some segment => .inSegment segment true
        | none => .empty
      | none =>
        match c.range.reverse.find? fun id =>
          match s.segment? id with
          | some g => s.earlier g.firstTimecode t
          | none => false with
        | some segment => .inSegment segment true
        | none => .empty

/-! ## Confirmation (R113 to R117) -/

/-- A cursor before START with an item queue (08, Table 8-3). -/
def freshCursor (items : List QueuedItem) : Cursor where
  position := .beforeStart
  items := items
  sequence := 0
  gapsEmitted := 0
  segmentSum := 0
  sent := []

/-- Takes a queue number from the queue counter (R107, R116); after 4,294,967,295 it takes 0
(notes/assumptions/50.md). -/
def takeQueueNumber (id : Nat) (s : State) : State :=
  (s.modClip id fun c => { c with queueNumber := some s.clipLog.queueCounter }).modClipLog fun log =>
    { log with queueCounter := log.queueCounter + 1 }

/-- The end of a wait for a confirm, with cause MISMATCH or TIMEOUT: one resend, then FAILED (R116). -/
def endWait (id : Nat) (cause : SendCause) (s : State) : State :=
  match s.clip? id with
  | none => s
  | some c =>
    if c.resendUsed then
      setSend id .failed cause <| s.modClip id fun c =>
        { c with confirmDeadline := none, queueNumber := none, cursor := none }
    else
      let s := s.modClip id fun c =>
        { c with
          resendUsed := true
          sendDigest := none
          confirmDeadline := none
          cursor := some (freshCursor [.resend c.firstSegment])
          started := false
          markersSent := 0 }
      setSend id .queued cause (takeQueueNumber id s)

/-- A good CLIP_CONFIRM frame (R114). -/
def confirmClip (path : Fin 4) (id : Nat) (digest : Digest) (s : State) : State :=
  match s.clipNamed id with
  | none => raise (.confirmIgnored path id digest) s
  | some c =>
    if c.send ≠ .awaitConfirm then raise (.confirmIgnored path id digest) s
    else if c.sendDigest = some digest then
      setSend id .sent .confirmed <| s.modClip id fun c =>
        { c with confirmDeadline := none, queueNumber := none, cursor := none }
    else endWait id .mismatch s

/-- The Clip Log's handling of a clip that a path failure reports (R117). -/
def reportFailedClip (id : Nat) (s : State) : State :=
  match s.clipNamed id with
  | none => s
  | some c =>
    if c.send = .awaitConfirm then
      setSend id .queued .pathFailure <| s.modClip id fun c => { c with confirmDeadline := none, sendDigest := none }
    else s

/-! ## RESET KEEP_STORE (R121) -/

/-- An OPEN or CLOSING clip trimmed to its COMPLETE segments; `s` is the state before the reset
(notes/assumptions/44.md). -/
def trimClip (s : State) (c : Clip) : Clip :=
  let complete := fun id => (s.segment? id).any fun g => g.state == .complete
  let range := c.range.takeWhile complete
  let removed := c.range.dropWhile complete
  let out := ((range.getLast?.bind s.segment?).map lastPicture).getD c.inPoint
  { c with
    range := range
    outPoint := some out
    inPending := false
    outPending := false
    outSegment := none
    closeOrigin := none
    gaps := gapsAfterClose s out removed c.gaps
    truncated := true
    closeDigest := some (s.digestOf range)
    record := .closed }

/-- A clip whose send was in progress is IDLE again. -/
def idleClip (c : Clip) : Clip :=
  match c.send with
  | .queued | .sending | .held | .awaitConfirm =>
    { c with
      send := .idle
      cursor := none
      started := false
      markersSent := 0
      resendUsed := false
      sendDigest := none
      queueNumber := none
      confirmDeadline := none }
  | .idle | .sent | .failed => c

/-- The clip log after RESET KEEP_STORE (R121). The trimming is made in the state before the reset, under its P and its
timecode (notes/assumptions/44.md). -/
def keepClips (s : State) : ClipLog where
  clips := (s.clipLog.clips.filter fun c => !c.discardPending).map fun c =>
    idleClip (match c.record with | .opened | .closing => trimClip s c | .closed => c)
  nextId := s.clipLog.nextId
  queueCounter := 0
  timeout := 10

end Sys2Proof.Machine
end

