-- ==== Sys2Proof/Machine/Writer.lean ====
section
/-! DEFINITION. The segment writer (04, sections 4.4 and 4.6): opening, storing and closing segments, pausing and
resuming. -/

namespace Sys2Proof.Machine

def State.modWriter (c : Fin 6) (f : Writer → Writer) (s : State) : State :=
  s.modStore fun st => { st with writers := vecModify st.writers c f }

/-- The filling segment of a channel. -/
def State.fillingSegment (s : State) (c : Fin 6) : Option Segment := s.coders[c].filling.bind s.segment?

/-- The pages that hold so many bytes. -/
def pagesFor (bytes : Nat) : Nat := (bytes + pageSize - 1) / pageSize

/-- The pad byte of a segment that closes with an odd byte length (R71), written like a picture's first bytes: its line is
read again first (notes/assumptions/37.md). -/
def padSegment (g : Segment) (s : State) : State :=
  if g.byteLength % 2 = 0 then s
  else (writeSegment g.pages g.byteLength [0] s).modSegment g.id fun g => { g with byteLength := g.byteLength + 1 }

/-- The channel's filling segment closes (R72). -/
def closeSegment (c : Fin 6) (reason : CloseReason) (s : State) : State :=
  match s.fillingSegment c with
  | none => s
  | some g =>
    let s := (padSegment g s).modSegment g.id fun g => { g with state := .complete, closeReason := some reason }
    let s := (s.modStore fun st => { st with completion := st.completion ++ [g.id] }).modCoder c fun k =>
      { k with filling := none }
    let s := completeCloses g.id s
    if g.pinCount = 0 then reclaimPages s else s

/-- A new FILLING segment (R69, step 4). -/
def newSegment (id : Nat) (c : Fin 6) (segLength : Nat) (p : PictureRate) (t : Timecode) (pages : List Nat) : Segment where
  id := id
  state := .filling
  channel := c
  segLength := segLength
  rate := p
  firstTimecode := t
  pictures := 0
  index := []
  byteLength := 0
  pages := pages
  digest := 0
  closeReason := none
  pinCount := 0
  damage := none
  badPages := []

/-- Opens a segment for a picture of so many bytes: false when no record or too few pages can be had (R69, step 4). -/
def openSegment (c : Fin 6) (t : Timecode) (bytes : Nat) (s : State) : Bool × State :=
  let s := if s.lowestFreeRecord.isNone then reclaimRecord s else s
  match s.lowestFreeRecord with
  | none => (false, s)
  | some id =>
    match obtainPages (pagesFor bytes) s with
    | (none, s) => (false, s)
    | (some pages, s) =>
      let g := newSegment id c s.coders[c].segLength s.timing.rate t pages
      let s := s.modStore fun st =>
        { st with
          segments := insertSegment g st.segments
          timelines := vecModify st.timelines c fun line => line ++ [id] }
      (true, extendClips c id (s.modCoder c fun k => { k with filling := some id }))

/-- The bytes of a picture at the end of the filling segment, whose pages are in hand (R70, R71). -/
def appendPicture (g : Segment) (bytes : List Byte) (s : State) : State :=
  (writeSegment g.pages g.byteLength bytes s).modSegment g.id fun g =>
    { g with
      index := g.index ++ [g.byteLength]
      pictures := g.pictures + 1
      byteLength := g.byteLength + bytes.length
      digest := onesAddBytes g.digest g.byteLength bytes }

/-- A picture stored in the filling segment (R69, steps 5 and 6): false when the pages cannot be had. -/
def storePicture (c : Fin 6) (bytes : List Byte) (s : State) : Bool × State :=
  match s.fillingSegment c with
  | none => (false, s)
  | some g =>
    match obtainPages (pagesFor (g.byteLength + bytes.length) - g.pages.length) s with
    | (none, s) => (false, s)
    | (some pages, s) =>
      let s := s.modSegment g.id fun g => { g with pages := g.pages ++ pages }
      let s := pictureStored c g.id (appendPicture { g with pages := g.pages ++ pages } bytes s)
      (true, if g.pictures + 1 = g.segLength then closeSegment c .length s else s)

/-- The number of FREE records. -/
def State.freeRecords (s : State) : Nat := 8192 - s.store.segments.length

/-- The writer pauses at a picture that was not stored (R78). -/
def pauseWriter (c : Fin 6) (t : Timecode) (s : State) : State :=
  let s := s.modWriter c fun _ => ⟨.paused, some t, 1⟩
  let s := s.modStore fun st => { st with unstored := st.unstored + 1 }
  let s := pictureUnstored c (some t) s
  raise (.storeFull c t s.store.freePool.length s.freeRecords) s

/-- The pause ends (R79): STORE_RESUMED with the picture stored, or with none when the channel leaves recording. -/
def endPause (c : Fin 6) (stored : Option Timecode) (s : State) : State :=
  let w := s.store.writers[c]
  let s := raise (.storeResumed c stored (w.gapStart.getD s.timing.timecode) w.unstored) s
  s.modWriter c fun w => { w with gapStart := none, unstored := 0 }

/-- A picture handed over to a PAUSED writer (R79). The count of pictures unstored in the pause is taken to wrap to 0 after
4,294,967,295 (notes/assumptions/57.md). A clip whose pending out-point is that picture is no longer OPEN when
the gaps close (notes/assumptions/19.md). -/
def resumeWriter (c : Fin 6) (t : Timecode) (bytes : List Byte) (s : State) : State :=
  match openSegment c t bytes.length s with
  | (true, s) =>
    let (_, s) := storePicture c bytes s
    endPause c (some t) (closeGaps c t (s.modWriter c fun w => { w with state := .writing }))
  | (false, s) =>
    let s := s.modWriter c fun w => { w with unstored := w.unstored + 1 }
    pictureUnstored c none (s.modStore fun st => { st with unstored := st.unstored + 1 })

/-- A picture follows a filling segment when it is one picture later than its last (R69, step 2). -/
def follows (g : Segment) (t : Timecode) : Bool := distance g.rate (lastPicture g) t == 1

/-- The filling segment closes when the picture does not follow it or would overflow it (R69, steps 2 and 3). -/
def closeBefore (c : Fin 6) (t : Timecode) (bytes : Nat) (s : State) : State :=
  match s.fillingSegment c with
  | none => s
  | some g =>
    if !follows g t then closeSegment c .discontinuity s
    else if segmentLimit < g.byteLength + bytes then closeSegment c .pages s
    else s

/-- The handover of a picture to the writer (R69). -/
def handOver (c : Fin 6) (t : Timecode) (bytes : List Byte) (s : State) : State :=
  if s.store.writers[c].state = .paused then resumeWriter c t bytes s
  else
    let s := closeBefore c t bytes.length s
    let (opened, s) := if s.coders[c].filling.isNone then openSegment c t bytes.length s else (true, s)
    if !opened then pauseWriter c t s
    else
      match storePicture c bytes s with
      | (true, s) => s
      | (false, s) => pauseWriter c t (closeSegment c .pause s)

/-- The channel starts recording: its writer is WRITING with no gap (R21). -/
def startWriter (c : Fin 6) (s : State) : State := s.modWriter c fun _ => ⟨.writing, none, 0⟩

/-- The channel leaves recording (R73, R98). -/
def leaveRecording (c : Fin 6) (s : State) : State :=
  let s := closeSegment c .leave s
  let s := if s.store.writers[c].state = .paused then endPause c none (closeGaps c s.timing.timecode s) else s
  closeOpenClips c (s.modWriter c fun _ => resetWriter)

end Sys2Proof.Machine
end

