-- ==== Sys2Proof/Machine/Coder.lean ====
section
/-! DEFINITION. The Picture Coder's channels and input ports (02) with their rate control (03, sections 3.4 and 3.5). -/

namespace Sys2Proof.Machine

/-! ## Input states (R15, R17) -/

/-- The notice of a channel's new input state. -/
def inputNotice (c : Fin 6) (port : Fin 8) : InputState → NoticeBody
  | .lost => .inputLost c port
  | .present => .inputBack c port

/-- A port's new input state is copied by the channels whose source it is; those not OFF report it (R15). -/
def portChange (p : Fin 8) (state : InputState) (s : State) : State :=
  (vecWhere (fun k : CoderChannel => k.source == p) s.coders).foldl (fun s c =>
    let s := s.modCoder c fun k => { k with input := state }
    if s.coders[c].mode = .off then s else raise (inputNotice c p state) s)
    (s.modPort p fun port => { port with input := state })

/-- The embedded selections that name a port (R123). -/
def selectionsOf (p : Fin 8) (m : Mixer) : List (Fin 2) := vecWhere (fun e : Embedded => e.port == p) m.embedded

/-- A selection is silent when its port is LOST or the picture now arriving does not carry its pair (R123). Between
the end of one picture and the start of the next, the picture that last started counts (notes/assumptions/52.md). -/
def State.silent (s : State) (e : Embedded) : Bool :=
  s.ports[e.port].input == .lost ||
    (match s.ports[e.port].arriving with
     | some a => !a.pairs[e.pair]
     | none => true)

/-- The input queue of a silent selection is emptied (R123). -/
def emptySilent (s : State) : State :=
  s.modMixer fun m =>
    { m with embedded := vecMap (fun e =>
        if s.silent e then { e with queue := { e.queue with frames := [] } } else e) m.embedded }

/-! ## Late drops (R61, R177) -/

/-- A late drop of a channel's live stream: counted, and F set to Bv. -/
def lateDrop (c : Fin 6) (s : State) : State :=
  s.modCoder c fun k => { k with lateDrops := k.lateDrops + 1, fullness := k.bufferSize }

/-- The truncate mark goes to the picture at a place of the live buffer, or waits for the next to join (R177). -/
def markTruncated (c : Fin 6) (place : Nat) (s : State) : State :=
  if place < s.coders[c].liveBuffer.length then
    s.modCoder c fun k => { k with liveBuffer := k.liveBuffer.modify place fun p => { p with truncate := true } }
  else s.modSched fun sc => { sc with truncatePending := vecSet sc.truncatePending c true }

/-- The picture at a place of the live buffer, or its remainder, is dropped as late (R39, R178). -/
def dropLive (c : Fin 6) (place : Nat) (s : State) : State :=
  markTruncated c place <| lateDrop c <| s.modCoder c fun k => { k with liveBuffer := k.liveBuffer.eraseIdx place }

/-- The occupancy of a live buffer (R38). -/
def occupancy (buffer : List LivePicture) : Nat := (buffer.map fun p => p.bytes.length - p.started).sum

/-- Room drops: the oldest picture not begun goes first, a partly started one last (R39). -/
def makeRoom (c : Fin 6) (bytes : Nat) : Nat → State → State
  | 0, s => s
  | n + 1, s =>
    let buffer := s.coders[c].liveBuffer
    if occupancy buffer + bytes ≤ pictureLimit then s
    else
      let unbegun := buffer.findIdx fun p => p.started == 0
      let place := if unbegun < buffer.length then unbegun else 0
      match buffer[place]? with
      | none => s
      | some p => makeRoom c bytes n (raise (.liveFull c p.timecode p.sequence) (dropLive c place s))

/-- A picture joins the live buffer (R39, R177). -/
def joinLive (c : Fin 6) (p : LivePicture) (s : State) : State :=
  let s := makeRoom c p.bytes.length s.coders[c].liveBuffer.length s
  let p := { p with truncate := s.sched.truncatePending[c] }
  (s.modCoder c fun k => { k with liveBuffer := k.liveBuffer ++ [p] }).modSched fun sc =>
    { sc with truncatePending := vecSet sc.truncatePending c false }

/-! ## Picture start (R34, R36, R55, R57) -/

/-- The budget and rate state that a channel reads at picture start (R34, R55). -/
def State.readBudget (s : State) (c : Fin 6) : Nat × RateState :=
  if s.coders[c].mode.isLive then (s.alloc.budget[c], s.alloc.rateState[c]) else (s.coders[c].recordRate, .full)

/-- The kind of picture, by the first case that applies (R36). -/
def chooseKind (input : InputState) (held new forced : Bool) (state : RateState) (ff : Nat) : PictureKind :=
  if input = .lost ∨ held = false ∨ new = false then .repeated .input
  else if forced then .repeated .overflow
  else if state = .starved then .repeated .starved
  else if state = .halfRate ∧ ff % 2 = 1 then .repeated .halfRate
  else .coded

/-- Picture start. -/
def pictureStart (c : Fin 6) (s : State) : State :=
  let (budget, state) := s.readBudget c
  let k := s.coders[c]
  let port := s.ports[k.source]
  let kind := chooseKind k.input port.held.isSome port.heldNew k.forcedRepeat state s.timing.timecode.ff
  let bytes := budget * 31
  s.modCoder c fun k =>
    { k with
      rateState := state
      byteBudget := bytes
      bufferSize := 4 * bytes
      fullness := min k.fullness (4 * bytes)
      forcedRepeat := false
      inFlight := some ⟨kind, port.held, k.q, bytes, s.timing.timecode⟩ }

/-! ## Rate control at picture coded (R58, R59) -/

/-- The change of q by the fullness band (Table 3-5). -/
def bandChange (band : Nat) : Int :=
  if band = 0 then -2 else if band ≤ 3 then -1 else if band ≤ 7 then 0 else if band ≤ 11 then 1 else 3

/-- An index kept within bounds. -/
def clampIndex (low high : Nat) (q : Int) : Nat := (max (low : Int) (min (high : Int) q)).toNat

/-- The next q from the fullness (R59). -/
def nextIndex (fullness bufferSize qMin qMax qStart : Nat) : Nat :=
  let band := if bufferSize = 0 then 0 else 16 * fullness / bufferSize
  clampIndex qMin qMax (qStart + bandChange band)

/-- The update of fullness by a picture of N bytes, with its overflow (R58), and of q (R59). -/
def rateControl (c : Fin 6) (f : InFlight) (sequence : Seq) (bytes : Nat) (s : State) : State :=
  let k := s.coders[c]
  let raw := k.fullness + bytes - k.byteBudget
  let overflows := decide (raw > k.bufferSize) && decide (k.bufferSize > 0)
  let fullness := min raw k.bufferSize
  let s := s.modCoder c fun k =>
    { k with fullness := fullness, forcedRepeat := k.forcedRepeat || overflows }
  let s := if overflows then raise (.overflow c sequence f.timecode bytes k.byteBudget raw) s else s
  s.modCoder c fun k => { k with q := nextIndex fullness k.bufferSize k.qMin k.qMax f.qStart }

/-- Picture coded (R35): no effect when the channel has no picture in flight. -/
def pictureCodedEvent (c : Fin 6) (s : State) : State :=
  match s.coders[c].inFlight with
  | none => s
  | some f =>
    let sequence := s.coders[c].sequence
    let (bytes, cut) := codePicture c sequence s.coders[c].qMax f
    let s := match cut with
      | some slice => raise (.pictureCut c f.timecode slice)
          (s.modCoder c fun k => { k with cutPictures := k.cutPictures + 1 })
      | none => s
    let s := s.modCoder c fun k =>
      { k with
        sequence := k.sequence + 1
        coded := k.coded + 1
        repeats := if f.kind = .coded then k.repeats else k.repeats + 1
        inFlight := none
        handed := true }
    let mode := s.coders[c].mode
    let picture : LivePicture :=
      ⟨sequence, f.timecode, f.kind, bytes, 0, s.sched.tickCount,
        s.sched.tickCount + BitVec.ofNat 32 s.coders[c].liveDeadline, false⟩
    let s := if mode.isLive then joinLive c picture s else s
    let s := if mode.isRecording then handOver c f.timecode bytes s else s
    rateControl c f sequence bytes.length s

/-! ## Takes (R17, R20 to R23) -/

/-- The bounds of q after a take. -/
def newBounds (k : CoderChannel) (st : Staged) : Nat × Nat := (st.qMin.getD k.qMin, st.qMax.getD k.qMax)

/-- The staged fields written into the record (R20); q is clamped into the bounds. -/
def writeStaged (st : Staged) (k : CoderChannel) : CoderChannel :=
  let (qMin, qMax) := newBounds k st
  { k with
    mode := st.mode.getD k.mode
    source := st.source.getD k.source
    weight := st.weight.getD k.weight
    floor := st.floor.getD k.floor
    recordRate := st.recordRate.getD k.recordRate
    qMin := qMin
    qMax := qMax
    q := clampIndex qMin qMax k.q
    segLength := st.segLength.getD k.segLength
    liveDeadline := st.liveDeadline.getD k.liveDeadline }

/-- A staged value that differs from the value in force. -/
def keepChanged {α : Type} [DecidableEq α] (new : Option α) (old : α) : Option α := new.filter (· != old)

/-- Each field that a take changes, with its new value (R20). -/
def changedFields (st : Staged) (k : CoderChannel) : Staged where
  mode := keepChanged st.mode k.mode
  source := keepChanged st.source k.source
  weight := keepChanged st.weight k.weight
  floor := keepChanged st.floor k.floor
  recordRate := keepChanged st.recordRate k.recordRate
  qMin := keepChanged st.qMin k.qMin
  qMax := keepChanged st.qMax k.qMax
  segLength := keepChanged st.segLength k.segLength
  liveDeadline := keepChanged st.liveDeadline k.liveDeadline

/-- Entry to an active mode (R21). -/
def enterActive (c : Fin 6) (s : State) : State :=
  let s := s.modCoder c fun k =>
    { k with q := clampIndex k.qMin k.qMax 26, fullness := 0, forcedRepeat := false, sequence := 0 }
  if s.coders[c].mode.isRecording then startWriter c s else s

/-- Leaving recording, live working or both at a take (R22, R73). The truncate mark of a picture that is removed goes with
it (notes/assumptions/26.md). -/
def leaveWork (c : Fin 6) (before after : CoderMode) (s : State) : State :=
  let s :=
    if before.isRecording && !after.isRecording then
      (leaveRecording c s).modCoder c fun k => { k with filling := none }
    else s
  if before.isLive && !after.isLive then
    s.modCoder c fun k => { k with liveBuffer := k.liveBuffer.filter fun p => p.started != 0 }
  else s

/-- Leaving an active mode `before` for OFF or STANDBY (R22). -/
def leaveActive (c : Fin 6) (before after : CoderMode) (s : State) : State :=
  (leaveWork c before after s).modCoder c fun k =>
    { k with fullness := 0, bufferSize := 0, forcedRepeat := false, rateState := .full }

/-- A take from one active mode to another, which only a cue's CODER_SET fired while the first mode was due can bring
about: what is left ends as in R22 and R73, a recording that begins starts its writer, and the channel does not start
afresh (notes/assumptions/17.md). -/
def changeWork (c : Fin 6) (before after : CoderMode) (s : State) : State :=
  let s := leaveWork c before after s
  if !before.isRecording && after.isRecording then startWriter c s else s

/-- What a take does at a change of mode (R21, R22). -/
def takeMode (c : Fin 6) (before after : CoderMode) (s : State) : State :=
  match before.isActive, after.isActive with
  | false, true => enterActive c s
  | true, false => leaveActive c before after s
  | true, true => changeWork c before after s
  | false, false => s

/-- A new source's input state is copied, and reported when the channel is OFF neither before nor after (R17). -/
def takeSource (c : Fin 6) (before : CoderMode) (s : State) : State :=
  let k := s.coders[c]
  let state := s.ports[k.source].input
  let s := s.modCoder c fun k => { k with input := state }
  if state ≠ k.input ∧ before ≠ .off ∧ k.mode ≠ .off then raise (inputNotice c k.source state) s else s

/-- The take of a staged change (R20 to R22). -/
def takeStaged (c : Fin 6) (st : Staged) (s : State) : State :=
  let old := s.coders[c]
  let s := s.modCoder c (writeStaged st)
  let after := s.coders[c].mode
  let s := if st.source.isSome then takeSource c old.mode s else s
  let s := takeMode c old.mode after s
  let s := raise (.taken c .set old.mode after (changedFields st old)) (reportTake c s)
  if old.mode = .off ∧ after ≠ .off ∧ s.coders[c].input = .present then
    raise (.inputBack c s.coders[c].source) s
  else s

/-- A channel's work at a picture tick with no rate take; `due` is the change staged before the tick (R19). -/
def coderTick (c : Fin 6) (due : Staged) (s : State) : State :=
  let s := if due = Staged.empty then s else takeStaged c due s
  if s.coders[c].mode.isActive then pictureStart c s else s

/-- A channel's work at a picture tick at which a rate take occurs (R23). -/
def coderRateTake (c : Fin 6) (due : Staged) (s : State) : State :=
  let s := if due = Staged.empty then s else raise (.discarded c due) s
  let before := s.coders[c].mode
  if before.isActive then
    let s := leaveActive c before .standby (s.modCoder c fun k => { k with mode := .standby })
    raise (.taken c .rateChange before .standby { Staged.empty with mode := some .standby }) (reportTake c s)
  else s

/-! ## Requests -/

/-- INPUT_INFO (R16). -/
def inputInfo (body : List Byte) (s : State) : Reply × State :=
  match finOf 8 (field body 0 1) with
  | none => refuse .badValue s
  | some p =>
    let port := s.ports[p]
    answerOk (.input port.input (port.held.map (·.format))
      (port.lastStart.map fun t => (s.now - t) / period s.timing.rate)
      (vecWhere (fun k : CoderChannel => k.source == p) s.coders)) s

/-- The fields of a CODER_SET body, clamped (R18). Values that the checks refuse are absent here. -/
def readStaged (body : List Byte) : Staged :=
  match declaredFields (coderMask body) body coderFieldSizes 0 3 with
  | [mode, source, weight, floor, rate, qMin, qMax, segLength, deadline] =>
    { mode := mode.bind modeOf
      source := source.bind (finOf 8)
      weight := weight.map (max 1)
      floor := floor.map (min 4095)
      recordRate := rate.map fun r => min 4095 (max 1 r)
      qMin := qMin
      qMax := qMax
      segLength := segLength.map fun g => min 100 (max 10 g)
      liveDeadline := deadline.map fun d => min 8 (max 1 d) }
  | _ => Staged.empty

/-- Check 2 of R18, with R206 for a weight above 15 and for mask bits that are not defined. -/
def stagedInRange (body : List Byte) : Bool :=
  match declaredFields (coderMask body) body coderFieldSizes 0 3 with
  | [mode, source, weight, _, _, qMin, qMax, _, _] =>
    maskDefined (coderMask body) 9
      && mode.all (fun m => (modeOf m).isSome)
      && source.all (fun p => decide (p < 8))
      && weight.all (fun w => decide (w ≤ 15))
      && qMin.all (fun q => decide (q ≤ 51))
      && qMax.all (fun q => decide (q ≤ 51))
  | _ => false

/-- The staged change with the given fields merged in: a field given replaces the same field (R18). -/
def mergeStaged (new old : Staged) : Staged where
  mode := new.mode <|> old.mode
  source := new.source <|> old.source
  weight := new.weight <|> old.weight
  floor := new.floor <|> old.floor
  recordRate := new.recordRate <|> old.recordRate
  qMin := new.qMin <|> old.qMin
  qMax := new.qMax <|> old.qMax
  segLength := new.segLength <|> old.segLength
  liveDeadline := new.liveDeadline <|> old.liveDeadline

/-- Table 2-3: the mode requested is allowed from the mode in force. -/
def modeAllowed (inForce requested : CoderMode) : Bool := !(inForce.isActive && requested.isActive)

/-- CODER_SET (R18). `due` holds, while the cues of a tick fire, the changes staged before the tick, which take at that
tick. -/
def coderSet (due : Vector Staged 6) (body : List Byte) (s : State) : Reply × State :=
  match finOf 6 (field body 0 1) with
  | none => refuse .badValue s
  | some c =>
    if !stagedInRange body then refuse .badValue s
    else
      let k := s.coders[c]
      let new := readStaged body
      let (qMin, qMax) := newBounds k (mergeStaged new (mergeStaged k.staged due[c]))
      if qMax < qMin then refuse .badValue s
      else if !new.mode.all (modeAllowed k.mode) then refuse .badState s
      else if new.mode.any (fun m => m.isRecording) && !s.storeReady then refuse .notReady s
      else if new = Staged.empty then answerOk .none s
      else
        let staged := mergeStaged new k.staged
        answerAccepted (.staged staged) (s.modCoder c fun k => { k with staged := staged })

/-- No change is due: CODER_SET outside a picture tick. -/
def noneDue : Vector Staged 6 := Vector.replicate 6 Staged.empty

/-- A channel's record as CODER_INFO gives it (R24). The pictures themselves are not visible (R41). -/
def CoderChannel.report (k : CoderChannel) : CoderReport where
  mode := k.mode
  source := k.source
  weight := k.weight
  floor := k.floor
  recordRate := k.recordRate
  qMin := k.qMin
  qMax := k.qMax
  q := k.q
  fullness := k.fullness
  bufferSize := k.bufferSize
  rateState := k.rateState
  forcedRepeat := k.forcedRepeat
  segLength := k.segLength
  liveDeadline := k.liveDeadline
  filling := k.filling
  input := k.input
  sequence := k.sequence
  staged := k.staged
  pictures := k.liveBuffer.length
  occupancy := occupancy k.liveBuffer
  coded := k.coded
  repeats := k.repeats
  lateDrops := k.lateDrops
  cutPictures := k.cutPictures

/-- CODER_INFO (R24). -/
def coderInfo (body : List Byte) (s : State) : Reply × State :=
  match finOf 6 (field body 0 1) with
  | none => refuse .badValue s
  | some c => answerOk (.coder s.coders[c].report) s

end Sys2Proof.Machine
end

