-- ==== Sys2Proof/Machine/Mixer.lean ====
section
/-! DEFINITION. The Audio Mixer's work at an audio block tick (06): the change list, ramps, input blocks, mixing, meters,
return jitter buffers and uplink streams. The mixer requests are in MixerRequests.lean. -/

namespace Sys2Proof.Machine

/-! ## Input queues (R122) -/

/-- A sample frame joins an input queue of at most 48; the oldest makes room and counts a slip (R122). -/
def joinSamples (frame : List Sample) (q : SampleQueue) : SampleQueue :=
  if 48 ≤ q.frames.length then { q with frames := q.frames.drop 1 ++ [frame], slips := q.slips + 1 }
  else { q with frames := q.frames ++ [frame] }

/-- The queue after a block tick has taken its 16 oldest frames; fewer count a short (R122). -/
def takeSamples (q : SampleQueue) : SampleQueue :=
  { q with frames := q.frames.drop 16, shorts := if q.frames.length < 16 then q.shorts + 1 else q.shorts }

/-- The samples that one channel of a source reads: the 16 oldest, then zeros (R122). -/
def channelBlock (q : SampleQueue) (channel : Nat) : List Int :=
  (List.range 16).map fun i => (((q.frames[i]?.bind fun frame => frame[channel]?).getD 0).toInt)

/-! ## Changes and ramps (R129, R132, R133) -/

/-- A value takes a ramp to a target in R steps; with R = 0 it takes the target at once (R132). -/
def startRamp (length : Nat) (l : Level) (target : Int) : Level :=
  if length = 0 then restingLevel target else ⟨l.value, some ⟨l.value, target, length, 0⟩⟩

/-- One step of a ramp (R132). -/
def stepLevel (l : Level) : Level :=
  match l.ramp with
  | none => l
  | some r =>
    if r.step + 1 < r.length then
      ⟨r.start + ((r.target - r.start) * ((r.step + 1 : Nat) : Int)).tdiv r.length, some { r with step := r.step + 1 }⟩
    else restingLevel r.target

def State.modMixChannel (c : Fin 32) (f : MixChannel → MixChannel) (s : State) : State :=
  s.modMixer fun m => { m with channels := vecModify m.channels c f }

def State.modBus (b : Fin 12) (f : Bus → Bus) (s : State) : State :=
  s.modMixer fun m => { m with buses := vecModify m.buses b f }

/-- A recall takes: the configuration at once, and a ramp for every gain and level (R132, steps 1 and 2). -/
def takeScene (slot : Fin 16) (length : Nat) (scene : Scene) (s : State) : State :=
  let s := s.modMixer fun m =>
    { m with
      channels := Vector.ofFn fun c : Fin 32 =>
        { m.channels[c] with
          gain := startRamp length m.channels[c].gain scene.gains[c]
          sends := Vector.ofFn fun b : Fin 12 => startRamp length m.channels[c].sends[b] (scene.sends[c])[b] }
      buses := Vector.ofFn fun b : Fin 12 =>
        { m.buses[b] with
          mode := scene.modes[b]
          gain := startRamp length m.buses[b].gain scene.busGains[b] }
      recalling := if length = 0 then none else some ⟨slot, length, 0⟩ }
  raise (.sceneTaken slot length s.timing.blockNumber) s

/-- One change of the change list (R129). -/
def applyChange (s : State) : Change → State
  | .gain c value => s.modMixChannel c fun k => { k with gain := restingLevel value }
  | .send c b value => s.modMixChannel c fun k => { k with sends := vecSet k.sends b (restingLevel value) }
  | .bus b mode gain =>
    s.modBus b fun bus =>
      { bus with mode := mode.getD bus.mode, gain := match gain with | some g => restingLevel g | none => bus.gain }
  | .embed e port pair =>
    s.modMixer fun m =>
      { m with embedded := vecModify m.embedded e fun old =>
          { port := port, pair := pair, queue := { old.queue with frames := [] } } }
  | .output port pair left right =>
    s.modMixer fun m =>
      { m with outputs := vecModify m.outputs port fun pairs =>
          vecModify pairs pair fun o => { o with left := left, right := right } }
  | .recallScene slot length scene => takeScene slot length scene s

/-- The first `due` changes of the change list are applied in order and leave it (R129). At a block tick all are due but
what a cue of the same picture tick has added: that waits for the next block tick (R11, notes/assumptions/17.md). -/
def applyChanges (due : Nat) (s : State) : State :=
  (s.mixer.changes.take due).foldl applyChange (s.modMixer fun m => { m with changes := m.changes.drop due })

/-- The recall in progress that has reached step R ends with SCENE_DONE (R132). -/
def finishRecall (s : State) : State :=
  match s.mixer.recalling with
  | some r =>
    if r.length ≤ r.steps then
      raise (.sceneDone r.slot s.timing.blockNumber) (s.modMixer fun m => { m with recalling := none })
    else s
  | none => s

/-- Every ramp in progress, and the recall in progress, move one step (R132, step 3). -/
def stepRamps (s : State) : State :=
  finishRecall <| s.modMixer fun m =>
    { m with
      channels := vecMap (fun k : MixChannel =>
        { k with gain := stepLevel k.gain, sends := vecMap stepLevel k.sends }) m.channels
      buses := vecMap (fun b : Bus => { b with gain := stepLevel b.gain }) m.buses
      recalling := m.recalling.map fun r => { r with steps := r.steps + 1 } }

/-! ## Uplink streams: takes (R142) -/

/-- The number of enabled streams. -/
def enabledStreams (m : Mixer) : Nat := (vecWhere (fun st : Stream => st.setting.isSome) m.streams).length

/-- A staged setting takes when its moment has come (R142). -/
def takeStream (s : State) (i : Fin 4) : State :=
  let st := s.mixer.streams[i]
  match st.staged with
  | none => s
  | some setting =>
    if setting.isSome && decide (s.timing.blockNumber.toNat % 4 ≠ 0) then s
    else
      let before := enabledStreams s.mixer
      let s := s.modMixer fun m =>
        { m with streams := vecModify m.streams i fun st =>
            { st with
              setting := setting
              staged := none
              sequence := if st.setting.isSome then st.sequence else 0
              blocks := [] } }
      let s := raise (.streamTaken i setting s.timing.blockNumber) s
      if enabledStreams s.mixer = before then s else reportStreams (enabledStreams s.mixer) s

/-! ## Return jitter buffers (R137, R138, R140) -/

/-- A block of silence as sample pairs, or every sample of a block shifted right by one place (R140). -/
def halveBlock (b : PairBlock) : PairBlock := b.map fun (l, r) => (l.sshiftRight 1, r.sshiftRight 1)

/-- The block that a return buffer gives at a tick, and the buffer after it; the flag says RETURN_GAP (R140). -/
def playReturn (r : ReturnBuffer) : PairBlock × ReturnBuffer × Bool :=
  match r.state with
  | .priming => (silentBlock, r, false)
  | .playing =>
    match r.queue with
    | block :: rest => (block, { r with queue := rest, lastPlayed := some block, emptyTicks := 0 }, false)
    | [] =>
      if r.emptyTicks = 0 then
        (halveBlock (r.lastPlayed.getD silentBlock), { r with emptyTicks := 1, concealed := r.concealed + 1 }, false)
      else
        (silentBlock, { r with state := .priming, lastPlayed := none, emptyTicks := 0, gaps := r.gaps + 1 }, true)

def State.modReturn (i : Fin 2) (f : ReturnBuffer → ReturnBuffer) (s : State) : State :=
  s.modMixer fun m => { m with returns := vecModify m.returns i f }

/-- A PRIMING buffer that holds its threshold enters PLAYING (R138, R139). -/
def primeReturn (i : Fin 2) (s : State) : State :=
  let r := s.mixer.returns[i]
  if r.state = .priming ∧ r.threshold ≤ r.queue.length then
    raise (.returnPlaying i r.queue.length) (s.modReturn i fun r => { r with state := .playing })
  else s

/-- Sample pairs of three bytes a sample, left then right (Table 10-7). -/
def readPairs : List Byte → List (Sample × Sample)
  | l2 :: l1 :: l0 :: r2 :: r1 :: r0 :: rest => (l2 ++ l1 ++ l0, r2 ++ r1 ++ r0) :: readPairs rest
  | _ => []

/-- The sequence check of a return frame (R138, step 1); the notice carries the first block number and the timecode of
the frame's audio head (R137, notes/assumptions/10.md). -/
def checkReturnSequence (i : Fin 2) (sequence : Seq) (firstBlock : Counter) (head : Timecode) (s : State) : State :=
  let s' := s.modReturn i fun r => { r with expected := some (sequence + 1) }
  match s.mixer.returns[i].expected with
  | none => s'
  | some expected =>
    if expected = sequence then s'
    else
      raise (.returnSequence i expected sequence firstBlock head) <| s'.modReturn i fun r => { r with breaks := r.breaks + 1 }

/-- Room for a return frame (R138, step 2). -/
def makeReturnRoom (i : Fin 2) (s : State) : State :=
  let excess := s.mixer.returns[i].queue.length - 28
  if excess = 0 then s
  else
    raise (.returnOverrun i excess) <| s.modReturn i fun r =>
      { r with queue := r.queue.drop excess, overruns := r.overruns + BitVec.ofNat 32 excess }

/-- A return frame from home (R137, R138). -/
def returnFrame (path : Fin 4) (stream : Byte) (sequence : Seq) (payload : List Byte) (s : State) : State :=
  match finOf 2 stream.toNat with
  | none => raise (.badReturn path stream payload.length) s
  | some i =>
    if payload.length ≠ 392 then raise (.badReturn path stream payload.length) s
    else
      let pairs := readPairs (payload.drop 8)
      let blocks := [pairs.take 16, (pairs.drop 16).take 16, (pairs.drop 32).take 16, (pairs.drop 48).take 16]
      let s := checkReturnSequence i sequence (BitVec.ofNat 32 (field payload 0 4)) (timecodeField payload 4) s
      let s := (makeReturnRoom i s).modReturn i fun r =>
        { r with queue := r.queue ++ blocks, framesQueued := r.framesQueued + 1 }
      primeReturn i s

/-! ## Mixing (R126, R127) -/

/-- Addition of 8192 and an arithmetic shift right by 14 (R127). -/
def round14 (x : Int) : Int := (x + 8192) / 16384

/-- The limits of 24 bits (R127). -/
def sat24 (x : Int) : Int := max (-8388608) (min 8388607 x)

/-- The value lies beyond the limits of 24 bits. -/
def saturates (x : Int) : Bool := sat24 x != x

/-- The effective send level of a channel to a bus (R126). -/
def effectiveLevel (m : Mixer) (c : Fin 32) (b : Fin 12) : Int :=
  match m.buses[b].mode with
  | .off => 0
  | .mix => m.channels[c].sends[b].value
  | .follow reference excluded => if c = excluded then 0 else m.channels[c].sends[reference].value

/-- The gained samples of a channel before saturation (R127, step 1). -/
def gainedRaw (m : Mixer) (c : Fin 32) (input : List Int) : List Int :=
  input.map fun x => round14 (x * m.channels[c].gain.value)

/-- The output samples of a bus that is not OFF, before saturation (R127, steps 2 to 4). -/
def busRaw (m : Mixer) (gained : Vector (List Int) 32) (b : Fin 12) : List Int :=
  let sum := (List.finRange 32).foldl (fun acc c =>
    List.zipWith (fun a y => a + round14 (y * effectiveLevel m c b)) acc gained[c]) (List.replicate 16 (0 : Int))
  sum.map fun a => round14 (a * m.buses[b].gain.value)

/-- The 16 output samples of a bus and how many were saturated (R127). -/
def busBlock (m : Mixer) (gained : Vector (List Int) 32) (b : Fin 12) : List Int × Nat :=
  match m.buses[b].mode with
  | .off => (List.replicate 16 0, 0)
  | .mix | .follow _ _ =>
    let raw := busRaw m gained b
    (raw.map sat24, (raw.filter saturates).length)

/-- A bus's output as samples. -/
def samplesOf (values : List Int) : List Sample := values.map (BitVec.ofInt 24)

/-! ## Handing on (R134, R135, R143) -/

/-- The meter of a bus after a block (R135). -/
def meterBlock (block : List Int × Nat) (b : Bus) : Bus :=
  match b.mode with
  | .off => b
  | .mix | .follow _ _ =>
    { b with
      meterPeak := block.1.foldl (fun peak x => max peak x.natAbs) b.meterPeak
      meterSaturations := b.meterSaturations + block.2 }

/-- The meter figures of every bus and the period count return to 0 (R135, R136). -/
def clearMeters (m : Mixer) : Mixer :=
  { m with
    buses := vecMap (fun b : Bus => { b with meterPeak := 0, meterSaturations := 0 }) m.buses
    periodCount := 0 }

/-- The end of a meter period that has been reached (R135). -/
def endMeterPeriod (s : State) : State :=
  if s.mixer.periodCount < s.mixer.meterPeriod then s
  else
    let metered := vecWhere (fun b : Bus => b.mode != .off) s.mixer.buses
    let s' := metered.foldl (fun s' b =>
      raise (.meter b s.mixer.meterPeriod s.mixer.buses[b].meterPeak s.mixer.buses[b].meterSaturations
        s.timing.blockNumber) s') s
    s'.modMixer clearMeters

/-- The sample pairs that a left and a right side play; a side with no bus plays 0 (R134). -/
def sidePairs (outputs : Vector (List Sample) 12) (left right : Option (Fin 12)) : PairBlock :=
  let side := fun bus : Option (Fin 12) => match bus with | some b => outputs[b] | none => List.replicate 16 0
  (side left).zip (side right)

/-- An audio frame removed as late (R176). -/
def reportAudioLate (f : AudioFrame) (s : State) : State :=
  raise (.audioLate f.stream f.sequence f.created) (s.modSched fun sc => { sc with audioLate := sc.audioLate + 1 })

/-- An audio frame joins the audio queue of at most 512 (R176). -/
def joinAudio (f : AudioFrame) (s : State) : State :=
  match s.sched.audioQueue with
  | oldest :: rest =>
    if 512 ≤ s.sched.audioQueue.length then
      reportAudioLate oldest (s.modSched fun sc => { sc with audioQueue := rest ++ [f] })
    else s.modSched fun sc => { sc with audioQueue := sc.audioQueue ++ [f] }
  | [] => s.modSched fun sc => { sc with audioQueue := [f] }

/-- The payload of an audio frame: head and sample pairs (Table 10-7). -/
def audioPayload (st : Stream) : List Byte :=
  bigEndian 4 st.firstBlock.toNat ++ timecodeBytes st.firstTimecode
    ++ st.blocks.flatten.flatMap fun (l, r) => bigEndian 3 l.toNat ++ bigEndian 3 r.toNat

/-- An enabled stream takes its pair of buses and, after the fourth block, hands its frame over (R143). -/
def feedStream (outputs : Vector (List Sample) 12) (s : State) (i : Fin 4) : State :=
  match s.mixer.streams[i].setting with
  | none => s
  | some (left, right) =>
    let number := s.timing.blockNumber
    let st := s.mixer.streams[i]
    let st := if number.toNat % 4 = 0 then
        { st with firstBlock := number, firstTimecode := s.timing.timecode } else st
    let st := { st with blocks := st.blocks ++ [outputs[left].zip outputs[right]] }
    let done := number.toNat % 4 == 3
    let kept := if done then { st with blocks := [], sequence := st.sequence + 1, emitted := st.emitted + 1 } else st
    let s := s.modMixer fun m => { m with streams := vecSet m.streams i kept }
    if done then joinAudio ⟨i, st.sequence, s.sched.tickCount, audioPayload st⟩ s else s

/-! ## The tick (R4, R128) -/

/-- The input samples of every channel at a tick (Table 6-1, R124); `e` gives the embedded selections as the tick finds
them, `r` the blocks of the return buffers. -/
def inputBlocks (m : Mixer) (returns : Vector PairBlock 2) : Vector (List Int) 32 :=
  Vector.ofFn fun c : Fin 32 =>
    if h : c.val < 24 then channelBlock m.serial[c.val / 8] (c.val % 8)
    else if h : c.val < 28 then channelBlock m.embedded[(c.val - 24) / 2].queue (c.val % 2)
    else (returns[(c.val - 28) / 2]).map fun pair => (if c.val % 2 = 0 then pair.1 else pair.2).toInt

/-- Stage 2: the input queues give their blocks; a silent selection gives zeros and counts no short (R122, R123). -/
def drainQueues (s : State) : State :=
  s.modMixer fun m =>
    { m with
      serial := vecMap takeSamples m.serial
      embedded := vecMap (fun e : Embedded => if s.silent e then e else { e with queue := takeSamples e.queue }) m.embedded }

/-- Stage 2: a return buffer gives its block (R140). -/
def tickReturn (s : State) (i : Fin 2) : State :=
  let (_, r, gap) := playReturn s.mixer.returns[i]
  let s := s.modReturn i fun _ => r
  if gap then raise (.returnGap i s.timing.blockNumber) s else s

/-- Stages 3 and 4: the bus outputs are computed and handed on (R127, R134, R135, R143). -/
def mixBlock (inputs : Vector (List Int) 32) (s : State) : State :=
  let m := s.mixer
  let gainedAll := Vector.ofFn fun c : Fin 32 => gainedRaw m c inputs[c]
  let gained := vecMap (fun raw => raw.map sat24) gainedAll
  let blocks := Vector.ofFn fun b : Fin 12 => busBlock m gained b
  let outputs := vecMap (fun block : List Int × Nat => samplesOf block.1) blocks
  let s := s.modMixer fun m =>
    { m with
      channels := Vector.ofFn fun c : Fin 32 =>
        { m.channels[c] with
          saturations := m.channels[c].saturations + BitVec.ofNat 32 (gainedAll[c].filter saturates).length }
      buses := Vector.ofFn fun b : Fin 12 => meterBlock blocks[b] m.buses[b]
      periodCount := m.periodCount + 1 }
  let s := endMeterPeriod s
  let s := s.modMixer fun m =>
    { m with outputs := vecMap (vecMap fun o : OutputPair => { o with playing := sidePairs outputs o.left o.right }) m.outputs }
  (List.finRange 4).foldl (feedStream outputs) s

/-- An audio block tick at the mixer, with so many changes due at it (R4, R128). Staged stream settings take between
stages 1 and 2 (R142, notes/assumptions/51.md). -/
def blockTick (due : Nat) (s : State) : State :=
  let s := s.modTiming fun t => { t with blockNumber := t.blockNumber + 1, lastBlock := s.now }
  let s := stepRamps (applyChanges due s)
  let s := emptySilent ((List.finRange 4).foldl takeStream s)
  let inputs := inputBlocks s.mixer (vecMap (fun r => (playReturn r).1) s.mixer.returns)
  mixBlock inputs ((List.finRange 2).foldl tickReturn (drainQueues s))

end Sys2Proof.Machine
end

