-- ==== Sys2Proof/Machine/MixerRequests.lean ====
section
/-! DEFINITION. The requests of the Audio Mixer (06): each takes the body of the request and answers the reply and the
state. -/

namespace Sys2Proof.Machine

/-- A change joins the change list of at most 64, with the given answer (R129). -/
def joinChange (change : Change) (answer : State → Reply × State) (s : State) : Reply × State :=
  if 64 ≤ s.mixer.changes.length then refuse .noRoom s
  else answer (s.modMixer fun m => { m with changes := m.changes ++ [change] })

/-- EMBED_SET (R123). -/
def embedSet (body : List Byte) (s : State) : Reply × State :=
  match finOf 2 (field body 0 1), finOf 8 (field body 1 1), finOf 4 (field body 2 1) with
  | some selection, some port, some pair => joinChange (.embed selection port pair) (answerOk .none) s
  | _, _, _ => refuse .badValue s

/-! ## BUS_SET (R125) -/

/-- The effect of a change on the bus modes. -/
def changeModes (modes : Vector BusMode 12) : Change → Vector BusMode 12
  | .bus b (some mode) _ => vecSet modes b mode
  | .recallScene _ _ scene => scene.modes
  | .bus _ none _ | .gain _ _ | .send _ _ _ | .embed _ _ _ | .output _ _ _ _ => modes

/-- The staged configuration: that in force with the change list applied (06, section 6.3). -/
def stagedModes (m : Mixer) : Vector BusMode 12 := m.changes.foldl changeModes (vecMap (fun b : Bus => b.mode) m.buses)

/-- The mode that a BUS_SET body gives for a bus, checked against the staged configuration; `none` is a value that is
refused (R125, check 2). -/
def busModeField (staged : Vector BusMode 12) (b : Fin 12) (body : List Byte) : Option BusMode :=
  let at_ := 3 + (if maskBit (field body 1 1) 1 then 2 else 0)
  match field body 2 1 with
  | 0 => some .off
  | 1 => some .mix
  | 2 =>
    match finOf 12 (field body at_ 1), finOf 32 (field body (at_ + 1) 1) with
    | some reference, some excluded =>
      if reference = b ∨ staged[reference] ≠ .mix then none else some (.follow reference excluded)
    | _, _ => none
  | _ => none

/-- Some bus of a configuration is FOLLOW with the bus as its reference. -/
def followed (modes : Vector BusMode 12) (b : Fin 12) : Bool :=
  !(vecWhere (fun mode : BusMode => match mode with | .follow r _ => r == b | .off | .mix => false) modes).isEmpty

/-- BUS_SET (R125). A body that gives no field joins the change list and changes nothing at the take. -/
def busSet (body : List Byte) (s : State) : Reply × State :=
  let mask := field body 1 1
  let staged := stagedModes s.mixer
  match finOf 12 (field body 0 1) with
  | none => refuse .badValue s
  | some b =>
    let mode := if maskBit mask 0 then busModeField staged b body else none
    let gain := if maskBit mask 1 then some (field body (if maskBit mask 0 then 3 else 2) 2 : Int) else none
    if !maskDefined mask 2 || (maskBit mask 0 && mode.isNone) then refuse .badValue s
    else if staged[b] = .mix ∧ mode.any (fun m => m != .mix) = true ∧ followed staged b = true then refuse .badState s
    else joinChange (.bus b mode gain) (answerOk .none) s

/-! ## Gains, levels and scenes -/

/-- CHANNEL_SET (R129). -/
def channelSet (body : List Byte) (s : State) : Reply × State :=
  match finOf 32 (field body 0 1) with
  | none => refuse .badValue s
  | some c => joinChange (.gain c (signedField body 1)) (answerOk .none) s

/-- SEND_SET (R129). -/
def sendSet (body : List Byte) (s : State) : Reply × State :=
  match finOf 32 (field body 0 1), finOf 12 (field body 1 1) with
  | some c, some b => joinChange (.send c b (field body 2 2)) (answerOk .none) s
  | _, _ => refuse .badValue s

/-- The values in force, as a scene (R130). -/
def sceneOf (m : Mixer) : Scene where
  gains := vecMap (fun k : MixChannel => k.gain.value) m.channels
  sends := vecMap (fun k : MixChannel => vecMap (fun l : Level => l.value) k.sends) m.channels
  modes := vecMap (fun b : Bus => b.mode) m.buses
  busGains := vecMap (fun b : Bus => b.gain.value) m.buses

/-- SCENE_STORE (R130). -/
def sceneStore (body : List Byte) (s : State) : Reply × State :=
  match finOf 16 (field body 0 1) with
  | none => refuse .badValue s
  | some slot =>
    answerOk .none (s.modMixer fun m => { m with scenes := vecSet m.scenes slot (some (sceneOf m)) })

/-- SCENE_RECALL (R131). -/
def sceneRecall (body : List Byte) (s : State) : Reply × State :=
  match finOf 16 (field body 0 1) with
  | none => refuse .badValue s
  | some slot =>
    match s.mixer.scenes[slot] with
    | none => refuse .badState s
    | some scene => joinChange (.recallScene slot (min 255 (field body 1 2)) scene) (answerAccepted .none) s

/-- A side of OUTPUT_SET: a bus, or FFH for none; `none` is a value that is refused (R134, Table 10-4). -/
def outputSide (value : Nat) : Option (Option (Fin 12)) :=
  if value = 255 then some none else (finOf 12 value).map some

/-- OUTPUT_SET (R134). -/
def outputSet (body : List Byte) (s : State) : Reply × State :=
  match finOf 2 (field body 0 1), finOf 4 (field body 1 1), outputSide (field body 2 1), outputSide (field body 3 1) with
  | some port, some pair, some left, some right => joinChange (.output port pair left right) (answerOk .none) s
  | _, _, _, _ => refuse .badValue s

/-! ## Meters, returns and streams -/

/-- METER_SET (R136). -/
def meterSet (body : List Byte) (s : State) : Reply × State :=
  answerOk .none <| s.modMixer fun m => { clearMeters m with meterPeriod := max 1 (field body 0 1) }

/-- RETURN_SET (R139). -/
def returnSet (body : List Byte) (s : State) : Reply × State :=
  match finOf 2 (field body 0 1) with
  | none => refuse .badValue s
  | some i =>
    answerOk .none <| primeReturn i <| s.modReturn i fun r => { r with threshold := min 28 (max 4 (field body 1 1)) }

/-- The setting that a STREAM_SET body gives; `none` is a value that is refused (R141, Table 10-4). -/
def streamField (body : List Byte) : Option StreamSetting :=
  match field body 1 1 with
  | 0 => some none
  | 1 =>
    match finOf 12 (field body 2 1), finOf 12 (field body 3 1) with
    | some left, some right => some (some (left, right))
    | _, _ => none
  | _ => none

/-- STREAM_SET (R141). -/
def streamSet (body : List Byte) (s : State) : Reply × State :=
  match finOf 4 (field body 0 1), streamField body with
  | some i, some setting =>
    answerOk .none <| s.modMixer fun m =>
      { m with streams := vecModify m.streams i fun st =>
          { st with staged := if setting = st.setting then none else some setting } }
  | _, _ => refuse .badValue s

/-! ## MIXER_INFO (R144) -/

/-- The whole mixer as MIXER_INFO gives it. -/
def State.mixerReport (s : State) : MixerReport where
  changes := s.mixer.changes.length
  recalling := s.mixer.recalling
  meterPeriod := s.mixer.meterPeriod
  periodCount := s.mixer.periodCount
  embedded := vecMap (fun e : Embedded => (e.port, e.pair, s.silent e)) s.mixer.embedded
  outputs := vecMap (vecMap fun o : OutputPair => (o.left, o.right)) s.mixer.outputs
  serialShorts := vecMap (fun q : SampleQueue => q.shorts) s.mixer.serial
  serialSlips := vecMap (fun q : SampleQueue => q.slips) s.mixer.serial
  embeddedShorts := vecMap (fun e : Embedded => e.queue.shorts) s.mixer.embedded
  embeddedSlips := vecMap (fun e : Embedded => e.queue.slips) s.mixer.embedded

/-- A gain or level as MIXER_INFO gives it. -/
def Level.report (l : Level) : LevelReport := ⟨l.value, l.ramp.map fun r => (r.target, r.length - r.step)⟩

/-- An input channel as MIXER_INFO gives it. -/
def MixChannel.report (k : MixChannel) : ChannelReport :=
  ⟨k.gain.report, vecMap Level.report k.sends, k.saturations⟩

/-- A bus as MIXER_INFO gives it. -/
def Bus.report (b : Bus) : BusReport := ⟨b.mode, b.gain.value, b.meterPeak, b.meterSaturations⟩

/-- A return buffer as MIXER_INFO gives it. -/
def ReturnBuffer.report (r : ReturnBuffer) : ReturnReport :=
  ⟨r.state, r.queue.length, r.threshold, r.emptyTicks, r.expected, r.framesQueued, r.overruns, r.concealed, r.gaps,
    r.breaks⟩

/-- A stream as MIXER_INFO gives it. -/
def Stream.report (st : Stream) : StreamReport := ⟨st.setting, st.staged, st.sequence, st.blocks.length, st.emitted⟩

/-- The part of the mixer that a selector and a number name, if they name one. -/
def State.mixerPart (s : State) (selector number : Nat) : Option ReplyContents :=
  match selector with
  | 1 => (finOf 32 number).map fun c => .mixChannel s.mixer.channels[c].report
  | 2 => (finOf 12 number).map fun b => .bus s.mixer.buses[b].report
  | 3 => (finOf 16 number).map fun slot => .scene s.mixer.scenes[slot]
  | 4 => (finOf 2 number).map fun i => .returnBuffer s.mixer.returns[i].report
  | 5 => (finOf 4 number).map fun i => .stream s.mixer.streams[i].report
  | 6 => some (.mixer s.mixerReport)
  | _ => none

/-- MIXER_INFO (R144). -/
def mixerInfo (body : List Byte) (s : State) : Reply × State :=
  match s.mixerPart (field body 0 1) (field body 1 1) with
  | none => refuse .badValue s
  | some contents => answerOk contents s

end Sys2Proof.Machine
end

