-- ==== Sys2Proof/Machine/ClipRequests.lean ====
section
/-! DEFINITION. The requests of the Clip Log (05): each takes the body of the request and answers the reply and the
state. -/

namespace Sys2Proof.Machine

/-- The clip that the first two bytes of a body name (R92). -/
def bodyClip (body : List Byte) (s : State) : Option Clip := s.clipNamed (field body 0 2)

/-- An optional timecode whose fields are in range for the current P. -/
def State.validPoint (s : State) (t : Option Timecode) : Bool := t.all (validTimecode s.timing.rate)

/-! ## CLIP_OPEN (R94) -/

/-- The record that an open creates (R94, R95, Table 5-1). -/
def newClip (slot id : Nat) (c : Fin 6) (p : PlacedIn) (range : List Nat) (damaged : Bool) : Clip where
  slot := slot
  id := id
  channel := c
  inPoint := p.inPoint
  inPending := p.waits
  outPoint := none
  outPending := false
  outSegment := none
  closeOrigin := none
  label := []
  rating := 0
  urgent := false
  markers := []
  markersSent := 0
  range := range
  gaps := if p.gap then [⟨p.inPoint, none, none⟩] else []
  closeDigest := none
  sendDigest := none
  record := .opened
  send := .idle
  hold := false
  damaged := damaged
  truncated := p.gap
  clamped := p.clamped
  started := false
  discardPending := false
  resendUsed := false
  queueNumber := none
  confirmDeadline := none
  cursor := none

/-- The DAMAGED segment that the notice of an open names: the first of the range (notes/assumptions/14.md). -/
def State.damagedIn (s : State) (range : List Nat) : Option Nat :=
  range.find? fun id => (s.segment? id).any fun g => g.damage.isSome

/-- The open itself, once every check has passed. -/
def createClip (slot : Nat) (c : Fin 6) (placed : PlacedIn) (origin : Origin) (s : State) : Reply × State :=
  let id := s.nextClipId
  let range := s.rangeFrom c placed.start
  let bad := s.damagedIn range
  let clip := newClip slot id c placed range bad.isSome
  let s := (pinAll range s).modClipLog fun log =>
    { log with clips := insertClip clip log.clips, nextId := id % 65535 + 1 }
  let s := raise (.clipOpened id c placed.inPoint origin) s
  let s := match bad with | some segment => raise (.clipDamaged id segment) s | none => s
  answerOk (.clipOpened id slot placed.inPoint placed.clamped) s

/-- CLIP_OPEN (R94). -/
def clipOpen (origin : Origin) (body : List Byte) (s : State) : Reply × State :=
  let point := optionalPoint 1 body
  match finOf 6 (field body 0 1) with
  | none => refuse .badValue s
  | some c =>
    if !maskDefined (field body 1 1) 1 || !s.validPoint point then refuse .badValue s
    else if !s.coders[c].mode.isRecording then refuse .badState s
    else
      let wanted := point.getD s.timing.timecode
      if s.inFuture wanted then refuse .badValue s
      else if 255 ≤ (s.clipsWhere (openOn c)).length then refuse .noRoom s
      else
        match s.freeSlot with
        | none => refuse .noRoom s
        | some slot =>
          let placed := s.placeIn c wanted
          if s.pinRefused (s.rangeFrom c placed.start) then refuse .noRoom s
          else createClip slot c placed origin s

/-! ## CLIP_CLOSE (R99) -/

/-- The close of a clip whose out-point has passed the checks (R99, R100). -/
def beginClose (c : Clip) (out : Timecode) (origin : Origin) (s : State) : Reply × State :=
  let s := s.modClip c.id fun c => { c with outPoint := some out, closeOrigin := some origin }
  match s.placeOut c out with
  | .waits => answerAccepted (.clipClosing out false) (s.modClip c.id fun c => { c with outPending := true })
  | .inSegment segment false =>
    answerAccepted (.clipClosing out false) (closeInSegment c.id segment (originCause (some origin)) s)
  | .inSegment segment true =>
    let moved := ((s.segment? segment).map lastPicture).getD out
    let s := s.modClip c.id fun c => { c with outPoint := some moved, clamped := true }
    answerAccepted (.clipClosing moved true) (closeInSegment c.id segment (originCause (some origin)) s)
  | .empty => answerAccepted (.clipClosing out false) (completeClose c.id none (originCause (some origin)) s)

/-- CLIP_CLOSE (R99). -/
def clipClose (origin : Origin) (body : List Byte) (s : State) : Reply × State :=
  let point := optionalPoint 2 body
  if !maskDefined (field body 2 1) 1 || !s.validPoint point then refuse .badValue s
  else
    match bodyClip body s with
    | none => refuse .notFound s
    | some c =>
      if c.record ≠ .opened ∨ c.outPending = true then refuse .badState s
      else
        let out := point.getD s.timing.timecode
        if s.inFuture out || s.earlier out c.inPoint then refuse .badValue s
        else beginClose c out origin s

/-! ## Markers, label, rating -/

/-- A byte outside 20H..7EH becomes 3FH (R103, R105). -/
def printable (b : Byte) : Byte := if 0x20 ≤ b.toNat ∧ b.toNat ≤ 0x7E then b else 0x3F

/-- CLIP_MARK (R103). -/
def clipMark (body : List Byte) (s : State) : Reply × State :=
  let at_ := markKindAt body
  let point := optionalPoint 2 body
  let kind := field body at_ 1
  let note := (body.drop (at_ + 2)).take (field body (at_ + 1) 1)
  if !maskDefined (field body 2 1) 1 || decide (15 < kind) || !s.validPoint point then refuse .badValue s
  else
    match bodyClip body s with
    | none => refuse .notFound s
    | some c =>
      let t := point.getD s.timing.timecode
      if c.send = .sent ∨ c.send = .failed then refuse .badState s
      else if s.inFuture t || s.earlier t c.inPoint || c.outPoint.any (fun out => s.earlier out t) then
        refuse .badValue s
      else if 8 ≤ c.markers.length then refuse .noRoom s
      else
        answerOk (.marked c.markers.length (decide (16 < note.length))) <| s.modClip c.id fun c =>
          { c with markers := c.markers ++ [⟨t, kind, (note.take 16).map printable⟩] }

/-- CLIP_LABEL (R105). -/
def clipLabel (body : List Byte) (s : State) : Reply × State :=
  match bodyClip body s with
  | none => refuse .notFound s
  | some c =>
    if c.started then refuse .badState s
    else
      let label := body.drop 2
      answerOk (.labelled (decide (32 < label.length))) <| s.modClip c.id fun c =>
        { c with label := (label.take 32).map printable }

/-- CLIP_RATE (R106). An URGENT byte that Table 10-4 does not define is refused where the rating is checked (R206). -/
def clipRate (body : List Byte) (s : State) : Reply × State :=
  match bodyClip body s with
  | none => refuse .notFound s
  | some c =>
    if 7 < field body 2 1 ∨ 1 < field body 3 1 then refuse .badValue s
    else if c.send = .sent ∨ c.send = .failed then refuse .badState s
    else
      answerOk .none <| s.modClip c.id fun c => { c with rating := field body 2 1, urgent := field body 3 1 == 1 }

/-! ## Sending, holding, discarding -/

/-- CLIP_SEND (R107). -/
def clipSend (body : List Byte) (s : State) : Reply × State :=
  match bodyClip body s with
  | none => refuse .notFound s
  | some c =>
    if c.send ≠ .idle ∨ c.record = .closing then refuse .badState s
    else
      let s := takeQueueNumber c.id s
      let s := s.modClip c.id fun c =>
        { c with
          cursor := some (freshCursor [])
          started := false
          markersSent := 0
          resendUsed := false
          sendDigest := none }
      answerOk .none (setSend c.id .queued .send s)

/-- CLIP_HOLD (R110). -/
def clipHold (body : List Byte) (s : State) : Reply × State :=
  match bodyClip body s with
  | none => refuse .notFound s
  | some c => answerOk .none (s.modClip c.id fun c => { c with hold := true })

/-- CLIP_RELEASE (R111). -/
def clipRelease (body : List Byte) (s : State) : Reply × State :=
  match bodyClip body s with
  | none => refuse .notFound s
  | some c =>
    let s := s.modClip c.id fun c => { c with hold := false }
    answerOk .none (if c.send = .held then setSend c.id .queued .released s else s)

/-- CLIP_DISCARD (R112): in SENDING the item queue is replaced by one ABORT item (R189). -/
def clipDiscard (body : List Byte) (s : State) : Reply × State :=
  match bodyClip body s with
  | none => refuse .notFound s
  | some c =>
    if c.send = .sending then
      answerAccepted .none <| s.modClip c.id fun c =>
        { c with discardPending := true, cursor := c.cursor.map fun k => { k with items := [.abort] } }
    else answerOk .none (freeClip c.id s)

/-- CLIP_TIMEOUT (R113). -/
def clipTimeout (body : List Byte) (s : State) : Reply × State :=
  let timeout := min 60 (max 1 (field body 0 1))
  answerOk (.value timeout) (s.modClipLog fun log => { log with timeout := timeout })

/-! ## Reading the log (R119) -/

/-- The cursor as a segment and a byte offset (Table 8-3). BEFORE_START gives no segment and offset 0. -/
def State.cursorReport (s : State) (c : Clip) : Option (Option Nat × Nat) :=
  c.cursor.map fun k =>
    match k.position with
    | .beforeStart => (none, 0)
    | .boundary none _ => (c.firstSegment, 0)
    | .boundary (some id) _ => (some id, ((s.segment? id).map (·.byteLength)).getD 0)
    | .inside id offset => (some id, offset)

/-- CLIP_INFO (R119). -/
def clipInfo (body : List Byte) (s : State) : Reply × State :=
  match bodyClip body s with
  | none => refuse .notFound s
  | some c =>
    let entries := c.range.filterMap fun id =>
      (s.segment? id).map fun g => (⟨id, g.pinCount, g.damage.isSome⟩ : RangeEntry)
    let remaining := c.confirmDeadline.map fun t => t - s.now
    answerOk (fitEntries (.clip { c with cursor := none } remaining (s.cursorReport c)) entries) s

/-- A clip as CLIP_LIST lists it (R119). -/
def clipEntry (c : Clip) : ClipEntry where
  id := c.id
  slot := c.slot
  channel := c.channel
  inPoint := c.inPoint
  outPoint := c.outPoint
  record := c.record
  send := c.send
  rating := c.rating
  urgent := c.urgent
  hold := c.hold
  damaged := c.damaged
  truncated := c.truncated
  clamped := c.clamped

/-- CLIP_LIST (R119, R198): an optional channel and an optional first slot. -/
def clipList (body : List Byte) (s : State) : Reply × State :=
  let flags := field body 0 1
  let channel := if maskBit flags 0 then some (field body 1 1) else none
  let first := if maskBit flags 1 then field body 2 2 else 0
  if !maskDefined flags 2 || channel.any (fun c => decide (6 ≤ c)) || decide (256 ≤ first) then refuse .badValue s
  else
    let listed := s.clipLog.clips.filter fun c =>
      !c.discardPending && decide (first ≤ c.slot) && channel.all (fun n => c.channel.val == n)
    answerOk (fitEntries .clips (listed.map clipEntry)) s

end Sys2Proof.Machine
end

