-- ==== Sys2Proof/Machine/Paths.lean ====
section
/-! DEFINITION. The Path Controller's send side (07, sections 7.2 to 7.9 and 7.11): states, the transmitter, the retry
buffer, replay, draining and failure. The receive side is in Receive.lean. -/

namespace Sys2Proof.Machine

/-! ## The record -/

/-- The cells held by a retry buffer (Table 7-3). -/
def cellsHeld (retry : List RetryEntry) : Nat := (retry.map fun e => e.contents.cells).sum

/-- The ack deadline that a retry buffer gives: the sent at of the oldest entry plus the ack timeout (R158). -/
def deadlineOf (retry : List RetryEntry) (timeout : Nat) : Option Time :=
  retry.head?.map fun e => e.sentAt + timeout * millisecond

/-- A control frame joins the control queue. -/
def queueControl (p : Fin 4) (f : ControlFrame) (s : State) : State :=
  s.modPath p fun path => { path with control := path.control ++ [f] }

/-- Changes of state are reported to the Rate Allocator and then raise a PATH notice (R146, R163;
notes/assumptions/14.md). -/
def changeState (p : Fin 4) (after : PathState) (cause : PathCause) (failure : Option (Nat × Nat × Nat)) (s : State) :
    State :=
  let before := s.paths[p].state
  let s := s.modPath p fun path => { path with state := after }
  raise (.pathState p before after cause failure) (reportPath p (after == .carry) s)

/-! ## Path failure (R162, R163, R179, R190) -/

/-- A picture counted as a late drop by a path failure (R179). -/
def failedPicture (c : Fin 6) (sequence : Seq) (t : Timecode) (s : State) : State :=
  let buffer := s.coders[c].liveBuffer
  let place := buffer.findIdx fun p => p.sequence == sequence && p.timecode == t
  let unstarted := (buffer[place]?.map fun p => p.bytes.length - p.started).getD 0
  let s := if place < buffer.length then dropLive c place s else markTruncated c 0 (lateDrop c s)
  raise (.pictureLate c t sequence unstarted .pathFailure) <|
    s.modSched fun sc => { sc with picturesLate := sc.picturesLate + 1 }

/-- Where a position stands in a range: two numbers, compared one after the other. -/
def positionRank (range : List Nat) : Position → Nat × Nat
  | .beforeStart => (0, 0)
  | .boundary none _ => (1, 0)
  | .inside segment offset => (2 * range.idxOf segment + 2, offset)
  | .boundary (some segment) _ => (2 * range.idxOf segment + 3, 0)

/-- One rank lies before another. -/
def rankBefore (a b : Nat × Nat) : Bool := decide (a.1 < b.1) || (a.1 == b.1 && decide (a.2 < b.2))

/-- The place of a partial rewind to a segment: its start, or the boundary after START for the first (R190). -/
def rewindPlace (range : List Nat) (segment : Nat) : Position :=
  if range.head? = some segment then .boundary none false else .inside segment 0

/-- The gaps that lie before the start of a segment; none do when it is the first of the range (R190). -/
def gapsBefore (range : List Nat) (segment : Nat) (gaps : List Gap) : Nat :=
  if range.head? = some segment then 0
  else (gaps.filter fun g => match g.follows with
    | none => true
    | some f => decide (range.idxOf f < range.idxOf segment)).length

/-- The cursor moved back to a segment, behind a RESEND item (R190). -/
def rewindCursor (c : Clip) (segment : Nat) (k : Cursor) : Cursor :=
  { k with
    position := rewindPlace c.range segment
    items := [.resend (some segment)]
    gapsEmitted := gapsBefore c.range segment c.gaps
    segmentSum := 0
    sent := k.sent.takeWhile fun e => e.1 != segment }

/-- A rewind counted and reported; the reads in progress are not added to the restarted sum (R190). -/
def reportRewind (id : Nat) (full : Bool) (segment : Option Nat) (s : State) : State :=
  let s := s.modReads (rewindRead fun r => r.clip == id)
  raise (.rewound id full segment) (s.modSched fun sc => { sc with rewinds := sc.rewinds + 1 })

/-- The rewind of a clip that a path failure reports (R190). A report that moves nothing is no rewind
(notes/assumptions/48.md). -/
def rewindClip (id : Nat) (earliest : Option Nat) (itemLost : Bool) (s : State) : State :=
  match s.clipNamed id with
  | none => s
  | some c =>
    match c.send with
    | .idle | .sent | .failed => s
    | .queued | .sending | .held | .awaitConfirm =>
      if itemLost ∨ earliest = none then
        reportRewind id true c.firstSegment <| s.modClip id fun c =>
          { c with cursor := some (freshCursor [.resend c.firstSegment]), started := false, markersSent := 0 }
      else
        match earliest, c.cursor with
        | some segment, some k =>
          if c.range.contains segment
              && rankBefore (positionRank c.range (rewindPlace c.range segment)) (positionRank c.range k.position) then
            reportRewind id false (some segment) <| s.modClip id fun c =>
              { c with cursor := some (rewindCursor c segment k) }
          else s
        | _, _ => s

/-- The VIDEO owners among retry entries, each picture once (R162), in the order of their first entries
(notes/assumptions/14.md). -/
def lostPictures (entries : List RetryEntry) : List (Fin 6 × Seq × Timecode) :=
  (entries.filterMap fun e => match e.owner with
    | .video c sequence t => some (c, sequence, t)
    | .audio _ | .clip _ _ _ => none).eraseDups

/-- The clips among retry entries, in the order of their first entries (R162). -/
def lostClips (entries : List RetryEntry) : List Nat :=
  (entries.filterMap fun e => match e.owner with
    | .clip _ id _ => some id
    | .audio _ | .video _ _ _ => none).eraseDups

/-- The segments that DATA and DAMAGED entries of a clip name (R162). -/
def lostSegments (entries : List RetryEntry) (id : Nat) : List Nat :=
  entries.filterMap fun e => match e.owner with
    | .clip .data i segment | .clip .damaged i segment => if i = id then segment else none
    | _ => none

/-- A START, MARK, RESEND or END entry of a clip was lost (R162). -/
def lostItem (entries : List RetryEntry) (id : Nat) : Bool :=
  entries.any fun e => match e.owner with
    | .clip .start i _ | .clip .mark i _ | .clip .resend i _ | .clip .finish i _ => i == id
    | _ => false

/-- The earliest of some segments on a timeline. -/
def earliestOf (line : List Nat) : List Nat → Option Nat
  | [] => none
  | g :: rest =>
    match earliestOf line rest with
    | none => some g
    | some h => if line.idxOf h < line.idxOf g then some h else some g

/-- A clip that a path failure gathered is reported: rewound, then handled by the Clip Log (R163, step 2). -/
def failedClip (entries : List RetryEntry) (s : State) (id : Nat) : State :=
  let line := match s.clip? id with | some c => s.store.timelines[c.channel] | none => []
  reportFailedClip id (rewindClip id (earliestOf line (lostSegments entries id)) (lostItem entries id) s)

/-- The record of a path that fails, with its buffer emptied (R162). -/
def failPath (path : Path) : Path :=
  { path with
    credit := 0
    retry := []
    acked := path.sendPointer
    ackDeadline := none
    replay := none
    closePending := false
    closeOwed := false
    unreturned := 0
    creditTimer := none
    creditFired := false
    receiveError := false
    requestQueued := none
    homeRetry := false
    transmitter := none
    control := []
    arriving := [] }

/-- The record of a path that goes DOWN with an empty buffer: credit 0 (R156), the transmitter and the control queue
emptied (R152), the receive-error flag cleared (R167), the cells of a frame not yet whole dropped
(notes/assumptions/23.md). -/
def quietPath (path : Path) : Path :=
  { path with
    credit := 0
    receiveError := false
    requestQueued := none
    helloDue := none
    transmitter := none
    control := []
    arriving := [] }

/-- A path goes DOWN; with frames held, or by its retry limit, this is a path failure (R152, R159, R162, R163). -/
def goDown (p : Fin 4) (cause : PathCause) (s : State) : State :=
  let entries := s.paths[p].retry
  if entries.isEmpty && cause != .retryLimit then changeState p .down cause none (s.modPath p quietPath)
  else
    let audio := (entries.filter fun e => match e.owner with
      | .audio _ => true
      | .video _ _ _ | .clip _ _ _ => false).length
    let s := (s.modPath p failPath).modSched fun sc =>
      { sc with reads := sc.reads.map fun r => if r.path = some p then { r with path := none } else r }
    let s := (lostPictures entries).foldl (fun s (c, sequence, t) => failedPicture c sequence t s) s
    let s := (lostClips entries).foldl (failedClip entries) s
    changeState p .down cause (some (audio, (lostPictures entries).length, (lostClips entries).length)) s

/-! ## Starting a frame (R152 to R154) -/

/-- The credit return a frame that starts carries, and what stays unreturned with its timer (R154, R172). -/
def takeReturn (now : Time) (path : Path) : Nat × Path :=
  let returned := min path.unreturned 255
  let left := path.unreturned - returned
  (returned, { path with
    unreturned := left
    creditTimer := if left = 0 then none else some (now + 5 * millisecond)
    creditFired := false })

/-- The head and payload of a control frame (Tables 10-6 and 10-7). -/
def controlContents : ControlFrame → FrameContents
  | .credit _ => ⟨kindCredit, 1, 0, false, false, 0, []⟩
  | .hello count => ⟨kindHello, 1, 0, false, false, 0, bigEndian 2 256 ++ [byteOf count]⟩
  | .retryMark _ => ⟨kindRetryMark, 1, 0, false, false, 0, []⟩
  | .close => ⟨kindClose, 1, 0, false, false, 0, []⟩

/-- The frame that starts, with its tail filled (R154). -/
def fillTail (contents : FrameContents) (sendPointer : Pointer) (poisoned : Bool) (entry : Option Pointer)
    (now : Time) (path : Path) : Path :=
  let (returned, path) := takeReturn now path
  { path with
    transmitter := some ⟨contents, ⟨path.receiveError, returned, sendPointer, path.expected, poisoned⟩, entry⟩ }

/-- The oldest control frame starts. -/
def startControl (f : ControlFrame) (rest : List ControlFrame) (now : Time) (path : Path) : Path :=
  let pointer := match f with | .retryMark pointer => pointer | .credit _ | .hello _ | .close => path.sendPointer
  fillTail (controlContents f) pointer false none now { path with control := rest }

/-- The retry entry at a place is replayed (R160). -/
def startReplay (place : Nat) (e : RetryEntry) (now : Time) (path : Path) : Path :=
  let retry := path.retry.set place { e with sentAt := now }
  fillTail e.contents e.start e.poisoned (some e.start) now
    { path with
      retry := retry
      ackDeadline := deadlineOf retry path.ackTimeout
      framesReplayed := path.framesReplayed + 1
      replay := some (place + 1) }

/-- A new sequenced frame starts (R153). -/
def startNew (contents : FrameContents) (owner : Owner) (now : Time) (path : Path) : Path :=
  let retry := path.retry ++ [⟨path.sendPointer, owner, false, now, contents⟩]
  fillTail contents path.sendPointer false (some path.sendPointer) now
    { path with
      credit := path.credit - contents.cells
      allowance := path.allowance - contents.cells
      retry := retry
      sendPointer := path.sendPointer + BitVec.ofNat 9 contents.cells
      framesStarted := path.framesStarted + 1
      cellsStarted := path.cellsStarted + BitVec.ofNat 32 contents.cells
      ackDeadline := if path.retry.isEmpty then some (now + path.ackTimeout * millisecond) else path.ackDeadline }

/-- The path is free to start a frame (R152). -/
def Path.free (path : Path) : Bool := path.state == .carry && path.transmitter.isNone && path.control.isEmpty

/-- The path can take a new frame of so many cells (R153). -/
def Path.takes (path : Path) (cells : Nat) : Bool :=
  path.free && decide (cells ≤ path.credit) && decide (cellsHeld path.retry + cells ≤ 511)
    && decide (cells ≤ path.allowance)

/-! ## The end of a replay and of a drain (R160, R161) -/

/-- The replay has ended (R160). -/
def Path.replayDone (path : Path) : Bool :=
  path.state == .recover &&
    (path.retry.isEmpty ||
      (path.transmitter.isNone && path.replay.all fun place => decide (path.retry.length ≤ place)))

/-- The end of the replay (R160). -/
def endReplay (p : Fin 4) (s : State) : State :=
  let s := s.modPath p fun path =>
    { path with replay := none, ackDeadline := deadlineOf path.retry path.ackTimeout }
  if s.paths[p].closePending then
    let s := changeState p .drain .replayDone none s
    if s.paths[p].closeOwed then queueControl p .close (s.modPath p fun path => { path with closeOwed := false }) else s
  else changeState p .carry .replayDone none s

/-- The path has drained (R161). -/
def Path.drained (path : Path) : Bool :=
  path.state == .drain && path.retry.isEmpty && path.control.isEmpty && path.transmitter.isNone

/-- The ends of a replay and of a drain that are reached (R160, R161). -/
def settleStates (p : Fin 4) (s : State) : State :=
  let s := if s.paths[p].replayDone then endReplay p s else s
  if s.paths[p].drained then goDown p .drained s else s

/-- A CREDIT frame queued for credit alone is withdrawn when its turn comes with nothing to return (R172). -/
def withdrawn (path : Path) : ControlFrame → Bool
  | .credit false => path.unreturned == 0 && !path.receiveError
  | .credit true | .hello _ | .retryMark _ | .close => false

/-- The transmitter's own choice when it is IDLE: a control frame, or in RECOVER a replay (R152). -/
def pathChoice (p : Fin 4) (s : State) : State :=
  let path := s.paths[p]
  if path.state = .down ∨ path.transmitter.isSome = true then s
  else
    let control := path.control.dropWhile (withdrawn path)
    match control with
    | f :: rest => s.modPath p (startControl f rest s.now)
    | [] =>
      let s := s.modPath p fun path => { path with control := [] }
      match path.state, path.replay with
      | .recover, some place =>
        match path.retry[place]? with
        | some e => s.modPath p (startReplay place e s.now)
        | none => s
      | _, _ => s

/-- What a path does by itself after an event: the end of a replay, its transmitter's choice, the end of a drain. -/
def settlePath (s : State) (p : Fin 4) : State :=
  settleStates p (pathChoice p (settleStates p s))

/-! ## Retry (R158, R159) -/

/-- A retry is triggered in CARRY or DRAIN (R159). -/
def triggerRetry (p : Fin 4) (cause : PathCause) (s : State) : State :=
  let before := s.paths[p].state
  let s := s.modPath p fun path => { path with retryCount := path.retryCount + 1, retries := path.retries + 1 }
  if s.paths[p].retryLimit < s.paths[p].retryCount then goDown p .retryLimit s
  else
    let s := s.modPath p fun path =>
      { path with
        closePending := path.closePending || before == .drain
        control := path.control ++ [.retryMark path.acked, .retryMark path.acked]
        replay := if path.retry.isEmpty then none else some 0 }
    settleStates p (changeState p .recover cause none s)

/-- The ack deadline expires (R158). -/
def ackExpired (p : Fin 4) (s : State) : State :=
  match s.paths[p].state with
  | .carry => triggerRetry p .ackTimeout s
  | .drain => goDown p .drainTimeout s
  | .down | .probe | .recover => s

/-! ## Opening a path (R150) -/

/-- A HELLO joins the control queue; the next is due 100 ms later (R150). -/
def queueHello (p : Fin 4) (count : Nat) (s : State) : State :=
  queueControl p (.hello count) <| s.modPath p fun path =>
    { path with helloCount := count, helloDue := some (s.now + 100 * millisecond) }

/-- The record made ready for a new exchange (R150). -/
def readyPath (path : Path) : Path :=
  { path with
    credit := 0
    retry := []
    sendPointer := 0
    acked := 0
    ackDeadline := none
    retryCount := 0
    closePending := false
    closeOwed := false
    expected := 0
    unreturned := 0
    creditTimer := none
    creditFired := false
    receiveError := false
    requestQueued := none
    homeRetry := false
    control := []
    arriving := [] }

/-- Entry to PROBE (R150). -/
def enterProbe (p : Fin 4) (s : State) : State :=
  queueHello p 1 (changeState p .probe .opened none (s.modPath p readyPath))

/-- 100 ms without a good HELLO_REPLY in PROBE (R150). -/
def helloExpired (p : Fin 4) (s : State) : State :=
  if s.paths[p].helloCount < 5 then queueHello p (s.paths[p].helloCount + 1) s else goDown p .helloLimit s

/-! ## Requests -/

/-- PATH_OPEN (R147). -/
def pathOpen (body : List Byte) (s : State) : Reply × State :=
  match finOf 4 (field body 0 1) with
  | none => refuse .badValue s
  | some p =>
    match s.paths[p].state with
    | .down => answerAccepted .none (enterProbe p s)
    | .probe => answerOk .none s
    | .carry | .recover | .drain => refuse .badState s

/-- PATH_CLOSE (R148). -/
def pathClose (body : List Byte) (s : State) : Reply × State :=
  match finOf 4 (field body 0 1) with
  | none => refuse .badValue s
  | some p =>
    match s.paths[p].state with
    | .down | .drain => answerOk .none s
    | .probe => answerOk .none (goDown p .close s)
    | .carry => answerAccepted .none (queueControl p .close (changeState p .drain .close none s))
    | .recover =>
      answerAccepted .none <| s.modPath p fun path =>
        { path with closePending := true, closeOwed := path.closeOwed || !path.closePending }

/-- PATH_SET (R149). -/
def pathSet (body : List Byte) (s : State) : Reply × State :=
  match finOf 4 (field body 0 1) with
  | none => refuse .badValue s
  | some p =>
    let timeout := min 2000 (max 10 (field body 1 2))
    let limit := min 15 (max 1 (field body 3 1))
    let s := s.modPath p fun path =>
      { path with ackTimeout := timeout, retryLimit := limit, ackDeadline := deadlineOf path.retry timeout }
    let s := if s.paths[p].ackDeadline.any (fun t => decide (t ≤ s.now)) then ackExpired p s else s
    answerOk (.pathValues timeout limit) s

/-- A path's record as PATH_INFO gives it at a time (R173). A replay position past the newest entry names no entry
(notes/assumptions/47.md), a deadline that has passed and has not been acted on has no time remaining
(notes/assumptions/56.md), and no more has a credit timer that has expired (notes/assumptions/22.md). -/
def Path.report (path : Path) (now : Time) : PathReport where
  state := path.state
  credit := path.credit
  ceiling := path.ceiling
  allowance := path.allowance
  cellsHeld := cellsHeld path.retry
  sendPointer := path.sendPointer
  acked := path.acked
  ackRemaining := path.ackDeadline.map (· - now)
  retryCount := path.retryCount
  replay := path.replay.bind fun place => path.retry[place]?.map (·.start)
  closePending := path.closePending
  closeOwed := path.closeOwed
  helloCount := path.helloCount
  expected := path.expected
  unreturned := path.unreturned
  creditRemaining := path.creditTimer.map (· - now)
  receiveError := path.receiveError
  homeRetry := path.homeRetry
  transmitter := path.transmitter.map fun f => (f.contents.kind, f.contents.cells)
  control := path.control.map fun f => (controlContents f).kind
  ackTimeout := path.ackTimeout
  retryLimit := path.retryLimit
  framesStarted := path.framesStarted
  cellsStarted := path.cellsStarted
  framesReplayed := path.framesReplayed
  retries := path.retries
  framesReceived := path.framesReceived
  framesRejected := path.framesRejected
  warnings := path.warnings

/-- A retry entry as PATH_INFO gives it (R173). -/
def RetryEntry.info (e : RetryEntry) : RetryInfo :=
  ⟨e.start, e.contents.cells, e.contents.kind, e.owner, e.poisoned⟩

/-- PATH_INFO (R173). -/
def pathInfo (body : List Byte) (s : State) : Reply × State :=
  match finOf 4 (field body 0 1) with
  | none => refuse .badValue s
  | some p =>
    answerOk (fitEntries (fun shown omitted => .path (s.paths[p].report s.now) shown s.alloc.pathRate[p] omitted)
      (s.paths[p].retry.map RetryEntry.info)) s

end Sys2Proof.Machine
end

