-- ==== Sys2Proof/Machine/Scheduler.lean ====
section
/-! DEFINITION. The Send Scheduler (08): the tick, the clip cursor and its items, the clip class with its loans, and
arbitration. -/

namespace Sys2Proof.Machine

/-! ## The picture tick at the scheduler (R175, R176, R178) -/

/-- Every allowance refilled from the published figures (R175). -/
def refill (s : State) : State :=
  let s := { s with paths := Vector.ofFn fun p : Fin 4 => { s.paths[p] with allowance := s.alloc.pathRate[p] } }
  s.modSched fun sc =>
    { sc with
      tickCount := sc.tickCount + 1
      channelAllowance := Vector.ofFn fun c : Fin 6 => if s.alloc.live[c] then s.alloc.budget[c] else 0
      clipAllowance := s.alloc.clipAllowance }

/-- The frames of the audio queue that reach two ticks after their creation are late (R176). -/
def audioExpiry (s : State) : State :=
  let late := fun f : AudioFrame => f.created + 2 == s.sched.tickCount
  (s.sched.audioQueue.filter late).foldl (fun s f => reportAudioLate f s) <|
    s.modSched fun sc => { sc with audioQueue := sc.audioQueue.filter fun f => !late f }

/-- The first picture of a channel at its deadline tick is late, at most so many times (R178). -/
def expirePictures (c : Fin 6) : Nat → State → State
  | 0, s => s
  | n + 1, s =>
    let buffer := s.coders[c].liveBuffer
    let place := buffer.findIdx fun p => p.deadlineTick == s.sched.tickCount
    match buffer[place]? with
    | none => s
    | some p =>
      let s := (dropLive c place s).modSched fun sc => { sc with picturesLate := sc.picturesLate + 1 }
      expirePictures c n (raise (.pictureLate c p.timecode p.sequence (p.bytes.length - p.started) .deadline) s)

/-- The pictures of a channel that are at their deadline tick are late (R178). -/
def pictureExpiry (c : Fin 6) (s : State) : State := expirePictures c s.coders[c].liveBuffer.length s

/-- The picture tick at the scheduler: the refill and the expiries (R175). -/
def schedulerTick (s : State) : State :=
  (List.finRange 6).foldl (fun s c => pictureExpiry c s) (audioExpiry (refill s))

/-! ## The clip cursor (R183 to R186) -/

/-- A frame that a clip offers. -/
inductive ClipOffer where
  | queued (item : QueuedItem)
  | start
  | gap (gap : Gap)
  | mark
  | data (segment offset length : Nat)
  | replaced (segment : Nat)
  | finish
  deriving DecidableEq, Repr

/-- What a clip's cursor comes to next. -/
inductive ClipNext where
  /-- An item is ready. -/
  | item (offer : ClipOffer)
  /-- The items of the boundary have started: it is passed (R186). -/
  | pass
  /-- The position moves without an item. -/
  | move (cursor : Cursor)
  /-- The clip waits (R183, R187). -/
  | waits
  /-- A read is in progress. -/
  | busy
  deriving DecidableEq, Repr

/-- The position past a boundary: the start of the next segment, or the end of the range (R186). -/
def passedPosition (range : List Nat) (after : Option Nat) : Position :=
  match segmentAfter range after with
  | some g => .inside g 0
  | none => .boundary after true

/-- The position is left for the boundary after a segment that was not sent whole: it joins the sent list as DAMAGED and
a DAMAGED item with disposition AFTER_DATA is queued (R184, R185). -/
def abandonSegment (segment : Nat) (k : Cursor) : Cursor :=
  { k with
    position := .boundary (some segment) false
    sent := k.sent ++ [(segment, false)]
    items := k.items ++ [.damaged segment]
    segmentSum := 0 }

/-- The chunk of a DATA frame from an offset (R184). -/
def chunkLength (byteLength offset : Nat) : Nat := min 488 (byteLength - offset)

/-- What comes next inside a segment (R183, step 4; R185). -/
def nextInside (s : State) (c : Clip) (k : Cursor) (segment offset : Nat) : ClipNext :=
  match s.segment? segment with
  | none => .waits
  | some g =>
    if g.state = .filling then .waits
    else if s.sched.reads.any (fun r => r.clip == c.id && r.use != .freed) then .busy
    else if g.damage.isSome then
      (if offset = 0 then .item (.replaced segment) else .move (abandonSegment segment k))
    else .item (.data segment offset (chunkLength g.byteLength offset))

/-- What comes next at a boundary (R183, steps 3 and 5; R186). -/
def nextAtBoundary (c : Clip) (k : Cursor) (after : Option Nat) (passed : Bool) : ClipNext :=
  let rest :=
    if c.markersSent < c.markers.length then .item .mark
    else if !passed then .pass
    else
      match segmentAfter c.range after with
      | some g => .move { k with position := .inside g 0 }
      | none => if c.record = .closed then .item .finish else .waits
  match c.gaps[k.gapsEmitted]? with
  | some gap =>
    if gap.follows = after then (if gap.count.isSome then .item (.gap gap) else .waits) else rest
  | none => rest

/-- The first of the steps of R183 that applies. -/
def clipNext (s : State) (c : Clip) (k : Cursor) : ClipNext :=
  match k.items with
  | item :: _ => .item (.queued item)
  | [] =>
    match k.position with
    | .beforeStart => .item .start
    | .boundary after passed => nextAtBoundary c k after passed
    | .inside segment offset => nextInside s c k segment offset

/-- What a clip would come to once its boundary is passed and its position has moved (R188). -/
def clipAhead (s : State) (c : Clip) : Nat → Cursor → ClipNext
  | 0, k => clipNext s c k
  | n + 1, k =>
    match clipNext s c k with
    | .move k' => clipAhead s c n k'
    | .pass =>
      match k.position with
      | .boundary after _ => clipAhead s c n { k with position := passedPosition c.range after }
      | .beforeStart | .inside _ _ => .pass
    | .item offer => .item offer
    | .waits => .waits
    | .busy => .busy

/-- What a clip record comes to, with at most a pass and two moves taken. -/
def aheadOf (s : State) (c : Clip) : ClipNext :=
  match c.cursor with
  | some k => clipAhead s c 4 k
  | none => .waits

/-! ## Items as frames (Tables 10-6 and 10-7) -/

/-- A marker as START and MARK carry it. -/
def markerBytes (m : Marker) : List Byte :=
  timecodeBytes m.timecode ++ [byteOf m.kind, byteOf m.note.length] ++ m.note

/-- The payload of START. -/
def startPayload (c : Clip) : List Byte :=
  bigEndian 2 c.id ++ [byteOf c.channel.val,
      byteOf ((if c.urgent then 1 else 0) + (if c.outPoint.isSome then 2 else 0)), byteOf c.rating]
    ++ timecodeBytes c.inPoint ++ (c.outPoint.map timecodeBytes).getD [0, 0, 0, 0]
    ++ byteOf c.label.length :: c.label ++ byteOf c.markers.length :: c.markers.flatMap markerBytes

/-- The value of a damage cause (Table 10-7). -/
def damageValue : DamageCause → Nat
  | .patrol => 1
  | .demand => 2
  | .digest => 3

/-- The payload of a DAMAGED item for a segment, with its disposition (R185). -/
def damagedPayload (s : State) (id segment disposition : Nat) : List Byte :=
  match s.segment? segment with
  | none => bigEndian 2 id ++ [byteOf disposition, 0] ++ bigEndian 2 segment ++ List.replicate 8 0
  | some g =>
    let d := g.damage.getD ⟨0, g.pictures - 1, .digest⟩
    bigEndian 2 id ++ [byteOf disposition, byteOf (damageValue d.cause)] ++ bigEndian 2 segment
      ++ timecodeBytes (pictureTimecode g d.first) ++ timecodeBytes (pictureTimecode g d.last)

/-- The send digest: the sum of the digests of the segments sent UNDAMAGED (R189). -/
def sendDigest (s : State) (k : Cursor) : Digest :=
  onesSum (k.sent.filterMap fun e => if e.2 then (s.segment? e.1).map (·.digest) else none)

/-- The payload of an offer. -/
def offerPayload (s : State) (c : Clip) (k : Cursor) : ClipOffer → List Byte
  | .queued (.resend segment) => bigEndian 2 c.id ++ bigEndian 2 (segment.getD 0xFFFF)
  | .queued .abort => bigEndian 2 c.id
  | .queued (.damaged segment) => damagedPayload s c.id segment 2
  | .start => startPayload c
  | .gap gap =>
    bigEndian 2 c.id ++ [3, 0, 0xFF, 0xFF] ++ timecodeBytes gap.start ++ bigEndian 4 (gap.count.getD 0)
  | .mark =>
    let waiting := c.markers.drop c.markersSent
    bigEndian 2 c.id ++ byteOf waiting.length :: waiting.flatMap markerBytes
  | .data segment offset length =>
    let pages := ((s.segment? segment).map (·.pages)).getD []
    bigEndian 2 c.id ++ bigEndian 2 segment ++ bigEndian 4 offset
      ++ (List.range length).map fun i => memRead s.store.dram (segAddress pages (offset + i))
  | .replaced segment => damagedPayload s c.id segment 1
  | .finish => bigEndian 2 c.id ++ timecodeBytes (c.outPoint.getD c.inPoint) ++ bigEndian 2 (sendDigest s k).toNat

/-- The item kind of a queued item. -/
def QueuedItem.kind : QueuedItem → ClipItem
  | .resend _ => .resend
  | .abort => .abort
  | .damaged _ => .damaged

/-- The item kind of an offer, and the segment its retry entry names (R181, R186). -/
def offerOwner (c : Clip) : ClipOffer → ClipItem × Option Nat
  | .queued (.resend _) => (.resend, none)
  | .queued .abort => (.abort, none)
  | .queued (.damaged segment) => (.damaged, some segment)
  | .start => (.start, none)
  | .gap gap => (.damaged, gap.follows <|> c.firstSegment)
  | .mark => (.mark, none)
  | .data segment _ _ => (.data, some segment)
  | .replaced segment => (.damaged, some segment)
  | .finish => (.finish, none)

/-- LAST is set on the frame that carries a segment's final byte (R184). -/
def offerLast (s : State) : ClipOffer → Bool
  | .data segment offset length => (s.segment? segment).any fun g => offset + length == g.byteLength
  | .queued _ | .start | .gap _ | .mark | .replaced _ | .finish => false

/-- The frame of an offer and its owner. -/
def offerFrame (s : State) (c : Clip) (k : Cursor) (offer : ClipOffer) : FrameContents × Owner :=
  let payload := offerPayload s c k offer
  let (item, segment) := offerOwner c offer
  (⟨kindOfItem item, cellsFor payload.length, byteOf c.slot, offerLast s offer, false, k.sequence, payload⟩,
    .clip item c.id segment)

/-- The cursor of a clip changed. -/
def State.modCursor (id : Nat) (f : Cursor → Cursor) (s : State) : State :=
  s.modClip id fun c => { c with cursor := c.cursor.map f }

/-- An item of a boundary has started: the boundary is passed after the last of them (R186), even where it was passed
once (notes/assumptions/28.md). -/
def Cursor.atBoundary (k : Cursor) : Cursor :=
  match k.position with
  | .boundary after _ => { k with position := .boundary after false }
  | .beforeStart | .inside _ _ => k

/-- What the start of an item changes at its clip (R183 to R186, R189). `start` is the send pointer of its frame. -/
def emitted (p : Fin 4) (start : Pointer) (c : Clip) (k : Cursor) (offer : ClipOffer) (s : State) : State :=
  let s := s.modCursor c.id fun k => { k with sequence := k.sequence + 1 }
  match offer with
  | .queued .abort => freeClip c.id s
  | .queued (.resend _) | .queued (.damaged _) => s.modCursor c.id fun k => { k with items := k.items.drop 1 }
  | .start =>
    (s.modClip c.id fun c => { c with started := true, markersSent := c.markers.length }).modCursor c.id fun k =>
      { k with position := .boundary none false }
  | .gap _ => s.modCursor c.id fun k => { k.atBoundary with gapsEmitted := k.gapsEmitted + 1 }
  | .mark => (s.modClip c.id fun c => { c with markersSent := c.markers.length }).modCursor c.id Cursor.atBoundary
  | .data segment offset length =>
    let pages := ((s.segment? segment).map (·.pages)).getD []
    (s.modCursor c.id fun k => { k with position := .inside segment (offset + length) }).modSched fun sc =>
      { sc with reads := sc.reads ++ [⟨c.id, some p, start, some segment, pages, offset, length, .cursor⟩] }
  | .replaced segment =>
    s.modCursor c.id fun k =>
      { k with position := .boundary (some segment) false, sent := k.sent ++ [(segment, false)] }
  | .finish =>
    setSend c.id .awaitConfirm .finish <| s.modClip c.id fun clip =>
      { clip with
        sendDigest := some (sendDigest s k)
        confirmDeadline := some (s.now + s.clipLog.timeout * 1000 * millisecond) }

/-! ## The clip class (R182, R187, R188) -/

/-- The SENDING clip. -/
def State.sendingClip (s : State) : Option Clip := s.clipLog.clips.find? fun c => c.send == .sending

/-- One clip comes before another: by rating, then by queue number (R182). -/
def comesBefore (a b : Clip) : Bool :=
  decide (a.rating > b.rating) ||
    (a.rating == b.rating && decide ((a.queueNumber.getD 0).toNat < (b.queueNumber.getD 0).toNat))

/-- The first of some clips by rating and queue number. -/
def firstClip : List Clip → Option Clip
  | [] => none
  | c :: rest =>
    match firstClip rest with
    | none => some c
    | some d => if comesBefore d c then some d else some c

/-- The QUEUED clips without HOLD. -/
def State.candidates (s : State) : List Clip := s.clipLog.clips.filter fun c => c.send == .queued && !c.hold

/-- The checks of R187: HELD, PREEMPTED, or neither. -/
def boundaryChecks (c : Clip) (s : State) : Option State :=
  if c.hold && !c.discardPending then some (setSend c.id .held .held s)
  else if !c.urgent && !c.discardPending && s.candidates.any (fun d => decide (d.rating > c.rating)) then
    some (setSend c.id .queued .preempted s)
  else none

/-- The SENDING clip was found waiting, or no longer waits. -/
def setWaiting (waiting : Bool) (s : State) : State := s.modSched fun sc => { sc with waiting := waiting }

/-- A borrower would wait, or would come to END (R188). -/
def State.cannotBorrow (s : State) (c : Clip) : Bool :=
  match aheadOf s c with
  | .waits | .item .finish => true
  | .item _ | .pass | .move _ | .busy => false

/-- The loan passes to the first clip that can borrow, or ends (R188). -/
def lendTo (lender : Nat) (s : State) : State :=
  let borrower := firstClip (s.candidates.filter fun c => !s.cannotBorrow c)
  s.modSched fun sc => { sc with loan := borrower.map fun b => ⟨lender, b.id⟩ }

/-- The loan goes on at a review: the lender is still SENDING, still waits and may lend (R188, case 1). -/
def State.lenderWaits (s : State) (lender : Nat) : Bool :=
  match s.sendingClip with
  | some c => c.id == lender && aheadOf s c == .waits && !c.urgent && !c.discardPending
  | none => false

/-- The boundary is passed: the position moves on (R186). -/
def passBoundary (id : Nat) (s : State) : State :=
  match s.clip? id with
  | none => s
  | some c =>
    s.modCursor id fun k =>
      match k.position with
      | .boundary after _ => { k with position := passedPosition c.range after }
      | .beforeStart | .inside _ _ => k

/-- A clip that passes the last boundary of its range stands at the end of the range, whether or not the checks then let
it go on (R186, R188). -/
def reachEnd (c : Clip) (k : Cursor) (s : State) : State :=
  match k.position with
  | .boundary after _ => if (segmentAfter c.range after).isNone then passBoundary c.id s else s
  | .beforeStart | .inside _ _ => s

/-- No loan runs any more. -/
def endLoan (s : State) : State := s.modSched fun sc => { sc with loan := none }

/-- The review of a loan at a boundary of the borrower, or when it waits (R188). -/
def reviewLoan (l : Loan) (b : Clip) (s : State) : State :=
  if !s.lenderWaits l.lender then endLoan s
  else if b.hold || s.cannotBorrow b then lendTo l.lender s
  else passBoundary b.id s

/-- One step of the clip class while a loan runs. A borrower that has become SENDING ends the loan at its boundary, and
passes it under the checks of R187 (R188, case 1). -/
def loanStep (l : Loan) (s : State) : Option State :=
  match s.clip? l.borrower with
  | none => some (if s.lenderWaits l.lender then lendTo l.lender s else endLoan s)
  | some b =>
    match b.cursor with
    | none => some (endLoan s)
    | some k =>
      match clipNext s b k with
      | .pass => some (if b.send = .sending then endLoan s else reviewLoan l b (reachEnd b k s))
      | .waits => some (reviewLoan l b s)
      | .move k' => some (s.modCursor b.id fun _ => k')
      | .item .finish => some (reviewLoan l b s)
      | .item _ | .busy => none

/-- One step of the SENDING clip while no loan runs. A wait whose loan has ended for want of a borrower lends again once a
clip can borrow (R188, notes/assumptions/55.md). -/
def sendingStep (c : Clip) (s : State) : Option State :=
  match c.cursor with
  | none => none
  | some k =>
    match clipNext s c k with
    | .item _ | .busy => if s.sched.waiting then some (setWaiting false s) else none
    | .move k' => some (s.modCursor c.id fun _ => k')
    | .pass =>
      let s := reachEnd c k (setWaiting false s)
      some ((boundaryChecks c s).getD (passBoundary c.id s))
    | .waits =>
      if !s.sched.waiting then some ((boundaryChecks c s).getD (setWaiting true s))
      else if c.urgent || c.discardPending then none
      else
        let s' := lendTo c.id s
        if s'.sched.loan.isSome then some s' else none

/-- One step of the clip class: a choice (R182), a move of the cursor, a boundary, or a loan; `none` when nothing is left
to do. A clip that waits when it is chosen begins to wait then: no check of R187 applies to the clip just chosen
(notes/assumptions/46.md). -/
def clipStep (s : State) : Option State :=
  match s.sendingClip with
  | none =>
    match firstClip s.candidates with
    | some c => some (setSend c.id .sending .chosen (setWaiting (aheadOf s c == .waits) s))
    | none => s.sched.loan.bind fun l => loanStep l s
  | some c =>
    match s.sched.loan with
    | some l => loanStep l s
    | none => sendingStep c s

/-- The clip being served: the borrower during a loan, else the SENDING clip (08, section 8.1). -/
def State.servedClip (s : State) : Option Clip :=
  match s.sched.loan with
  | some l => s.clip? l.borrower
  | none => s.sendingClip

/-- The offer of the clip being served. -/
def State.clipOffer (s : State) : Option (Clip × Cursor × ClipOffer) :=
  match s.servedClip with
  | none => none
  | some c =>
    match c.cursor with
    | none => none
    | some k =>
      match clipNext s c k with
      | .item offer => some (c, k, offer)
      | .pass | .move _ | .waits | .busy => none

/-! ## Arbitration (R180, R181) -/

/-- The free path that can take so many cells with the most path allowance, the lowest-numbered of equals (R181). -/
def State.bestPath (s : State) (cells : Nat) : Option (Fin 4) :=
  ((List.finRange 4).filter fun p => s.paths[p].takes cells).foldl (fun best p =>
    match best with
    | none => some p
    | some q => if s.paths[q].allowance < s.paths[p].allowance then some p else some q) none

/-- The next frame of a channel's live stream (R177). -/
def videoFrame (s : State) (c : Fin 6) : Option (LivePicture × FrameContents) :=
  match s.coders[c].liveBuffer with
  | [] => none
  | p :: _ =>
    let chunk := min 496 (p.bytes.length - p.started)
    some (p, ⟨kindVideo, cellsFor chunk, byteOf c.val, p.started + chunk == p.bytes.length, p.truncate,
      s.sched.frameSequence[c], (p.bytes.drop p.started).take chunk⟩)

/-- The oldest audio frame starts on a path (R176, R181). -/
def startAudio (p : Fin 4) (f : AudioFrame) (s : State) : State :=
  (s.modPath p (startNew ⟨kindAudio, 13, byteOf f.stream.val, false, false, f.sequence, f.payload⟩
      (.audio f.stream) s.now)).modSched fun sc =>
    { sc with audioQueue := sc.audioQueue.drop 1, audioStarted := sc.audioStarted + 1 }

/-- The bytes of the oldest picture that a frame carries are started; a picture wholly started leaves the list, and the
truncate mark has been carried (R38, R177). -/
def startedBytes (chunk : Nat) : List LivePicture → List LivePicture
  | [] => []
  | p :: rest =>
    if p.bytes.length ≤ p.started + chunk then rest
    else { p with started := p.started + chunk, truncate := false } :: rest

/-- A channel's next frame starts on a path (R177, R181). -/
def startVideo (p : Fin 4) (c : Fin 6) (picture : LivePicture) (f : FrameContents) (s : State) : State :=
  let s := s.modPath p (startNew f (.video c picture.sequence picture.timecode) s.now)
  let s := s.modCoder c fun k => { k with liveBuffer := startedBytes f.payload.length k.liveBuffer }
  s.modSched fun sc =>
    { sc with
      frameSequence := vecSet sc.frameSequence c (sc.frameSequence[c] + 1)
      channelAllowance := vecSet sc.channelAllowance c (sc.channelAllowance[c] - f.cells)
      videoStarted := sc.videoStarted + 1 }

/-- The served clip's next item starts on a path (R181). -/
def startClip (p : Fin 4) (c : Clip) (k : Cursor) (offer : ClipOffer) (s : State) : State :=
  let (f, owner) := offerFrame s c k offer
  let start := s.paths[p].sendPointer
  let s := (s.modPath p (startNew f owner s.now)).modSched fun sc =>
    { sc with clipAllowance := sc.clipAllowance - f.cells, clipStarted := sc.clipStarted + 1 }
  emitted p start c k offer s

/-- The audio candidate (R180, step 1). -/
def chooseAudio (s : State) : Option State :=
  match s.sched.audioQueue with
  | [] => none
  | f :: _ => (s.bestPath 13).map fun p => startAudio p f s

/-- A channel's candidate, within its allowance or not (R180, steps 2 and 4). -/
def chooseVideo (within : Bool) (s : State) (c : Fin 6) : Option State :=
  match videoFrame s c with
  | none => none
  | some (picture, f) =>
    if within && decide (s.sched.channelAllowance[c] < f.cells) then none
    else (s.bestPath f.cells).map fun p => startVideo p c picture f s

/-- The clip candidate, within the clip allowance or not (R180, steps 3 and 4). -/
def chooseClip (within : Bool) (s : State) : Option State :=
  match s.clipOffer with
  | none => none
  | some (c, k, offer) =>
    let cells := (offerFrame s c k offer).1.cells
    if within && decide (s.sched.clipAllowance < cells) then none
    else (s.bestPath cells).map fun p => startClip p c k offer s

/-- One choice: the first candidate that can be taken is started (R180). -/
def chooseFrame (s : State) : Option State :=
  chooseAudio s
    <|> (List.finRange 6).findSome? (chooseVideo true s)
    <|> chooseClip true s
    <|> (List.finRange 6).findSome? (chooseVideo false s)
    <|> chooseClip false s

/-- The clip class and choices, repeated until nothing is left to do (R180), at most so many times. -/
def serveLoop : Nat → State → State
  | 0, s => s
  | n + 1, s =>
    match clipStep s with
    | some s' => serveLoop n s'
    | none =>
      match chooseFrame s with
      | some s' => serveLoop n s'
      | none => s

/-- More steps than one event can bring about: every clip, every segment of every range, and the four transmitters. -/
def serveBound (s : State) : Nat :=
  64 + 8 * s.clipLog.clips.length + 8 * (s.clipLog.clips.map fun c => c.range.length + c.gaps.length).sum

/-- After an event that may let a frame start: the paths' own choices, then the scheduler's (R152, R180). -/
def serve (s : State) : State :=
  let s := (List.finRange 4).foldl settlePath s
  serveLoop (serveBound s) s

/-- The checks of R187 made again at a CLIP_SEND, CLIP_RATE, CLIP_HOLD or CLIP_RELEASE while the SENDING clip waits, a
clip chosen during a loan among them. A lender whose wait has ended during its loan is checked at its next boundary. -/
def waitChecks (s : State) : State :=
  match s.sendingClip with
  | some c => if aheadOf s c == .waits then (boundaryChecks c s).getD s else s
  | none => s

/-! ## The end of a demand read (R155, R184) -/

/-- The payload as read, and the poisoning of a frame (R155). -/
def fillFrame (start : Pointer) (bytes : List Byte) (poisoned : Bool) (path : Path) : Path :=
  let fill := fun c : FrameContents => { c with payload := c.payload.take 8 ++ bytes }
  { path with
    retry := path.retry.map fun e =>
      if e.start = start then { e with contents := fill e.contents, poisoned := e.poisoned || poisoned } else e
    transmitter := path.transmitter.map fun f =>
      if f.entry = some start then
        { f with contents := fill f.contents, tail := { f.tail with poisoned := f.tail.poisoned || poisoned } }
      else f }

/-- The cursor after a segment has been read to its end (R184, R85). -/
def finishSegment (id : Nat) (g : Segment) (sum : Digest) (s : State) : State :=
  let s := if sum = g.digest then s else markDamaged g.id 0 (g.pictures - 1) .digest s
  let damaged := (s.segment? g.id).any fun g => g.damage.isSome
  s.modCursor id fun k =>
    { k with
      position := .boundary (some g.id) false
      sent := k.sent ++ [(g.id, !damaged)]
      items := if damaged then k.items ++ [.damaged g.id] else k.items
      segmentSum := 0 }

/-- The outcome of a demand read at the cursor of its clip (R184), while the record is held: a clip whose discard is
pending is so until ABORT starts (R189). The segment is then in the clip's range, which pins it. -/
def readOutcomeAt (r : DemandRead) (read : RangeRead) (s : State) : State :=
  match s.clip? r.clip with
  | none => s
  | some c =>
    match c.cursor with
    | none => s
    | some k =>
      match r.segment.bind s.segment? with
      | none => s
      | some g =>
        if read.outcome = .uncorrectable then s.modCursor r.clip (abandonSegment g.id)
        else
          let sum := onesAddBytes k.segmentSum r.offset read.bytes
          if r.offset + r.length = g.byteLength then finishSegment r.clip g sum s
          else s.modCursor r.clip fun k => { k with segmentSum := sum }

/-- A demand read ends (R184): the frame gets the bytes as read, and the clip's cursor goes on unless the clip was
rewound, cut or freed. -/
def endRead (r : DemandRead) (s : State) : State :=
  let s := s.modSched fun sc => { sc with reads := sc.reads.erase r }
  let (read, s) := demandRead r.segment r.pages r.offset r.length s
  let s := match r.path with
    | some p => s.modPath p (fillFrame r.start read.bytes (read.outcome == .uncorrectable))
    | none => s
  if r.use = .cursor then readOutcomeAt r read s else s

/-- The last cell of a path's frame is handed over (R152): a demand read that still feeds it ends before (R184). -/
def frameEnd (p : Fin 4) (s : State) : State :=
  match s.paths[p].transmitter with
  | none => s
  | some f =>
    let s := match s.sched.reads.find? fun r => r.path == some p && f.entry == some r.start with
      | some r => endRead r s
      | none => s
    s.modPath p fun path => { path with transmitter := none }

/-! ## SEND_INFO (R192) -/

/-- The SENDING clip as SEND_INFO gives it. -/
def State.sendClipReport (s : State) (c : Clip) : SendClipReport where
  id := c.id
  position := c.cursor.map (·.position)
  items := ((c.cursor.map (·.items)).getD []).map QueuedItem.kind
  waits := aheadOf s c == .waits

/-- A channel as SEND_INFO gives it. -/
def State.sendChannelReport (s : State) (c : Fin 6) : SendChannelReport where
  allowance := s.sched.channelAllowance[c]
  pictures := s.coders[c].liveBuffer.length
  oldestDeadline := s.coders[c].liveBuffer.head?.map (·.deadlineTick)
  frameSequence := s.sched.frameSequence[c]
  truncatePending := s.sched.truncatePending[c]

/-- SEND_INFO (R192). -/
def sendInfo (_body : List Byte) (s : State) : Reply × State :=
  answerOk (.send
    { tickCount := s.sched.tickCount
      channels := Vector.ofFn s.sendChannelReport
      clipAllowance := s.sched.clipAllowance
      audioLength := s.sched.audioQueue.length
      oldestCreated := s.sched.audioQueue.head?.map (·.created)
      sending := s.sendingClip.map s.sendClipReport
      loan := s.sched.loan
      audioStarted := s.sched.audioStarted
      videoStarted := s.sched.videoStarted
      clipStarted := s.sched.clipStarted
      audioLate := s.sched.audioLate
      picturesLate := s.sched.picturesLate
      rewinds := s.sched.rewinds }) s

end Sys2Proof.Machine
end

