-- ==== Sys2Proof/Machine/Receive.lean ====
section
/-! DEFINITION. The Path Controller's receive side (07, sections 7.5, 7.6, 7.10 and 7.11). -/

namespace Sys2Proof.Machine

/-! ## What a frame whose fields are taken brings -/

/-- A credit return (R156). -/
def takeCredit (p : Fin 4) (returned : Nat) (s : State) : State :=
  let before := s.paths[p].credit
  if s.paths[p].ceiling < before + returned then
    raise (.creditOverflow p before returned) (s.modPath p fun path => { path with credit := path.ceiling })
  else s.modPath p fun path => { path with credit := before + returned }

/-- How many of the oldest entries make up so many cells exactly (R157). -/
def entriesFor : Nat → List RetryEntry → Option Nat
  | 0, _ => some 0
  | _ + 1, [] => none
  | n + 1, e :: rest =>
    if n + 1 < e.contents.cells then none else (entriesFor (n + 1 - e.contents.cells) rest).map (· + 1)

/-- So many of the oldest entries are freed (R157). -/
def freeEntries (count : Nat) (pointer : Pointer) (path : Path) : Path :=
  let retry := path.retry.drop count
  { path with
    retry := retry
    acked := pointer
    retryCount := 0
    ackDeadline := deadlineOf retry path.ackTimeout
    replay := path.replay.map fun place => place - count }

/-- An ack pointer (R157); one above 511 lies outside the unacknowledged span (R208). It can take a drained path DOWN
(notes/assumptions/25.md). -/
def takeAck (p : Fin 4) (pointer : Nat) (s : State) : State :=
  let path := s.paths[p]
  let bad := raise (.badAck p pointer path.acked (cellsHeld path.retry)) s
  if 511 < pointer then bad
  else
    let d := (pointer + 512 - path.acked.toNat) % 512
    if d = 0 then s
    else
      match entriesFor d path.retry with
      | none => bad
      | some count => settleStates p (s.modPath p (freeEntries count (BitVec.ofNat 9 pointer)))

/-- The test of a RETRY_REQUEST flag (R159). The flag is stored after the test in every state, as R159 says, also when the
test or the ack before it has taken the path DOWN, where R162 has just cleared it: home requesting retry can then be yes
in DOWN, until PROBE clears it (notes/assumptions/25.md). -/
def testRetry (p : Fin 4) (requested : Bool) (s : State) : State :=
  let path := s.paths[p]
  let s :=
    if requested && !path.homeRetry && (path.state == .carry || path.state == .drain) then
      triggerRetry p .retryRequest s
    else s
  s.modPath p fun path => { path with homeRetry := requested }

/-- A taken sequenced frame: the expected receive pointer and the unreturned credits (R169, step 4; R172). -/
def takeCells (p : Fin 4) (cells : Nat) (s : State) : State :=
  let s := s.modPath p fun path =>
    { path with
      expected := path.expected + BitVec.ofNat 9 cells
      creditTimer := if path.unreturned = 0 then some (s.now + 5 * millisecond) else path.creditTimer
      creditFired := path.creditFired && path.unreturned != 0
      unreturned := path.unreturned + cells }
  let waits := s.paths[p].control.any fun f => match f with
    | .credit _ => true
    | .hello _ | .retryMark _ | .close => false
  if 32 ≤ s.paths[p].unreturned ∧ waits = false then queueControl p (.credit false) s else s

/-! ## Bad frames (R166, R167) -/

/-- A frame is discarded (R165). -/
def rejectFrame (p : Fin 4) (s : State) : State :=
  s.modPath p fun path => { path with framesRejected := path.framesRejected + 1 }

/-- A CREDIT frame with RETRY_REQUEST joins the control queue (R166, R167). -/
def askRetry (p : Fin 4) (s : State) : State :=
  queueControl p (.credit true) (s.modPath p fun path => { path with requestQueued := some s.now })

/-- A bad frame with the receive-error flag clear (R166). -/
def badFrame (p : Fin 4) (cause : ReceiveCause) (s : State) : State :=
  let s := (rejectFrame p s).modPath p fun path => { path with receiveError := true }
  raise (.receiveError p cause) (askRetry p s)

/-- A frame while the receive-error flag is set (R167). -/
def receiveInError (p : Fin 4) (f : HomeFrame) (s : State) : State :=
  let control := isControlKind f.kind
  if !f.lengthOk || f.crc == .bad || (f.crc == .poisoned && control) then rejectFrame p s
  else if f.kind = kindRetryMark then
    let s := s.modPath p fun path => { path with receiveError := false, requestQueued := none }
    testRetry p f.retryRequest (takeAck p f.ackPointer (takeCredit p f.creditReturn s))
  else
    let s := rejectFrame p s
    let s := if control then takeCredit p f.creditReturn s else s
    testRetry p f.retryRequest (takeAck p f.ackPointer s)

/-! ## Dispatch (R170, R171, R208) -/

/-- A good sequenced frame (R170). -/
def dispatchSequenced (p : Fin 4) (f : HomeFrame) (s : State) : State :=
  if f.kind = kindReturnAudio then returnFrame p f.stream f.sequence f.payload s
  else if f.kind = kindClipConfirm ∧ 4 ≤ f.count then
    confirmClip p (field f.payload 0 2) (BitVec.ofNat 16 (field f.payload 2 2)) s
  else if f.kind = kindHomeMessage then raise (.homeMessage p f.count f.payload) s
  else raise (.unknownKind p f.kind) s

/-- CLOSE from home (R171). -/
def homeClose (p : Fin 4) (s : State) : State :=
  match s.paths[p].state with
  | .carry => changeState p .drain .homeClose none s
  | .recover => s.modPath p fun path => { path with closePending := true }
  | .down | .probe | .drain => s

/-- A good control frame (R171). -/
def dispatchControl (p : Fin 4) (f : HomeFrame) (s : State) : State :=
  if f.kind = kindClose then homeClose p s
  else if f.kind = kindHello then raise (.unexpectedKind p f.kind) s
  else if f.kind = kindHelloReply then
    (if f.count < 2 then raise (.unknownKind p f.kind) s else raise (.unexpectedKind p f.kind) s)
  else s

/-! ## Checks (R165, R168, R169) -/

/-- Steps 1 to 3 of R169. -/
def takeFields (p : Fin 4) (f : HomeFrame) (s : State) : State :=
  testRetry p f.retryRequest (takeAck p f.ackPointer (takeCredit p f.creditReturn s))

/-- A frame with the receive-error flag clear (R165). Its steps go on when one of them has taken the path DOWN
(notes/assumptions/25.md). -/
def receiveChecked (p : Fin 4) (f : HomeFrame) (s : State) : State :=
  let path := s.paths[p]
  if !f.lengthOk then badFrame p .length s
  else if f.crc = .bad then badFrame p .crc s
  else if isControlKind f.kind then
    (if f.crc = .poisoned then badFrame p .crc s else dispatchControl p f (takeFields p f s))
  else if f.sendPointer ≠ path.expected.toNat then badFrame p .pointer s
  else if 256 < path.unreturned + f.cells then badFrame p .overrun s
  else
    let s := takeCells p f.cells (takeFields p f s)
    if f.crc = .poisoned then raise (.poisonReceived p f.kind f.sendPointer) s else dispatchSequenced p f s

/-- A frame in PROBE: a HELLO_REPLY alone is handled (R151, R164). -/
def receiveInProbe (p : Fin 4) (f : HomeFrame) (s : State) : State :=
  if f.kind ≠ kindHelloReply ∨ f.lengthOk = false ∨ f.crc ≠ .whole ∨ f.count < 2 then s
  else
    let ceiling := field f.payload 0 2
    if ceiling < 16 ∨ 4095 < ceiling then raise (.badHello p ceiling) s
    else
      let s := s.modPath p fun path =>
        { path with
          ceiling := ceiling
          credit := ceiling
          allowance := s.alloc.pathRate[p]
          helloDue := none }
      changeState p .carry .helloReply none s

/-- A frame from home by the state of its path (R164). -/
def receiveFrame (p : Fin 4) (f : HomeFrame) (s : State) : State :=
  match s.paths[p].state with
  | .down => s
  | .probe => receiveInProbe p f s
  | .carry | .recover | .drain =>
    let s := s.modPath p fun path => { path with framesReceived := path.framesReceived + 1 }
    if s.paths[p].receiveError then receiveInError p f s else receiveChecked p f s

/-- The frames that have arrived whole, at most so many: a head whose length fields disagree takes one cell (R165). -/
def receiveLoop (p : Fin 4) : Nat → State → State
  | 0, s => s
  | n + 1, s =>
    let bytes := s.paths[p].arriving
    let size := if lengthsAgree bytes then 32 * headCells bytes else 32
    if bytes.length < 32 ∨ bytes.length < size then s
    else
      let frame := readHomeFrame (bytes.take (32 * headCells bytes))
      receiveLoop p n (receiveFrame p frame (s.modPath p fun path => { path with arriving := path.arriving.drop size }))

/-- Cells arrive on a path; a path in DOWN discards them (R164, R165). -/
def receiveCells (p : Fin 4) (cells : List Byte) (s : State) : State :=
  if s.paths[p].state = .down then s
  else
    let s := s.modPath p fun path => { path with arriving := path.arriving ++ cells }
    receiveLoop p (s.paths[p].arriving.length / 32) s

end Sys2Proof.Machine
end

