-- ==== Sys2Proof/Machine/Ticks.lean ====
section
/-! DEFINITION. The Reference Timing Unit (01): the cue list, the picture tick with all that handles it, the reference
input and the timing requests. -/

namespace Sys2Proof.Machine

/-! ## The cue list (R7 to R11) -/

/-- Inserts an item before the first whose key is not smaller. -/
def insertByKey {α : Type} (key : α → Nat) (x : α) : List α → List α
  | [] => [x]
  | y :: rest => if key x ≤ key y then x :: y :: rest else y :: insertByKey key x rest

/-- A list in ascending order of keys; items of equal keys keep their order. -/
def sortByKey {α : Type} (key : α → Nat) (items : List α) : List α := items.foldr (insertByKey key) []

/-- The distance of a cue from the timecode now (01, section 1.1). -/
def State.cueDistance (s : State) (c : Cue) : Nat := distance s.timing.rate s.timing.timecode c.target

/-- The cues in list order: by distance, then by insertion (01, section 1.5). -/
def State.cuesInOrder (s : State) : List Cue := sortByKey s.cueDistance s.timing.cues

/-- A cue is late when its distance is D/2 or more (R10). -/
def State.cueLate (s : State) (c : Cue) : Bool := decide (dayLength s.timing.rate / 2 ≤ s.cueDistance c)

/-- The action of a cue, as the matching request would do it (R11). -/
def performAction (due : Vector Staged 6) (action : CueAction) (body : List Byte) (s : State) : Reply × State :=
  if !actionLengthOk action body then refuse .badLength s
  else
    match action with
    | .coderSet => coderSet due body s
    | .sceneRecall => sceneRecall body s
    | .clipOpen => clipOpen .cue body s
    | .clipClose => clipClose .cue body s
    | .clipMark => clipMark body s

/-- A cue fires: it leaves the list, acts, and is reported (R10, R11). -/
def fireCue (due : Vector Staged 6) (outcome : CueOutcome) (s : State) (c : Cue) : State :=
  let s := s.modTiming fun t => { t with cues := t.cues.filter fun d => d.id != c.id }
  let (reply, s) := performAction due c.action c.body s
  raise (.cue c.id c.action outcome c.target reply.code) s

/-- The cues that fire at a tick: late ones first, in ascending order of distance, then those on time (R10). -/
def fireCues (due : Vector Staged 6) (s : State) : State :=
  let late := s.cuesInOrder.filter s.cueLate
  let onTime := s.cuesInOrder.filter fun c => s.cueDistance c == 0
  onTime.foldl (fireCue due .onTime) (late.foldl (fireCue due .late) s)

/-- CUE_ADD (R7). -/
def cueAdd (body : List Byte) (s : State) : Reply × State :=
  let target := timecodeField body 0
  match actionOf (field body 4 1) with
  | none => refuse .badValue s
  | some action =>
    if !actionLengthOk action (body.drop 5) then refuse .badLength s
    else if !validTimecode s.timing.rate target then refuse .badValue s
    else
      let d := distance s.timing.rate s.timing.timecode target
      if d = 0 ∨ dayLength s.timing.rate / 2 ≤ d then refuse .badValue s
      else
        match (List.finRange 16).find? fun i => !s.timing.cues.any fun c => c.id == i with
        | none => refuse .noRoom s
        | some id =>
          answerOk (.cueId id) (s.modTiming fun t => { t with cues := t.cues ++ [⟨id, target, action, body.drop 5⟩] })

/-- CUE_CANCEL (R8). -/
def cueCancel (body : List Byte) (s : State) : Reply × State :=
  match finOf 16 (field body 0 1) with
  | none => refuse .badValue s
  | some id =>
    if s.timing.cues.any fun c => c.id == id then
      answerOk .none (s.modTiming fun t => { t with cues := t.cues.filter fun c => c.id != id })
    else refuse .notFound s

/-- CUE_LIST (R9). -/
def cueList (_body : List Byte) (s : State) : Reply × State :=
  answerOk (fitEntries .cues (s.cuesInOrder.map fun c => (c, s.cueDistance c))) s

/-! ## Setting the timecode and the rate -/

/-- SET_TIMECODE (R5). -/
def setTimecode (body : List Byte) (s : State) : Reply × State :=
  let t := timecodeField body 0
  if validTimecode (s.timing.stagedRate.getD s.timing.rate) t then
    answerAccepted .none (s.modTiming fun r => { r with stagedTimecode := some t })
  else refuse .badValue s

/-- SET_REFERENCE (R6). -/
def setReference (body : List Byte) (s : State) : Reply × State :=
  match rateOfNumber (field body 0 1) with
  | none => refuse .badValue s
  | some p =>
    if p = s.timing.rate then answerOk .none (s.modTiming fun r => { r with stagedRate := none })
    else answerAccepted .none (s.modTiming fun r => { r with stagedRate := some p })

/-! ## The picture tick (R3, R4, R6) -/

/-- The FF of a timecode clamped to a rate (R3). -/
def clampFrames (p : PictureRate) (t : Timecode) : Timecode := { t with ff := min t.ff (perSecond p - 1) }

/-- The timecode that the next tick carries when none is staged: advanced by one, and clamped to a rate that takes
(R3). -/
def Timing.advanced (t : Timing) : Timecode :=
  match t.stagedRate with
  | some p => clampFrames p (nextTimecode t.rate t.timecode)
  | none => nextTimecode t.rate t.timecode

/-- The timecode and the rate of the tick are fixed (R3, R5, R6). A staged timecode takes as it is when no rate takes, also
one whose FF was checked against a staged rate that SET_REFERENCE has removed since (notes/assumptions/35.md). -/
def takeTimecode (s : State) : State :=
  let advanced := s.timing.advanced
  let staged := s.timing.stagedTimecode
  let taken := match staged, s.timing.stagedRate with
    | some t, some p => clampFrames p t
    | some t, none => t
    | none, _ => advanced
  let s := s.modTiming fun t =>
    { t with
      timecode := taken
      rate := t.stagedRate.getD t.rate
      stagedTimecode := none
      stagedRate := none
      lastTick := s.now }
  if staged.isSome then raise (.timecodeTaken advanced taken) s else s

/-- A rate takes: every cue is removed, and both are reported (R6), before the channels report what the take does to
them (notes/assumptions/14.md). -/
def takeRate (old : PictureRate) (s : State) : State :=
  let count := s.timing.cues.length
  let s := raise (.cuesCleared count) (s.modTiming fun t => { t with cues := [] })
  raise (.rateTaken old s.timing.rate s.timing.timecode) s

/-- The order used for agents that a free order does not name. -/
def defaultOrder : List TickAgent :=
  [.coder 0, .coder 1, .coder 2, .coder 3, .coder 4, .coder 5, .scheduler, .mixer]

/-- The order of the agents at this tick: the free value's, each agent once, and then those it does not name
(R19, notes/assumptions/3.md). -/
def State.tickOrder (s : State) : List TickAgent := ((s.tickOrders.head?.getD []) ++ defaultOrder).eraseDups

/-- One agent handles the tick; `due` are the changes staged before it, `changes` counts those that were on the mixer's
change list (R11, R19, R129). -/
def agentTick (due : Vector Staged 6) (changes : Nat) (rateTaken : Bool) (s : State) : TickAgent → State
  | .coder c => if rateTaken then coderRateTake c due[c] s else coderTick c due[c] s
  | .scheduler => schedulerTick s
  | .mixer => blockTick changes s

/-- One agent handles the tick, and the frames that this lets start are started (R175, R180). -/
def agentTurn (due : Vector Staged 6) (changes : Nat) (rateTaken : Bool) (s : State) (agent : TickAgent) : State :=
  serve (agentTick due changes rateTaken s agent)

/-- A picture still in flight ends before the next tick (R34). -/
def endPictures (s : State) : State :=
  if s.coders.any fun k => k.inFlight.isSome then
    serve ((List.finRange 6).foldl (fun s c => pictureCodedEvent c s) s)
  else s

/-- The picture of the new period has not been handed over, and what was staged before the tick is due at it. -/
def beginPeriod (s : State) : State :=
  { s with coders := vecMap (fun k : CoderChannel => { k with handed := false, staged := Staged.empty }) s.coders }

/-- A picture tick (R3), at the time now. -/
def pictureTick (s : State) : State :=
  let s := endPictures s
  let due := vecMap (fun k : CoderChannel => k.staged) s.coders
  let changes := s.mixer.changes.length
  let oldRate := s.timing.rate
  let rateTaken := s.timing.stagedRate.isSome
  let s := takeTimecode (beginPeriod s)
  let s := if rateTaken then takeRate oldRate s else fireCues due s
  let order := s.tickOrder
  order.foldl (agentTurn due changes rateTaken) { s with tickOrders := s.tickOrders.drop 1 }

/-! ## The reference input and the oscillator (R1, R2) -/

/-- A pulse in FREE or HOLDOVER (R1). -/
def relock (s : State) : State :=
  let half := decide (period s.timing.rate ≤ 2 * (s.now - s.timing.lastTick))
  let previous := s.timing.refState
  let s := s.modTiming fun t => { t with refState := .locked, lastPulse := some s.now }
  let s := raise (.refLocked previous) s
  if half then pictureTick s else s

/-- A pulse in LOCKED: accepted inside the window, else ignored (R2). -/
def pulseLocked (s : State) : State :=
  match s.timing.lastPulse with
  | none => s
  | some last =>
    let passed := s.now - last
    if 7 * period s.timing.rate ≤ 8 * passed ∧ 2 * passed ≤ 3 * period s.timing.rate then
      pictureTick (s.modTiming fun t => { t with lastPulse := some s.now })
    else s

/-- A reference pulse (R1, R2). -/
def referencePulse (s : State) : State :=
  match s.timing.refState with
  | .locked => pulseLocked s
  | .free | .holdover => relock s

/-- The loss window expires (R2). -/
def lossExpiry (s : State) : State :=
  match s.timing.refState, s.timing.lastPulse with
  | .locked, some last =>
    let s := (s.passTo (last + 3 * period s.timing.rate / 2)).modTiming fun t =>
      { t with refState := .holdover, lastPulse := none }
    raise .refLost (pictureTick s)
  | _, _ => s

/-- The oscillator's period expires (R1, R2). -/
def oscillatorTick (s : State) : State :=
  match s.timing.refState with
  | .locked => s
  | .free | .holdover => pictureTick (s.passTo (s.timing.lastTick + period s.timing.rate))

end Sys2Proof.Machine
end

