-- ==== Sys2Proof/Machine/Control.lean ====
section
/-! DEFINITION. The Control Port (09): the receiver, the request queue, the execution of a request, notices, STATUS and
RESET with all that it does. -/

namespace Sys2Proof.Machine

/-! ## Receiving (R194, R195) -/

/-- A request arrives at the request queue (R195); while a RESET waits for its reply it is discarded (R203). -/
def arrive (kind tag : Byte) (body : List Byte) (c : Control) : Control :=
  if c.resetPending.isSome then c
  else if c.queue.length < 4 then { c with queue := c.queue ++ [⟨kind, tag, body, .waiting⟩] }
  else busyReply tag kind c
where
  /-- A BUSY reply joins the BUSY list, or the request is lost. The counter of lost requests is taken to wrap to 0 after
  4,294,967,295 (notes/assumptions/57.md). -/
  busyReply (tag kind : Byte) (c : Control) : Control :=
    if c.busy.length < 8 then { c with busy := c.busy ++ [(tag, kind)] }
    else { c with requestLost := true, requestsLost := c.requestsLost + 1 }

/-- The bytes in hand, searched from their first byte, at most so many times (R194). Every request found arrives before any
is executed (notes/assumptions/45.md). -/
def receiveBytes : Nat → List Byte → Control → Control
  | 0, bytes, c => { c with receiver := bytes }
  | n + 1, bytes, c =>
    match bytes with
    | [] => { c with receiver := [] }
    | b :: rest =>
      if b ≠ 0xC5 then receiveBytes n rest { c with frameError := true }
      else if bytes.length < 3 then { c with receiver := bytes }
      else
        let length := field bytes 1 2
        let bad := { c with frameError := true, framesDiscarded := c.framesDiscarded + 1 }
        if length < 2 ∨ 1022 < length then receiveBytes n rest bad
        else if bytes.length < length + 5 then { c with receiver := bytes }
        else if crc16 ((bytes.drop 1).take (length + 2)) = BitVec.ofNat 16 (field bytes (length + 3) 2) then
          receiveBytes n (bytes.drop (length + 5))
            (arrive (byteOf (field bytes 3 1)) (byteOf (field bytes 4 1)) ((bytes.drop 5).take (length - 2)) c)
        else receiveBytes n rest bad

/-- Bytes from the line (R194). -/
def lineBytes (bytes : List Byte) (c : Control) : Control :=
  let all := c.receiver ++ bytes
  receiveBytes (all.length + 1) all c

/-! ## Execution (R196) -/

/-- The WAITING entry nearest the front (R196). -/
def firstWaiting : List Entry → Option Entry
  | [] => none
  | e :: rest => if e.status = .waiting then some e else firstWaiting rest

/-- The WAITING entry nearest the front becomes READY with its reply. -/
def answerFirst (reply : Reply) : List Entry → List Entry
  | [] => []
  | e :: rest => if e.status = .waiting then { e with status := .ready reply } :: rest else e :: answerFirst reply rest

/-- The next queued request, when it is of the given kind, is executed: its length is checked, and its owner carries it
out (R196). Otherwise nothing happens (notes/assumptions/8.md). -/
def runRequest (kind : RequestKind) (owner : List Byte → State → Reply × State) (s : State) :
    Host.Outcome State Fault Refusal :=
  match firstWaiting s.control.queue with
  | none => finish s
  | some e =>
    if requestOfKind e.kind = some kind then
      let (reply, s) := if lengthOk kind e.body then owner e.body s else refuse .badLength s
      finish (s.modControl fun c => { c with queue := answerFirst reply c.queue })
    else finish s

/-- An owner whose request may let frames start: the scheduler goes on once it has been carried out (R180). -/
def thenServe (owner : List Byte → State → Reply × State) (body : List Byte) (s : State) : Reply × State :=
  let (reply, s') := owner body s
  match reply.code with
  | .ok | .accepted => (reply, serve s')
  | .busy | .badKind | .badLength | .badValue | .badState | .noRoom | .notFound | .notReady => (reply, s')

/-- An owner whose request makes the checks of a waiting clip again (R187). -/
def thenCheck (owner : List Byte → State → Reply × State) (body : List Byte) (s : State) : Reply × State :=
  let (reply, s') := owner body s
  match reply.code with
  | .ok | .accepted => (reply, serve (waitChecks s'))
  | .busy | .badKind | .badLength | .badValue | .badState | .noRoom | .notFound | .notReady => (reply, s')

/-- The next queued request, when its kind names no request, is answered BAD_KIND (R196). -/
def runUnknown (s : State) : Host.Outcome State Fault Refusal :=
  match firstWaiting s.control.queue with
  | none => finish s
  | some e =>
    match requestOfKind e.kind with
    | some _ => finish s
    | none => finish (s.modControl fun c => { c with queue := answerFirst ⟨.badKind, .none⟩ c.queue })

/-! ## NOTICE_SET and STATUS -/

/-- NOTICE_SET (R199). -/
def noticeSet (body : List Byte) (s : State) : Reply × State :=
  if 2048 ≤ field body 0 2 then refuse .badValue s
  else
    let mask := BitVec.ofNat 11 (field body 0 2)
    answerOk (.mask mask) <| s.modControl fun c =>
      { c with mask := mask, notices := c.notices.filter fun n => noticeEnabled mask n.body }

/-- What STATUS reports (R13, R202). -/
def State.statusReport (s : State) : StatusReport where
  refState := s.timing.refState
  rate := s.timing.rate
  timecode := s.timing.timecode
  blockNumber := s.timing.blockNumber
  stagedTimecode := s.timing.stagedTimecode
  stagedRate := s.timing.stagedRate
  cueCount := s.timing.cues.length
  storeState := s.store.state
  initPosition := s.store.initPosition
  pageCount := s.store.pageCount
  pages := s.pageCounts
  pathStates := vecMap (fun p : Path => p.state) s.paths
  modes := vecMap (fun k : CoderChannel => k.mode) s.coders
  frameError := s.control.frameError
  noticeOverrun := s.control.noticeOverrun
  requestLost := s.control.requestLost
  mask := s.control.mask
  notices := s.control.notices.length
  framesDiscarded := s.control.framesDiscarded
  requestsLost := s.control.requestsLost
  metersDropped := s.control.metersDropped
  noticesLost := s.control.noticesLost
  lastReset := s.control.lastReset

/-- STATUS (R202): the three flags are cleared after they have been read. -/
def statusRequest (_body : List Byte) (s : State) : Reply × State :=
  answerOk (.status s.statusReport) <| s.modControl fun c =>
    { c with frameError := false, noticeOverrun := false, requestLost := false }

/-! ## RESET (R203 to R205) -/

/-- The scope of a value (Table 10-2). -/
def scopeOf : Nat → Option Scope
  | 1 => some .full
  | 2 => some .keepStore
  | _ => none

/-- The entries up to and including the first WAITING one, and those behind it. -/
def splitWaiting : List Entry → List Entry × List Entry
  | [] => ([], [])
  | e :: rest =>
    if e.status = .waiting then ([e], rest)
    else
      let (kept, behind) := splitWaiting rest
      (e :: kept, behind)

/-- RESET (R203): the requests behind it are answered BUSY, and the reset waits for its reply to leave. -/
def resetRequest (body : List Byte) (s : State) : Reply × State :=
  match scopeOf (field body 0 1) with
  | none => refuse .badValue s
  | some scope =>
    answerOk (.scope scope) <| s.modControl fun c =>
      let (kept, behind) := splitWaiting c.queue
      behind.foldl (fun c e => arrive.busyReply e.tag e.kind c) { c with queue := kept, resetPending := some scope }

/-- The state after power-on or RESET FULL (Table 9-7): time goes on, and the attached DRAM is not touched
(notes/assumptions/7.md). -/
def fullReset (straps : Straps) (cause : LastReset) (s : State) : State where
  now := s.now
  straps := straps
  timing := resetTiming straps s.now
  ports := Vector.replicate 8 resetPort
  coders := Vector.ofFn resetCoder
  alloc := resetAllocation
  store := resetStore straps s.now s.store.dram s.store.lineErrors
  clipLog := resetClipLog
  mixer := resetMixer
  paths := Vector.replicate 4 resetPath
  sched := resetScheduler
  control := resetControl cause
  freeReads := s.freeReads
  tickOrders := s.tickOrders
  pending := s.pending

/-- A COMPLETE segment's pin count after the clips were trimmed (R91). -/
def recountPins (clips : List Clip) (g : Segment) : Segment :=
  { g with pinCount := (clips.filter fun c => c.range.contains g.id).length }

/-- The store after RESET KEEP_STORE, given the clips that are kept (R91). The wait for the next patrol read starts again
(notes/assumptions/36.md). -/
def keepStore (clips : List Clip) (now : Time) (st : Store) : Store :=
  let recounted := st.segments.map (recountPins clips)
  let keeps := fun g : Segment => g.state == .complete && decide (0 < g.pinCount)
  let kept := recounted.filter keeps
  let freed := recounted.filter fun g => !keeps g
  let isKept := fun id => kept.any fun g => g.id == id
  let retired := (freed.flatMap fun g => g.pages.filter g.badPages.contains).foldl
    (fun pages page => insertAscending page pages) st.retired
  { st with
    freePool := (List.range st.initPosition).filter fun page =>
      !retired.contains page && !kept.any fun g => g.pages.contains page
    retired := retired
    completion := st.completion.filter isKept
    segments := kept
    timelines := vecMap (fun line => line.filter isKept) st.timelines
    writers := Vector.replicate 6 resetWriter
    patrolInterval := 20
    patrolPosition := 0
    patrolDue := now + 20 * millisecond
    demandCorrected := 0
    patrolCorrected := 0
    uncorrectable := 0
    reclaimed := 0
    pagesRetired := 0
    unstored := 0 }

/-- The state after RESET KEEP_STORE (Table 9-7): the Clip Log trims its clips before the store frees its unpinned
segments (R91, R121). -/
def keepStoreReset (s : State) : State :=
  let log := keepClips s
  { fullReset s.straps .keepStore s with store := keepStore log.clips s.now s.store, clipLog := log }

/-- The reset acts on every block at one moment (R205). -/
def resetAct (scope : Scope) (s : State) : State :=
  match scope with
  | .full => fullReset s.straps .full s
  | .keepStore => keepStoreReset s

/-! ## The end of a frame on the line (R197, R203) -/

/-- The last byte of the frame being sent is handed to the line. -/
def lineFrameEnd (s : State) : State :=
  match s.control.transmitter with
  | none => s
  | some (.busy _ _) | some (.notice _) => s.modControl fun c => { c with transmitter := none }
  | some (.reply _ _ reply) =>
    let s := s.modControl fun c => { c with transmitter := none, queue := c.queue.drop 1 }
    match reply.code, reply.contents with
    | .ok, .scope scope => resetAct scope s
    | _, _ => s

end Sys2Proof.Machine
end

