-- ==== Sys2Proof/WellFormed.lean ====
section
/-! DEFINITION. Which terms of `Instr` are commands the pins of the part can carry. Numbers of ports, paths and
channels are in range by their types. -/

namespace Sys2Proof

/-- Lines and luma columns of a format (R14). -/
def Format.lines : Format → Nat
  | .f1080 => 1080
  | .f720 => 720

/-- Luma samples in a line of a format; half as many of each chroma component (02, section 2.1). -/
def Format.columns : Format → Nat
  | .f1080 => 1920
  | .f720 => 1280

/-- A plane of so many lines of so many samples. -/
def planeHasSize (plane : List (List Pixel)) (lines columns : Nat) : Bool :=
  plane.length == lines && plane.all (fun row => row.length == columns)

/-- The three planes have the size of the picture's format (02, section 2.1). -/
def Picture.wellFormed (p : Picture) : Bool :=
  planeHasSize p.luma p.format.lines p.format.columns
    && planeHasSize p.cb p.format.lines (p.format.columns / 2)
    && planeHasSize p.cr p.format.lines (p.format.columns / 2)

/-- Well-formed commands: whole pictures (another picture of the right count of lines is held with free samples,
notes/assumptions/18.md), whole cells, at least one byte, at least one bit of one line of a page,
clip ids 1..65535. -/
def Instr.wellFormed : Instr → Bool
  | .videoPictureComplete _ _ picture => picture.wellFormed
  | .demandReadEnd _ clip => 1 ≤ clip && clip ≤ 65535
  | .confirmTimeout clip => 1 ≤ clip && clip ≤ 65535
  | .homeFrameReceived _ _ cells => cells != [] && cells.length % 32 == 0
  | .requestArrival _ bytes => bytes != []
  | .badControlFrame _ bytes => bytes != []
  | .memoryError _ _ line bits => decide (line < 1024) && bits != []
  | .powerOn _ | .referencePulse _ | .lossWindowExpiry | .oscillatorTick | .audioFrameLate | .pictureDeadline _
  | .audioBlockTick | .sceneDone | .meterPeriodEnd | .serialSampleFrame _ _ _ | .embeddedSampleFrame _ _ _ _ _
  | .videoPictureStart _ _ _ _ | .inputLossExpiry _ | .pictureCoded _ _ | .initPage _ | .patrolRead
  | .helloTimeout _ | .ackTimeout _ | .creditTimerExpiry _ | .retryRequestRepeat _ | .pathFrameEnd _ _
  | .unknownRequestKind | .controlFrameEnd _ | .setTimecode | .setReference | .cueAdd | .cueCancel | .cueList
  | .inputInfo | .coderSet | .coderInfo | .pathRate | .clipShare | .budgetInfo | .storeSet | .storeInfo
  | .segmentInfo | .timelineInfo | .clipOpen | .clipClose | .clipMark | .clipLabel | .clipRate | .clipSend
  | .clipHold | .clipRelease | .clipDiscard | .clipTimeout | .clipInfo | .clipList | .embedSet | .busSet
  | .channelSet | .sendSet | .sceneStore | .sceneRecall | .outputSet | .meterSet | .returnSet | .streamSet
  | .mixerInfo | .pathOpen | .pathClose | .pathSet | .pathInfo | .sendInfo | .noticeSet | .status | .reset => true

end Sys2Proof
end

