-- ==== Sys2Proof/Machine/Events.lean ====
section
/-! DEFINITION. The meanings of the events: power, the reference, timers, media, store, paths and the control line. One
definition for each row of the table that is not a request. An expiry whose deadline is absent has no effect
(notes/assumptions/2.md). -/

namespace Sys2Proof.Machine

/-- The outcome type of a command. -/
abbrev Result := Host.Outcome State Fault Refusal

/-! ## Power and time -/

/-- POWER_ON (R205, Table 9-7): the straps are read. -/
def execPowerOn (straps : Straps) (s : State) : Result := finish (fullReset straps .powerOn s)

/-- REFERENCE_PULSE (R1, R2). -/
def execReferencePulse (elapsed : Time) (s : State) : Result := finish (referencePulse (s.elapse elapsed))

/-- LOSS_WINDOW_EXPIRY (R2). -/
def execLossWindowExpiry (s : State) : Result := finish (lossExpiry s)

/-- OSCILLATOR_TICK (R1, R3). -/
def execOscillatorTick (s : State) : Result := finish (oscillatorTick s)

/-- AUDIO_BLOCK_TICK (R4, R128): 1/3000 s after the block tick before. -/
def execAudioBlockTick (s : State) : Result :=
  finish (serve (blockTick s.mixer.changes.length (s.passTo (s.timing.lastBlock + blockSpacing))))

/-- AUDIO_FRAME_LATE (R176): frames two ticks old leave the queue. A picture tick has already removed them
(notes/assumptions/12.md). -/
def execAudioFrameLate (s : State) : Result := finish (audioExpiry s)

/-- PICTURE_DEADLINE (R178): pictures at their deadline tick are dropped. A picture tick has already dropped them
(notes/assumptions/12.md). -/
def execPictureDeadline (channel : Fin 6) (s : State) : Result := finish (pictureExpiry channel s)

/-- SCENE_DONE (R132): the recall that has reached step R ends. The block tick at which it does has already ended it
(notes/assumptions/12.md). -/
def execSceneDone (s : State) : Result := finish (finishRecall s)

/-- METER_PERIOD_END (R135): the meter period that has been reached ends. The block tick at which it is reached has
already ended it (notes/assumptions/12.md). -/
def execMeterPeriodEnd (s : State) : Result := finish (endMeterPeriod s)

/-! ## Media -/

/-- SERIAL_SAMPLE_FRAME (R122). -/
def execSerialSampleFrame (elapsed : Time) (port : Fin 3) (samples : Vector Sample 8) (s : State) : Result :=
  finish <| (s.elapse elapsed).modMixer fun m =>
    { m with serial := vecModify m.serial port (joinSamples samples.toList) }

/-- EMBEDDED_SAMPLE_FRAME (R122, R123): a silent selection receives nothing. -/
def execEmbeddedSampleFrame (elapsed : Time) (port : Fin 8) (pair : Fin 4) (left right : Sample) (s : State) : Result :=
  finish <| (s.elapse elapsed).modMixer fun m =>
    { m with embedded := vecMap (fun e : Embedded =>
        if e.port = port ∧ e.pair = pair ∧ s.silent e = false then { e with queue := joinSamples [left, right] e.queue }
        else e) m.embedded }

/-- The format of a count of active lines (R14). -/
def formatOfLines (lines : Nat) : Option Format :=
  if lines = 1080 then some .f1080 else if lines = 720 then some .f720 else none

/-- VIDEO_PICTURE_START (R14, R15): any other line count is not a picture start. -/
def execVideoPictureStart (elapsed : Time) (port : Fin 8) (lines : Nat) (pairs : Vector Bool 4) (s : State) : Result :=
  let s := s.elapse elapsed
  match formatOfLines lines with
  | none => finish s
  | some format =>
    let before := s.ports[port].input
    let s := s.modPort port fun p => { p with lastStart := some s.now, arriving := some ⟨format, pairs, false⟩ }
    let s := if before = .lost then
        portChange port .present (s.modPort port fun p => { p with heldNew := false }) else s
    finish (emptySilent s)

/-- A plane of so many lines of so many samples, each given by its line and its column. -/
def planeOf (lines columns : Nat) (sample : Nat → Nat → Pixel) : List (List Pixel) :=
  (List.range lines).map fun line => (List.range columns).map (sample line)

/-- The picture that a port holds when a picture has arrived whole: as it came when its planes have the size of its
format; else of that format, with free samples, since R14 has the part check the count of lines alone
(notes/assumptions/18.md). -/
def receivedPicture (now : Time) (port : Fin 8) (picture : Picture) : Picture :=
  if picture.wellFormed then picture
  else
    let sample := Config.unstatedSample now port picture
    { format := picture.format
      luma := planeOf picture.format.lines picture.format.columns (sample 0)
      cb := planeOf picture.format.lines (picture.format.columns / 2) (sample 1)
      cr := planeOf picture.format.lines (picture.format.columns / 2) (sample 2) }

/-- VIDEO_PICTURE_COMPLETE (R14, R15): the samples of a picture of any other line count are ignored, and a picture that
is not arriving has been abandoned (notes/assumptions/18.md). -/
def execVideoPictureComplete (elapsed : Time) (port : Fin 8) (picture : Picture) (s : State) : Result :=
  let s := s.elapse elapsed
  match s.ports[port].arriving with
  | none => finish s
  | some a =>
    if a.complete = true ∨ a.format ≠ picture.format ∨ picture.luma.length ≠ picture.format.lines then finish s
    else
      finish <| s.modPort port fun p =>
        { p with
          held := some (receivedPicture s.now port picture)
          heldNew := true
          arriving := some { a with complete := true } }

/-- INPUT_LOSS_EXPIRY (R15): the window is measured in periods of the P in force. -/
def execInputLossExpiry (port : Fin 8) (s : State) : Result :=
  match s.ports[port].lastStart with
  | none => finish s
  | some start =>
    let s := (s.passTo (start + 3 * period s.timing.rate / 2)).modPort port fun p =>
      { p with held := none, heldNew := false, lastStart := none, arriving := none }
    finish (emptySilent (portChange port .lost s))

/-- PICTURE_CODED (R35). -/
def execPictureCoded (elapsed : Time) (channel : Fin 6) (s : State) : Result :=
  finish (serve (pictureCodedEvent channel (s.elapse elapsed)))

/-! ## Store -/

/-- INIT_PAGE (R65). -/
def execInitPage (elapsed : Time) (s : State) : Result := finish (initialisePage (s.elapse elapsed))

/-- PATROL_READ (R83, R84). -/
def execPatrolRead (s : State) : Result := finish (serve (patrolRead (s.passTo s.store.patrolDue)))

/-- DEMAND_READ_END (R81, R184): the oldest read in progress for the clip ends. -/
def execDemandReadEnd (elapsed : Time) (clip : Nat) (s : State) : Result :=
  let s := s.elapse elapsed
  match s.sched.reads.find? fun r => r.clip == clip with
  | none => finish s
  | some r => finish (serve (endRead r s))

/-- MEMORY_ERROR (R80): bits of a line fall into error. -/
def execMemoryError (elapsed : Time) (page line : Nat) (bits : List Nat) (s : State) : Result :=
  if s.store.pageCount ≤ page ∨ pageSize / lineSize ≤ line then .fault (.noSuchLine page line)
  else if bits.isEmpty then finish (s.elapse elapsed)
  else
    finish <| (s.elapse elapsed).modStore fun st =>
      { st with lineErrors := addLineErrors (page * (pageSize / lineSize) + line) bits st.lineErrors }

/-! ## Clips and paths -/

/-- CONFIRM_TIMEOUT (R115). -/
def execConfirmTimeout (clip : Nat) (s : State) : Result :=
  match (s.clip? clip).filter fun c => c.send == .awaitConfirm with
  | none => finish s
  | some c =>
    match c.confirmDeadline with
    | none => finish s
    | some t => finish (serve (endWait clip .timeout (s.passTo t)))

/-- HOME_FRAME_RECEIVED (R164, R165). -/
def execHomeFrameReceived (elapsed : Time) (path : Fin 4) (cells : List Byte) (s : State) : Result :=
  finish (serve (receiveCells path cells (s.elapse elapsed)))

/-- HELLO_TIMEOUT (R150). -/
def execHelloTimeout (path : Fin 4) (s : State) : Result :=
  match s.paths[path].state, s.paths[path].helloDue with
  | .probe, some t => finish (serve (helloExpired path (s.passTo t)))
  | _, _ => finish s

/-- ACK_TIMEOUT (R158). -/
def execAckTimeout (path : Fin 4) (s : State) : Result :=
  match s.paths[path].ackDeadline with
  | none => finish s
  | some t => finish (serve (ackExpired path (s.passTo t)))

/-- The path exchanges frames of every kind with home (Table 7-4). -/
def Path.exchanges (path : Path) : Bool := path.state == .carry || path.state == .recover || path.state == .drain

/-- CREDIT_TIMER_EXPIRY (R172): a set timer expires once, and stays present while credits are unreturned
(notes/assumptions/22.md). -/
def execCreditTimerExpiry (path : Fin 4) (s : State) : Result :=
  match s.paths[path].creditTimer with
  | none => finish s
  | some t =>
    if s.paths[path].exchanges && !s.paths[path].creditFired then
      let s := (s.passTo t).modPath path fun p => { p with creditFired := true }
      finish (serve (queueControl path (.credit false) s))
    else finish s

/-- RETRY_REQUEST_REPEAT (R167), measured by the ack timeout in force when the expiry is taken
(notes/assumptions/53.md). -/
def execRetryRequestRepeat (path : Fin 4) (s : State) : Result :=
  match s.paths[path].receiveError, s.paths[path].requestQueued with
  | true, some t => finish (serve (askRetry path (s.passTo (t + s.paths[path].ackTimeout * millisecond))))
  | _, _ => finish s

/-- PATH_FRAME_END (R152). -/
def execPathFrameEnd (elapsed : Time) (path : Fin 4) (s : State) : Result :=
  finish (serve (frameEnd path (s.elapse elapsed)))

/-! ## The control line -/

/-- REQUEST_ARRIVAL (R194, R195). -/
def execRequestArrival (elapsed : Time) (bytes : List Byte) (s : State) : Result :=
  finish ((s.elapse elapsed).modControl (lineBytes bytes))

/-- BAD_CONTROL_FRAME (R194). -/
def execBadControlFrame (elapsed : Time) (bytes : List Byte) (s : State) : Result :=
  finish ((s.elapse elapsed).modControl (lineBytes bytes))

/-- UNKNOWN_REQUEST_KIND (R196). -/
def execUnknownRequestKind (s : State) : Result := runUnknown s

/-- CONTROL_FRAME_END (R197, R203). -/
def execControlFrameEnd (elapsed : Time) (s : State) : Result := finish (lineFrameEnd (s.elapse elapsed))

end Sys2Proof.Machine
end

