-- ==== Sys2Proof/Machine/Requests.lean ====
section
/-! DEFINITION. The meanings of the requests (Table 9-5): the execution of the next queued request when it is of the
row's kind (R196, notes/assumptions/8.md). A request that may let a frame start is followed by the scheduler (R180). -/

namespace Sys2Proof.Machine

/-- SET_TIMECODE (R5). -/
def execSetTimecode (s : State) : Result := runRequest .setTimecode setTimecode s

/-- SET_REFERENCE (R6). -/
def execSetReference (s : State) : Result := runRequest .setReference setReference s

/-- CUE_ADD (R7). -/
def execCueAdd (s : State) : Result := runRequest .cueAdd cueAdd s

/-- CUE_CANCEL (R8). -/
def execCueCancel (s : State) : Result := runRequest .cueCancel cueCancel s

/-- CUE_LIST (R9). -/
def execCueList (s : State) : Result := runRequest .cueList cueList s

/-- INPUT_INFO (R16). -/
def execInputInfo (s : State) : Result := runRequest .inputInfo inputInfo s

/-- CODER_SET (R18). -/
def execCoderSet (s : State) : Result := runRequest .coderSet (coderSet noneDue) s

/-- CODER_INFO (R24). -/
def execCoderInfo (s : State) : Result := runRequest .coderInfo coderInfo s

/-- PATH_RATE (R43). -/
def execPathRate (s : State) : Result := runRequest .pathRate pathRate s

/-- CLIP_SHARE (R44). -/
def execClipShare (s : State) : Result := runRequest .clipShare clipShare s

/-- BUDGET_INFO (R55). -/
def execBudgetInfo (s : State) : Result := runRequest .budgetInfo budgetInfo s

/-- STORE_SET (R87). -/
def execStoreSet (s : State) : Result := runRequest .storeSet storeSet s

/-- STORE_INFO (R88). -/
def execStoreInfo (s : State) : Result := runRequest .storeInfo storeInfo s

/-- SEGMENT_INFO (R88). -/
def execSegmentInfo (s : State) : Result := runRequest .segmentInfo segmentInfo s

/-- TIMELINE_INFO (R89). -/
def execTimelineInfo (s : State) : Result := runRequest .timelineInfo timelineInfo s

/-- CLIP_OPEN (R94). -/
def execClipOpen (s : State) : Result := runRequest .clipOpen (clipOpen .request) s

/-- CLIP_CLOSE (R99). -/
def execClipClose (s : State) : Result := runRequest .clipClose (thenServe (clipClose .request)) s

/-- CLIP_MARK (R103). -/
def execClipMark (s : State) : Result := runRequest .clipMark (thenServe clipMark) s

/-- CLIP_LABEL (R105). -/
def execClipLabel (s : State) : Result := runRequest .clipLabel clipLabel s

/-- CLIP_RATE (R106; the checks of a waiting clip are made again (R187)). -/
def execClipRate (s : State) : Result := runRequest .clipRate (thenCheck clipRate) s

/-- CLIP_SEND (R107; the checks of a waiting clip are made again (R187)). -/
def execClipSend (s : State) : Result := runRequest .clipSend (thenCheck clipSend) s

/-- CLIP_HOLD (R110; the checks of a waiting clip are made again (R187)). -/
def execClipHold (s : State) : Result := runRequest .clipHold (thenCheck clipHold) s

/-- CLIP_RELEASE (R111; the checks of a waiting clip are made again (R187)). -/
def execClipRelease (s : State) : Result := runRequest .clipRelease (thenCheck clipRelease) s

/-- CLIP_DISCARD (R112). -/
def execClipDiscard (s : State) : Result := runRequest .clipDiscard (thenServe clipDiscard) s

/-- CLIP_TIMEOUT (R113). -/
def execClipTimeout (s : State) : Result := runRequest .clipTimeout clipTimeout s

/-- CLIP_INFO (R119). -/
def execClipInfo (s : State) : Result := runRequest .clipInfo clipInfo s

/-- CLIP_LIST (R119). -/
def execClipList (s : State) : Result := runRequest .clipList clipList s

/-- EMBED_SET (R123). -/
def execEmbedSet (s : State) : Result := runRequest .embedSet embedSet s

/-- BUS_SET (R125). -/
def execBusSet (s : State) : Result := runRequest .busSet busSet s

/-- CHANNEL_SET (R129). -/
def execChannelSet (s : State) : Result := runRequest .channelSet channelSet s

/-- SEND_SET (R129). -/
def execSendSet (s : State) : Result := runRequest .sendSet sendSet s

/-- SCENE_STORE (R130). -/
def execSceneStore (s : State) : Result := runRequest .sceneStore sceneStore s

/-- SCENE_RECALL (R131). -/
def execSceneRecall (s : State) : Result := runRequest .sceneRecall sceneRecall s

/-- OUTPUT_SET (R134). -/
def execOutputSet (s : State) : Result := runRequest .outputSet outputSet s

/-- METER_SET (R136). -/
def execMeterSet (s : State) : Result := runRequest .meterSet meterSet s

/-- RETURN_SET (R139). -/
def execReturnSet (s : State) : Result := runRequest .returnSet returnSet s

/-- STREAM_SET (R141). -/
def execStreamSet (s : State) : Result := runRequest .streamSet streamSet s

/-- MIXER_INFO (R144). -/
def execMixerInfo (s : State) : Result := runRequest .mixerInfo mixerInfo s

/-- PATH_OPEN (R147). -/
def execPathOpen (s : State) : Result := runRequest .pathOpen (thenServe pathOpen) s

/-- PATH_CLOSE (R148). -/
def execPathClose (s : State) : Result := runRequest .pathClose (thenServe pathClose) s

/-- PATH_SET (R149). -/
def execPathSet (s : State) : Result := runRequest .pathSet (thenServe pathSet) s

/-- PATH_INFO (R173). -/
def execPathInfo (s : State) : Result := runRequest .pathInfo pathInfo s

/-- SEND_INFO (R192). -/
def execSendInfo (s : State) : Result := runRequest .sendInfo sendInfo s

/-- NOTICE_SET (R199). -/
def execNoticeSet (s : State) : Result := runRequest .noticeSet noticeSet s

/-- STATUS (R202). -/
def execStatus (s : State) : Result := runRequest .status statusRequest s

/-- RESET (R203). -/
def execReset (s : State) : Result := runRequest .reset resetRequest s

end Sys2Proof.Machine
end

