-- ==== Sys2Proof/Machine/Dispatch.lean ====
section
/-! DEFINITION. The table of meanings: one arm for each command. -/

namespace Sys2Proof.Machine

def exec (i : Instr) (s : State) : Host.Outcome State Fault Refusal :=
  match i with
  | .powerOn straps => Sys2Proof.Machine.execPowerOn straps s
  | .referencePulse elapsed => Sys2Proof.Machine.execReferencePulse elapsed s
  | .lossWindowExpiry => Sys2Proof.Machine.execLossWindowExpiry s
  | .oscillatorTick => Sys2Proof.Machine.execOscillatorTick s
  | .audioFrameLate => Sys2Proof.Machine.execAudioFrameLate s
  | .pictureDeadline channel => Sys2Proof.Machine.execPictureDeadline channel s
  | .audioBlockTick => Sys2Proof.Machine.execAudioBlockTick s
  | .sceneDone => Sys2Proof.Machine.execSceneDone s
  | .meterPeriodEnd => Sys2Proof.Machine.execMeterPeriodEnd s
  | .serialSampleFrame elapsed port samples => Sys2Proof.Machine.execSerialSampleFrame elapsed port samples s
  | .embeddedSampleFrame elapsed port pair left right => Sys2Proof.Machine.execEmbeddedSampleFrame elapsed port pair left right s
  | .videoPictureStart elapsed port lines pairs => Sys2Proof.Machine.execVideoPictureStart elapsed port lines pairs s
  | .videoPictureComplete elapsed port picture => Sys2Proof.Machine.execVideoPictureComplete elapsed port picture s
  | .inputLossExpiry port => Sys2Proof.Machine.execInputLossExpiry port s
  | .pictureCoded elapsed channel => Sys2Proof.Machine.execPictureCoded elapsed channel s
  | .initPage elapsed => Sys2Proof.Machine.execInitPage elapsed s
  | .patrolRead => Sys2Proof.Machine.execPatrolRead s
  | .demandReadEnd elapsed clip => Sys2Proof.Machine.execDemandReadEnd elapsed clip s
  | .homeFrameReceived elapsed path cells => Sys2Proof.Machine.execHomeFrameReceived elapsed path cells s
  | .confirmTimeout clip => Sys2Proof.Machine.execConfirmTimeout clip s
  | .helloTimeout path => Sys2Proof.Machine.execHelloTimeout path s
  | .ackTimeout path => Sys2Proof.Machine.execAckTimeout path s
  | .creditTimerExpiry path => Sys2Proof.Machine.execCreditTimerExpiry path s
  | .retryRequestRepeat path => Sys2Proof.Machine.execRetryRequestRepeat path s
  | .pathFrameEnd elapsed path => Sys2Proof.Machine.execPathFrameEnd elapsed path s
  | .requestArrival elapsed bytes => Sys2Proof.Machine.execRequestArrival elapsed bytes s
  | .badControlFrame elapsed bytes => Sys2Proof.Machine.execBadControlFrame elapsed bytes s
  | .unknownRequestKind => Sys2Proof.Machine.execUnknownRequestKind s
  | .controlFrameEnd elapsed => Sys2Proof.Machine.execControlFrameEnd elapsed s
  | .setTimecode => Sys2Proof.Machine.execSetTimecode s
  | .setReference => Sys2Proof.Machine.execSetReference s
  | .cueAdd => Sys2Proof.Machine.execCueAdd s
  | .cueCancel => Sys2Proof.Machine.execCueCancel s
  | .cueList => Sys2Proof.Machine.execCueList s
  | .inputInfo => Sys2Proof.Machine.execInputInfo s
  | .coderSet => Sys2Proof.Machine.execCoderSet s
  | .coderInfo => Sys2Proof.Machine.execCoderInfo s
  | .pathRate => Sys2Proof.Machine.execPathRate s
  | .clipShare => Sys2Proof.Machine.execClipShare s
  | .budgetInfo => Sys2Proof.Machine.execBudgetInfo s
  | .storeSet => Sys2Proof.Machine.execStoreSet s
  | .storeInfo => Sys2Proof.Machine.execStoreInfo s
  | .segmentInfo => Sys2Proof.Machine.execSegmentInfo s
  | .timelineInfo => Sys2Proof.Machine.execTimelineInfo s
  | .clipOpen => Sys2Proof.Machine.execClipOpen s
  | .clipClose => Sys2Proof.Machine.execClipClose s
  | .clipMark => Sys2Proof.Machine.execClipMark s
  | .clipLabel => Sys2Proof.Machine.execClipLabel s
  | .clipRate => Sys2Proof.Machine.execClipRate s
  | .clipSend => Sys2Proof.Machine.execClipSend s
  | .clipHold => Sys2Proof.Machine.execClipHold s
  | .clipRelease => Sys2Proof.Machine.execClipRelease s
  | .clipDiscard => Sys2Proof.Machine.execClipDiscard s
  | .clipTimeout => Sys2Proof.Machine.execClipTimeout s
  | .clipInfo => Sys2Proof.Machine.execClipInfo s
  | .clipList => Sys2Proof.Machine.execClipList s
  | .embedSet => Sys2Proof.Machine.execEmbedSet s
  | .busSet => Sys2Proof.Machine.execBusSet s
  | .channelSet => Sys2Proof.Machine.execChannelSet s
  | .sendSet => Sys2Proof.Machine.execSendSet s
  | .sceneStore => Sys2Proof.Machine.execSceneStore s
  | .sceneRecall => Sys2Proof.Machine.execSceneRecall s
  | .outputSet => Sys2Proof.Machine.execOutputSet s
  | .meterSet => Sys2Proof.Machine.execMeterSet s
  | .returnSet => Sys2Proof.Machine.execReturnSet s
  | .streamSet => Sys2Proof.Machine.execStreamSet s
  | .mixerInfo => Sys2Proof.Machine.execMixerInfo s
  | .pathOpen => Sys2Proof.Machine.execPathOpen s
  | .pathClose => Sys2Proof.Machine.execPathClose s
  | .pathSet => Sys2Proof.Machine.execPathSet s
  | .pathInfo => Sys2Proof.Machine.execPathInfo s
  | .sendInfo => Sys2Proof.Machine.execSendInfo s
  | .noticeSet => Sys2Proof.Machine.execNoticeSet s
  | .status => Sys2Proof.Machine.execStatus s
  | .reset => Sys2Proof.Machine.execReset s
  | .memoryError elapsed page line bits => Sys2Proof.Machine.execMemoryError elapsed page line bits s

end Sys2Proof.Machine
end

