-- ==== Sys2Proof/Safety.lean ====
section
/-! DEFINITION. The terms in which statements about the part are written: a queued request and its answer, a picture
tick seen from outside, and the invariants that every command keeps. -/

namespace Sys2Proof.Machine

/-! ## Requests (R196) -/

/-- The next queued request is of a kind, with a body. -/
def State.asks (s : State) (kind : RequestKind) (body : List Byte) : Prop :=
  ∃ e, firstWaiting s.control.queue = some e ∧ requestOfKind e.kind = some kind ∧ e.body = body

/-- The outcome when the next queued request is answered and leaves the part in a state. -/
def answered (reply : Reply) (s : State) : Result :=
  finish (s.modControl fun c => { c with queue := answerFirst reply c.queue })

/-- The outcome of a refusal: the reply carries the code alone, and nothing else changes (R198). -/
def refusedWith (code : ResultCode) (s : State) : Result := answered ⟨code, .none⟩ s

/-- An optional timecode as CLIP_OPEN, CLIP_CLOSE and CLIP_MARK carry it: a flags byte, and four bytes when its bit 0 is
set (Table 10-4). -/
def pointBytes : Option (Byte × Byte × Byte × Byte) → List Byte
  | none => [0]
  | some (hh, mm, ss, ff) => [1, hh, mm, ss, ff]

/-- The timecode that `pointBytes` carries. -/
def pointTimecode : Option (Byte × Byte × Byte × Byte) → Option Timecode
  | none => none
  | some (hh, mm, ss, ff) => some ⟨hh.toNat, mm.toNat, ss.toNat, ff.toNat⟩

/-- The request that a command executes. -/
def requestOf : Instr → Option RequestKind
  | .setTimecode => some .setTimecode
  | .setReference => some .setReference
  | .cueAdd => some .cueAdd
  | .cueCancel => some .cueCancel
  | .cueList => some .cueList
  | .inputInfo => some .inputInfo
  | .coderSet => some .coderSet
  | .coderInfo => some .coderInfo
  | .pathRate => some .pathRate
  | .clipShare => some .clipShare
  | .budgetInfo => some .budgetInfo
  | .storeSet => some .storeSet
  | .storeInfo => some .storeInfo
  | .segmentInfo => some .segmentInfo
  | .timelineInfo => some .timelineInfo
  | .clipOpen => some .clipOpen
  | .clipClose => some .clipClose
  | .clipMark => some .clipMark
  | .clipLabel => some .clipLabel
  | .clipRate => some .clipRate
  | .clipSend => some .clipSend
  | .clipHold => some .clipHold
  | .clipRelease => some .clipRelease
  | .clipDiscard => some .clipDiscard
  | .clipTimeout => some .clipTimeout
  | .clipInfo => some .clipInfo
  | .clipList => some .clipList
  | .embedSet => some .embedSet
  | .busSet => some .busSet
  | .channelSet => some .channelSet
  | .sendSet => some .sendSet
  | .sceneStore => some .sceneStore
  | .sceneRecall => some .sceneRecall
  | .outputSet => some .outputSet
  | .meterSet => some .meterSet
  | .returnSet => some .returnSet
  | .streamSet => some .streamSet
  | .mixerInfo => some .mixerInfo
  | .pathOpen => some .pathOpen
  | .pathClose => some .pathClose
  | .pathSet => some .pathSet
  | .pathInfo => some .pathInfo
  | .sendInfo => some .sendInfo
  | .noticeSet => some .noticeSet
  | .status => some .status
  | .reset => some .reset
  | .powerOn _ | .referencePulse _ | .lossWindowExpiry | .oscillatorTick | .audioFrameLate | .pictureDeadline _
  | .audioBlockTick | .sceneDone | .meterPeriodEnd | .serialSampleFrame _ _ _ | .embeddedSampleFrame _ _ _ _ _
  | .videoPictureStart _ _ _ _ | .videoPictureComplete _ _ _ | .inputLossExpiry _ | .pictureCoded _ _ | .initPage _
  | .patrolRead | .demandReadEnd _ _ | .homeFrameReceived _ _ _ | .confirmTimeout _ | .helloTimeout _
  | .ackTimeout _ | .creditTimerExpiry _ | .retryRequestRepeat _ | .pathFrameEnd _ _ | .requestArrival _ _
  | .badControlFrame _ _ | .unknownRequestKind | .controlFrameEnd _ | .memoryError _ _ _ _ => none

/-! ## A picture tick seen from outside (R3, R4, R6) -/

/-- The timecode that the next picture tick carries: the staged one, else the previous one advanced; its FF is clamped
when a rate takes (R3). -/
def State.tickTimecode (s : State) : Timecode :=
  let t := s.timing.stagedTimecode.getD (nextTimecode s.timing.rate s.timing.timecode)
  match s.timing.stagedRate with
  | some p => { t with ff := min t.ff (perSecond p - 1) }
  | none => t

/-- One picture tick lies between two states, at the second one's time (R3, R4, R6, R175). -/
def State.ticksTo (s t : State) : Prop :=
  t.timing.timecode = s.tickTimecode
    ∧ t.timing.rate = s.timing.stagedRate.getD s.timing.rate
    ∧ t.timing.stagedTimecode = none
    ∧ t.timing.stagedRate = none
    ∧ t.timing.blockNumber = s.timing.blockNumber + 1
    ∧ t.timing.lastTick = t.now
    ∧ t.timing.lastBlock = t.now
    ∧ t.sched.tickCount = s.sched.tickCount + 1

/-- A command raises a picture tick (R1, R2): an oscillator tick outside LOCKED, a pulse outside LOCKED half a period or
more after the last tick, a pulse in LOCKED inside the window, and the expiry of the loss window. -/
def State.ticksBy (s : State) : Instr → Prop
  | .oscillatorTick => s.timing.refState ≠ .locked
  | .referencePulse elapsed =>
    let now := s.now + elapsed
    (s.timing.refState ≠ .locked ∧ period s.timing.rate ≤ 2 * (now - s.timing.lastTick))
      ∨ (s.timing.refState = .locked ∧ ∃ last, s.timing.lastPulse = some last
          ∧ 7 * period s.timing.rate ≤ 8 * (now - last) ∧ 2 * (now - last) ≤ 3 * period s.timing.rate)
  | .lossWindowExpiry => s.timing.refState = .locked ∧ ∃ last, s.timing.lastPulse = some last
  | _ => False

/-- The distance of a cue's target from the timecode now (01, section 1.1). -/
def State.cueAway (s : State) (c : Cue) : Nat := distance s.timing.rate s.timing.timecode c.target

/-- A cue fires at the next tick, when no rate takes (R10). -/
def State.cueFires (s : State) (c : Cue) : Prop :=
  let d := distance s.timing.rate s.tickTimecode c.target
  d = 0 ∨ dayLength s.timing.rate / 2 ≤ d

/-! ## What a close leaves (R101) -/

/-- The record of a clip whose close completes at `out`, when the `removed` segments leave its range (R101): the gaps that
follow them or start after the out-point go, a gap still open is closed at the out-point (notes/assumptions/19.md), and the
digest is that of the segments left. The cursor is kept within the range (R191). -/
def State.closedClip (s : State) (c : Clip) (outSegment : Option Nat) (removed : List Nat) (out : Timecode) : Clip :=
  let range := c.range.filter fun id => !removed.contains id
  let gaps := (c.gaps.filter fun gap =>
      gap.follows.all (fun id => !removed.contains id) && !s.earlier out gap.start).map fun gap =>
    { gap with count := some (gap.count.getD (distance s.timing.rate gap.start out)) }
  { c with
    record := .closed
    outPoint := some out
    range := range
    gaps := gaps
    closeDigest := some (s.digestOf range)
    inPending := false
    outPending := false
    outSegment := none
    closeOrigin := none
    cursor := c.cursor.map (cutCursor removed outSegment gaps.length) }

/-- The last picture of a clip's range, or its in-point when the range is absent (R97, R98). -/
def State.lastOf (s : State) (c : Clip) : Timecode :=
  ((c.range.getLast?.bind s.segment?).map lastPicture).getD c.inPoint

/-! ## What a path failure hands on (R162, R163) -/

/-- The pictures with a frame among the dropped entries are late drops of their channels (R179): each is counted, F goes to
Bv, the rest of the picture leaves the live buffer, and the truncate mark goes to the next picture. -/
def State.handsOnPictures (s u : State) (lost : List RetryEntry) : Prop :=
  let pictures := lostPictures lost
  let marked := fun p : LivePicture => { p with truncate := true }
  u.sched.picturesLate = s.sched.picturesLate + BitVec.ofNat 32 pictures.length
    ∧ ∀ c : Fin 6,
      let k := s.coders[c]
      let buffer := u.coders[c].liveBuffer
      let waits := u.sched.truncatePending[c]
      let dropped := pictures.filter fun e => e.1 = c
      u.coders[c] = { k with
          lateDrops := k.lateDrops + BitVec.ofNat 32 dropped.length
          fullness := if dropped = [] then k.fullness else k.bufferSize
          liveBuffer := buffer }
        ∧ (dropped = [] → buffer = k.liveBuffer ∧ waits = s.sched.truncatePending[c])
        ∧ ∀ sequence t, dropped = [(c, sequence, t)] →
            (∀ before p after, k.liveBuffer = before ++ p :: after → (p.sequence, p.timecode) = (sequence, t) →
              (∀ q ∈ before, (q.sequence, q.timecode) ≠ (sequence, t)) →
              buffer = before ++ after.modifyHead marked
                ∧ waits = (s.sched.truncatePending[c] || after.isEmpty))
            ∧ ((∀ q ∈ k.liveBuffer, (q.sequence, q.timecode) ≠ (sequence, t)) →
                buffer = k.liveBuffer.modifyHead marked
                  ∧ waits = (s.sched.truncatePending[c] || k.liveBuffer.isEmpty))

/-- The clips with an item among the dropped entries are rewound (R190), fully or to the earliest segment named, and one
that awaited its confirm is QUEUED again (R117); every other clip stays as it is. -/
def State.handsOnClips (s u : State) (lost : List RetryEntry) : Prop :=
  ∀ id c, s.clip? id = some c →
    let segments := lostSegments lost id
    let line := s.store.timelines[c.channel]
    let reported := fun k : Clip =>
      if c.send = .awaitConfirm then { k with send := .queued, confirmDeadline := none, sendDigest := none } else k
    (id ∉ lostClips lost ∨ s.clipNamed id = none
        ∨ s.clipNamed id = some c ∧ c.send ∈ [SendState.idle, .sent, .failed] → u.clip? id = some c)
      ∧ (id ∈ lostClips lost → s.clipNamed id = some c →
          c.send ∈ [SendState.queued, .sending, .held, .awaitConfirm] →
          (lostItem lost id = true ∨ segments = [] →
            u.clip? id = some (reported { c with
              cursor := some ⟨.beforeStart, [.resend c.range.head?], 0, 0, 0, []⟩
              started := false
              markersSent := 0 }))
          ∧ (lostItem lost id = false → ∀ k earliest, c.cursor = some k → earliest ∈ segments →
              (∀ g ∈ segments, g ≠ earliest → line.idxOf earliest < line.idxOf g) →
              let back := earliest ∈ c.range
                ∧ rankBefore (positionRank c.range (rewindPlace c.range earliest)) (positionRank c.range k.position)
              u.clip? id = some (reported (
                if back then { c with cursor := some (rewindCursor c earliest k) } else c))))

/-- The losses of the dropped entries as one state hands them on to the next. -/
def State.handsOn (s u : State) (lost : List RetryEntry) : Prop :=
  s.handsOnPictures u lost ∧ s.handsOnClips u lost

/-! ## Invariants -/

/-- The attached DRAM is in canonical form, and its lines with errors are listed in strictly ascending order. -/
def State.memoryCanonical (s : State) : Prop :=
  Mem.wf s.store.dram = true ∧ (s.store.lineErrors.map fun e => e.1).Pairwise (· < ·)

/-- At most four requests, eight BUSY replies and 32 notices wait (09, R195, R200). -/
def State.portWithinLimits (s : State) : Prop :=
  s.control.queue.length ≤ 4 ∧ s.control.busy.length ≤ 8 ∧ s.control.notices.length ≤ 32

/-- A path's credit and ring (R153, Table 7-3): the credit does not exceed the ceiling, at most 511 cells are held, the
send pointer is the acknowledged pointer plus the cells held, and nothing is held in DOWN and PROBE. -/
def Path.consistent (path : Path) : Prop :=
  path.credit ≤ path.ceiling
    ∧ cellsHeld path.retry ≤ 511
    ∧ path.sendPointer = path.acked + BitVec.ofNat 9 (cellsHeld path.retry)
    ∧ (path.state = .down ∨ path.state = .probe → path.retry = [])

/-- Every path is consistent. -/
def State.pathsConsistent (s : State) : Prop := ∀ p : Fin 4, s.paths[p].consistent

/-- Every FOLLOW bus of a configuration refers to a MIX bus (R125). -/
def followsMix (modes : Vector BusMode 12) : Prop :=
  ∀ b reference : Fin 12, ∀ excluded : Fin 32, modes[b] = .follow reference excluded → modes[reference] = .mix

/-- The configuration in force, the staged configuration, every stored scene and every scene that waits on the change
list have each FOLLOW bus on a MIX bus (R125, R130). -/
def State.followersOnMix (s : State) : Prop :=
  followsMix (vecMap (fun b : Bus => b.mode) s.mixer.buses)
    ∧ followsMix (stagedModes s.mixer)
    ∧ (∀ slot : Fin 16, ∀ scene, s.mixer.scenes[slot] = some scene → followsMix scene.modes)
    ∧ (∀ slot length scene, Change.recallScene slot length scene ∈ s.mixer.changes → followsMix scene.modes)

/-- A channel's rate control (R57, R59, R18): q lies within its bounds, the bounds that the staged change leaves are in
order, and F lies within 0..4 × Bp. -/
def CoderChannel.withinBounds (k : CoderChannel) : Prop :=
  k.qMin ≤ k.q ∧ k.q ≤ k.qMax ∧ k.qMax ≤ 51
    ∧ (newBounds k k.staged).1 ≤ (newBounds k k.staged).2 ∧ (newBounds k k.staged).2 ≤ 51
    ∧ k.fullness ≤ k.bufferSize ∧ k.bufferSize ≤ 4 * k.byteBudget

/-- Every coder channel is within its bounds. -/
def State.codersWithinBounds (s : State) : Prop := ∀ c : Fin 6, s.coders[c].withinBounds

end Sys2Proof.Machine
end

