-- ==== Sys2Proof/Certificates/Slice0/Obligations.lean ====
section
/-! DEFINITION. The statements for the provers. Each docstring names the rules it rests on, and what in it is the model's
choice with its log entry; `answered` and `finish`, which name outcomes, are next states in every case
(`Obligations.TheEndOfACommandTakesALineFrame`). The clock `now` and what an expiry does to it are the model's
(notes/assumptions/1.md). -/

open Sys2Proof Sys2Proof.Machine

/-! ## The queue of commands and the control line (09) -/

/-- The interface of the model (notes/assumptions/13.md): a step takes the command at the front of the queue. -/
def Obligations.StepRunsTheFrontCommand : Prop :=
  ∀ (c : Instr) (rest : List Instr) (s : State),
    step { s with pending := c :: rest } = exec c { s with pending := rest }

/-- R196: a body whose length Table 10-4 does not give is answered BAD_LENGTH, a kind that names no request BAD_KIND,
and nothing else changes. That the row of a request leaves a request of another kind waiting is the model's choice
(notes/assumptions/8.md). -/
def Obligations.ARequestIsCheckedBeforeItsOwner : Prop :=
  (∀ (i : Instr) (kind : RequestKind) (s : State) (body : List Byte),
    requestOf i = some kind → s.asks kind body → lengthOk kind body = false → exec i s = refusedWith .badLength s)
  ∧ (∀ (s : State) (e : Entry), firstWaiting s.control.queue = some e → requestOfKind e.kind = none →
      exec .unknownRequestKind s = refusedWith .badKind s)
  ∧ ∀ (i : Instr) (kind other : RequestKind) (s : State) (body : List Byte),
      requestOf i = some kind → s.asks other body → other ≠ kind → exec i s = finish s

/-- R194, R195 with Table 10-1: a whole control frame, in whatever pieces its bytes come, is queued as WAITING; with four
entries queued it is answered BUSY; with eight BUSY replies waiting it is lost; while a RESET waits for its reply it is
discarded (R203). The bytes behind it are taken as bytes that come next. Two things are the model's choice: that no request is
executed between two frames of one event (notes/assumptions/45.md), and that the counter of lost requests has 32 bits and
wraps to 0 (notes/assumptions/57.md, unsafe). -/
def Obligations.ARequestFrameIsQueued : Prop :=
  (∀ (s : State) (elapsed : Nat), s.control.receiver = [] →
    exec (.requestArrival elapsed []) s = finish { s with now := s.now + elapsed })
  ∧ ∀ (s : State) (elapsed : Nat) (kind tag : Byte) (body bytes rest : List Byte),
    s.control.receiver ++ bytes = controlFrameBytes kind tag body ++ rest → body.length ≤ 1020 →
    let outcome := exec (.requestArrival elapsed bytes) s
    let after := fun c : Control =>
      exec (.requestArrival 0 rest) { s with now := s.now + elapsed, control := { c with receiver := [] } }
    (s.control.resetPending ≠ none → outcome = after s.control)
    ∧ (s.control.resetPending = none →
        (s.control.queue.length < 4 →
          outcome = after { s.control with queue := s.control.queue ++ [⟨kind, tag, body, .waiting⟩] })
        ∧ (4 ≤ s.control.queue.length → s.control.busy.length < 8 →
            outcome = after { s.control with busy := s.control.busy ++ [(tag, kind)] })
        ∧ (4 ≤ s.control.queue.length → 8 ≤ s.control.busy.length →
            outcome = after
              { s.control with requestLost := true, requestsLost := s.control.requestsLost + 1 }))

/-- R194: the bytes in hand and those that come are searched together. A byte that is no start byte, a length field outside
2..1022 and a frame whose CRC differs set FRAME_ERROR; a bad frame is counted, and the search goes on at the byte after its
start byte, so that a start byte inside it can begin the next frame; a whole frame in them is a request as any other is; a
frame not yet whole waits for its other bytes. -/
def Obligations.ABadControlFrameIsDiscarded : Prop :=
  ∀ (s : State) (elapsed : Nat) (bytes : List Byte),
    let all := s.control.receiver ++ bytes
    let outcome := exec (.badControlFrame elapsed bytes) s
    let waits := finish { s with now := s.now + elapsed, control := { s.control with receiver := all } }
    let again := fun (rest : List Byte) (c : Control) =>
      exec (.badControlFrame 0 rest) { s with now := s.now + elapsed, control := { c with receiver := [] } }
    let bad := { s.control with frameError := true, framesDiscarded := s.control.framesDiscarded + 1 }
    (all = [] → outcome = waits)
    ∧ (∀ b rest, all = b :: rest → b ≠ 0xC5 → outcome = again rest { s.control with frameError := true })
    ∧ (all = [0xC5] → outcome = waits) ∧ (∀ b, all = [0xC5, b] → outcome = waits)
    ∧ (∀ high low rest, all = 0xC5 :: high :: low :: rest →
        let length := high.toNat * 256 + low.toNat
        (length < 2 ∨ 1022 < length → outcome = again (high :: low :: rest) bad)
        ∧ (2 ≤ length → length ≤ 1022 →
            (rest.length < length + 2 → outcome = waits)
            ∧ (length + 2 ≤ rest.length →
                (crc16 (high :: low :: rest.take length) ≠ BitVec.ofNat 16 (field rest length 2) →
                  outcome = again (high :: low :: rest) bad)
                ∧ (crc16 (high :: low :: rest.take length) = BitVec.ofNat 16 (field rest length 2) →
                    outcome = exec (.requestArrival elapsed bytes) s))))
    ∧ ∀ c : Control, ∀ rest : List Byte, (0xC5 : Byte) ∉ rest →
        again rest c = finish { s with
          now := s.now + elapsed
          control := { c with receiver := [], frameError := c.frameError || !rest.isEmpty } }

/-- R196, R197: the answer makes the WAITING entry nearest the front READY; at the end of every command an IDLE
transmitter takes the oldest BUSY reply, else the front entry's reply when it is READY, else the oldest notice. -/
def Obligations.TheEndOfACommandTakesALineFrame : Prop :=
  (∀ (s : State) (reply : Reply) (done behind : List Entry) (e : Entry),
    (∀ d ∈ done, d.status ≠ .waiting) → e.status = .waiting → s.control.queue = done ++ e :: behind →
      answered reply s = finish { s with control := { s.control with
        queue := done ++ { e with status := .ready reply } :: behind } })
  ∧ ∀ s : State,
      (s.control.transmitter ≠ none → finish s = .next s)
      ∧ (s.control.transmitter = none →
          (∀ tag kind rest, s.control.busy = (tag, kind) :: rest →
            finish s = .next { s with control := { s.control with
              transmitter := some (.busy tag kind), busy := rest } })
          ∧ (s.control.busy = [] →
              (∀ e reply rest, s.control.queue = e :: rest → e.status = .ready reply →
                finish s = .next { s with control := { s.control with
                  transmitter := some (.reply e.tag e.kind reply)
                  queue := { e with status := .sending reply } :: rest } })
              ∧ ((∀ e ∈ s.control.queue.head?, ∀ reply, e.status ≠ .ready reply) →
                  (∀ n rest, s.control.notices = n :: rest →
                    finish s = .next { s with control := { s.control with
                      transmitter := some (.notice n), notices := rest } })
                  ∧ (s.control.notices = [] → finish s = .next s))))

/-- R200: what becomes of a notice, by the first case that applies. -/
def Obligations.ANoticeJoinsTheQueue : Prop :=
  ∀ (c : Control) (n : Notice),
    (noticeEnabled c.mask n.body = false → queueNotice n c = c)
    ∧ (noticeEnabled c.mask n.body = true →
        (∀ bus, meterBus n.body = some bus → (∃ m ∈ c.notices, meterBus m.body = some bus) →
          queueNotice n c = { c with notices := c.notices.map fun m => if meterBus m.body = some bus then n else m })
        ∧ ((∀ bus, meterBus n.body = some bus → ∀ m ∈ c.notices, meterBus m.body ≠ some bus) →
            (c.notices.length < 32 → queueNotice n c = { c with notices := c.notices ++ [n] })
            ∧ (32 ≤ c.notices.length →
                (∀ before m after, c.notices = before ++ m :: after → isMeter m.body = true →
                  (∀ k ∈ before, isMeter k.body = false) →
                  queueNotice n c =
                    { c with notices := before ++ after ++ [n], metersDropped := c.metersDropped + 1 })
                ∧ ((∀ m ∈ c.notices, isMeter m.body = false) →
                    queueNotice n c = { c with noticeOverrun := true, noticesLost := c.noticesLost + 1 }))))

/-- R199: NOTICE_SET stores a mask of the eleven enables and removes the queued notices that it disables. -/
def Obligations.NoticeSetRemovesDisabledNotices : Prop :=
  (∀ (s : State) (body : List Byte), s.asks .noticeSet body → body.length ≠ 2 →
    exec .noticeSet s = refusedWith .badLength s)
  ∧ ∀ (s : State) (high low : Byte), s.asks .noticeSet [high, low] →
      (8 ≤ high.toNat → exec .noticeSet s = refusedWith .badValue s)
      ∧ (high.toNat < 8 →
          let mask := BitVec.ofNat 11 (high.toNat * 256 + low.toNat)
          exec .noticeSet s = answered ⟨.ok, .mask mask⟩
            { s with control := { s.control with
              mask := mask
              notices := s.control.notices.filter fun n =>
                mask.getLsbD (category n.body - 1) && (!isMeter n.body || mask.getLsbD 10) } })

/-- R202, R55, R88, R192: STATUS reports every field of R13 and R202 as it stands before it and clears its three flags;
BUDGET_INFO gives the allocation record, STORE_INFO the store record with its page and segment counts and its counters,
SEND_INFO the scheduler's record with the SENDING clip's position, the kinds of its queued items and whether it waits (R183),
and none of the three changes anything. -/
def Obligations.RequestsForAReport : Prop :=
  ∀ s : State,
    let pages : PageCounts :=
      { free := s.store.freePool.length
        inSegment := (s.store.segments.map fun g => g.pages.length).sum
        retired := s.store.retired.length
        uninitialised := s.store.pageCount - s.store.initPosition }
    (s.asks .status [] → exec .status s = answered ⟨.ok, .status
        { refState := s.timing.refState
          rate := s.timing.rate
          timecode := s.timing.timecode
          blockNumber := s.timing.blockNumber
          stagedTimecode := s.timing.stagedTimecode
          stagedRate := s.timing.stagedRate
          cueCount := s.timing.cues.length
          storeState := s.store.state
          initPosition := s.store.initPosition
          pageCount := s.store.pageCount
          pages := pages
          pathStates := Vector.ofFn fun p : Fin 4 => s.paths[p].state
          modes := Vector.ofFn fun c : Fin 6 => s.coders[c].mode
          frameError := s.control.frameError
          noticeOverrun := s.control.noticeOverrun
          requestLost := s.control.requestLost
          mask := s.control.mask
          notices := s.control.notices.length
          framesDiscarded := s.control.framesDiscarded
          requestsLost := s.control.requestsLost
          metersDropped := s.control.metersDropped
          noticesLost := s.control.noticesLost
          lastReset := s.control.lastReset }⟩
      { s with control := { s.control with frameError := false, noticeOverrun := false, requestLost := false } })
    ∧ (s.asks .budgetInfo [] → exec .budgetInfo s = answered ⟨.ok, .budget s.alloc⟩ s)
    ∧ (s.asks .storeInfo [] → ∃ report, exec .storeInfo s = answered ⟨.ok, .store report⟩ s
        ∧ report.state = s.store.state ∧ report.pageCount = s.store.pageCount
        ∧ report.initPosition = s.store.initPosition ∧ report.patrolInterval = s.store.patrolInterval
        ∧ report.patrolPosition = s.store.patrolPosition ∧ report.writers = s.store.writers
        ∧ report.pages = pages ∧ report.initialised = s.store.initPosition
        ∧ report.freeRecords = 8192 - s.store.segments.length
        ∧ report.filling = (s.store.segments.filter fun g => g.state = .filling).length
        ∧ report.complete = (s.store.segments.filter fun g => g.state = .complete).length
        ∧ report.demandCorrected = s.store.demandCorrected ∧ report.patrolCorrected = s.store.patrolCorrected
        ∧ report.uncorrectable = s.store.uncorrectable ∧ report.reclaimed = s.store.reclaimed
        ∧ report.pagesRetired = s.store.pagesRetired ∧ report.unstored = s.store.unstored)
    ∧ (s.asks .sendInfo [] → ∃ report, exec .sendInfo s = answered ⟨.ok, .send report⟩ s
        ∧ report.tickCount = s.sched.tickCount ∧ report.clipAllowance = s.sched.clipAllowance
        ∧ report.audioLength = s.sched.audioQueue.length ∧ report.loan = s.sched.loan
        ∧ (∀ c : Fin 6, report.channels[c].allowance = s.sched.channelAllowance[c]
            ∧ report.channels[c].pictures = s.coders[c].liveBuffer.length
            ∧ report.channels[c].oldestDeadline = s.coders[c].liveBuffer.head?.map (fun p => p.deadlineTick)
            ∧ report.channels[c].frameSequence = s.sched.frameSequence[c]
            ∧ report.channels[c].truncatePending = s.sched.truncatePending[c])
        ∧ report.oldestCreated = s.sched.audioQueue.head?.map (fun f => f.created)
        ∧ report.sending.map (fun r => r.id) = s.sendingClip.map (fun k => k.id)
        ∧ (∀ c k, s.sendingClip = some c → c.cursor = some k → ∃ r, report.sending = some r
            ∧ r.position = some k.position
            ∧ r.items = k.items.map (fun item => match item with
                | .resend _ => .resend
                | .abort => .abort
                | .damaged _ => .damaged)
            ∧ (k.items ≠ [] ∨ k.position = .beforeStart → r.waits = false)
            ∧ (k.items = [] →
                (∀ id offset g, k.position = .inside id offset → s.segment? id = some g →
                  (r.waits = true ↔ g.state = .filling))
                ∧ ∀ after passed, k.position = .boundary after passed →
                    (∀ gap, c.gaps[k.gapsEmitted]? = some gap → gap.follows = after →
                      (r.waits = true ↔ gap.count = none))
                    ∧ ((∀ gap, c.gaps[k.gapsEmitted]? = some gap → gap.follows ≠ after) →
                        (c.markersSent < c.markers.length → r.waits = false)
                        ∧ (c.markers.length ≤ c.markersSent → segmentAfter c.range after = none →
                            (r.waits = true ↔ c.record ≠ .closed)))))
        ∧ report.audioStarted = s.sched.audioStarted ∧ report.videoStarted = s.sched.videoStarted
        ∧ report.clipStarted = s.sched.clipStarted ∧ report.rewinds = s.sched.rewinds
        ∧ report.audioLate = s.sched.audioLate ∧ report.picturesLate = s.sched.picturesLate)

/-! ## Power-on and reset (R203 to R205) -/

/-- R12, R42, R62, R90, R120, R145, R174, R193, R204, R205 with Table 9-7: power-on gives every block the values of its
tables with the straps as read. The model's choices: the clock goes on (notes/assumptions/1.md), ticks count from the reset
(notes/assumptions/6.md), the attached DRAM is not touched (notes/assumptions/7.md), and the free values and the queue of
commands stay (notes/assumptions/3.md, notes/assumptions/5.md, notes/assumptions/13.md). -/
def Obligations.PowerOnGivesTheResetValues : Prop :=
  (∀ (s : State) (straps : Straps), exec (.powerOn straps) s = .next
    { State.reset with
      now := s.now
      straps := straps
      timing := { State.reset.timing with rate := straps.rate, lastTick := s.now, lastBlock := s.now }
      store := { State.reset.store with
        pageCount := pagesOfStrap straps.store
        patrolDue := s.now + 20 * millisecond
        dram := s.store.dram
        lineErrors := s.store.lineErrors }
      freeReads := s.freeReads
      tickOrders := s.tickOrders
      pending := s.pending })
  ∧ State.reset.timing.refState = .free ∧ State.reset.timing.timecode = ⟨0, 0, 0, 0⟩ ∧ State.reset.timing.cues = []
  ∧ (∀ p : Fin 8, State.reset.ports[p].input = .lost ∧ State.reset.ports[p].held = none)
  ∧ (∀ c : Fin 6, State.reset.coders[c].mode = .off ∧ State.reset.coders[c].source.val = c.val
      ∧ State.reset.coders[c].q = 26 ∧ State.reset.coders[c].segLength = 50 ∧ State.reset.coders[c].liveDeadline = 3)
  ∧ State.reset.alloc.share = 4 ∧ State.reset.alloc.capacity = 0
  ∧ State.reset.store.state = .initialising ∧ State.reset.store.freePool = [] ∧ State.reset.store.patrolInterval = 20
  ∧ State.reset.clipLog.nextId = 1 ∧ State.reset.clipLog.timeout = 10
  ∧ (∀ b : Fin 12, State.reset.mixer.buses[b].mode = .off) ∧ State.reset.mixer.meterPeriod = 60
  ∧ (∀ p : Fin 4, State.reset.paths[p].state = .down ∧ State.reset.paths[p].ackTimeout = 200
      ∧ State.reset.paths[p].retryLimit = 4)
  ∧ State.reset.sched.tickCount = 0 ∧ State.reset.control.mask = 0x3FF ∧ State.reset.control.lastReset = .powerOn

/-- R203, R205: a RESET of a valid scope is answered OK, the requests behind it are answered BUSY, or are lost where the BUSY
list has no room (R195), and it acts when its reply has left: FULL leaves what power-on with the straps in force leaves, but
for the last reset, and KEEP_STORE the same but for the last reset, the store and the clip log. The end of any other frame
frees the transmitter, and that of a reply its entry (R197). That an end with no frame in transmission has no effect
(notes/assumptions/2.md) and that the counter of lost requests wraps to 0 (notes/assumptions/57.md, unsafe) are the model's
choices. -/
def Obligations.AResetActsWhenItsReplyHasLeft : Prop :=
  (∀ (s : State) (done behind : List Entry) (e : Entry) (value : Byte),
    (∀ d ∈ done, d.status ≠ .waiting) → e.status = .waiting → requestOfKind e.kind = some .reset → e.body = [value] →
    s.control.queue = done ++ e :: behind →
      (value.toNat ≠ 1 ∧ value.toNat ≠ 2 → exec .reset s = refusedWith .badValue s)
      ∧ ∀ scope : Scope, value.toNat = (match scope with | .full => 1 | .keepStore => 2) →
          let room := 8 - s.control.busy.length
          exec .reset s = finish { s with control := { s.control with
            queue := done ++ [{ e with status := .ready ⟨.ok, .scope scope⟩ }]
            busy := s.control.busy ++ (behind.take room).map fun b => (b.tag, b.kind)
            requestLost := s.control.requestLost || decide (room < behind.length)
            requestsLost := s.control.requestsLost + BitVec.ofNat 32 (behind.length - room)
            resetPending := some scope } })
  ∧ ∀ (s : State) (elapsed : Nat),
      let s' := { s with now := s.now + elapsed }
      (s.control.transmitter = none → exec (.controlFrameEnd elapsed) s = finish s')
      ∧ (∀ tag kind, s.control.transmitter = some (.busy tag kind) →
          exec (.controlFrameEnd elapsed) s = finish { s' with control := { s.control with transmitter := none } })
      ∧ (∀ n, s.control.transmitter = some (.notice n) →
          exec (.controlFrameEnd elapsed) s = finish { s' with control := { s.control with transmitter := none } })
      ∧ ∀ tag kind reply, s.control.transmitter = some (.reply tag kind reply) →
          ((∀ scope, reply ≠ ⟨.ok, .scope scope⟩) →
            exec (.controlFrameEnd elapsed) s = finish { s' with control := { s.control with
              transmitter := none, queue := s.control.queue.drop 1 } })
          ∧ ∃ on, exec (.powerOn s.straps) s' = .next on
            ∧ (reply = ⟨.ok, .scope .full⟩ →
                exec (.controlFrameEnd elapsed) s = .next (fullReset s.straps .full s')
                ∧ exec (.controlFrameEnd elapsed) s = .next { on with control := { on.control with lastReset := .full } })
            ∧ (reply = ⟨.ok, .scope .keepStore⟩ →
                exec (.controlFrameEnd elapsed) s = .next (keepStoreReset s')
                ∧ exec (.controlFrameEnd elapsed) s = .next { on with
                  control := { on.control with lastReset := .keepStore }
                  store := (keepStoreReset s').store
                  clipLog := (keepStoreReset s').clipLog })

/-- R91, R121 with Table 9-7: RESET KEEP_STORE keeps every clip whose discard is not pending, under its slot and id and
with its label, rating, markers, HOLD and DAMAGED, CLOSED and with no send in progress, and no other clip; it keeps every
COMPLETE segment of a kept clip's range, in its place, with every field but its recounted pin count, and no other segment;
every initialised page that is not retired and in no kept segment is free, in ascending order; retired pages stay retired
and bad pages of freed segments join them; every other block is reset as RESET FULL resets it. That the bytes of the
attached DRAM and their errors all stay is the model's choice (notes/assumptions/7.md). A clip that was OPEN or CLOSING is
trimmed to the segments of its range before the first that is not COMPLETE: its out-point is the last picture of the last
one left, or the in-point when none is left, the gaps after it go, and its digest is that of the segments left. Every
writer is IDLE with no gap, the patrol stands at page 0 with its interval of 20 ms, and the six counters are 0. That a gap
still open is closed at the new out-point (notes/assumptions/19.md), that the gaps are ordered and counted under the P and
the timecode before the reset (notes/assumptions/44.md), the order where one of the timecodes lies in the future
(notes/assumptions/39.md), and the wait of the patrol (notes/assumptions/36.md) are the model's choices. -/
def Obligations.KeepStoreKeepsWhatClipsHold : Prop :=
  ∀ s : State,
    let t := keepStoreReset s
    t.store.dram = s.store.dram ∧ t.store.lineErrors = s.store.lineErrors ∧ t.store.state = s.store.state
      ∧ t.store.pageCount = s.store.pageCount ∧ t.store.initPosition = s.store.initPosition
      ∧ (∀ c : Fin 6, t.store.writers[c] = ⟨.idle, none, 0⟩)
      ∧ (t.store.patrolPosition = 0 ∧ t.store.patrolInterval = 20 ∧ t.store.patrolDue = s.now + 20 * millisecond)
      ∧ (t.store.demandCorrected = 0 ∧ t.store.patrolCorrected = 0 ∧ t.store.uncorrectable = 0
        ∧ t.store.reclaimed = 0 ∧ t.store.pagesRetired = 0 ∧ t.store.unstored = 0)
      ∧ (∀ g ∈ t.store.segments, g.state = .complete ∧ 0 < g.pinCount
          ∧ g.pinCount = (t.clipLog.clips.filter fun k => k.range.contains g.id).length)
      ∧ (∀ page ∈ t.store.freePool, page < s.store.initPosition ∧ page ∉ t.store.retired
          ∧ ∀ g ∈ t.store.segments, page ∉ g.pages)
      ∧ (∀ k ∈ t.clipLog.clips, k.record = .closed ∧ k.send ∈ [SendState.idle, .sent, .failed]
          ∧ k.discardPending = false)
      ∧ (∀ k ∈ t.clipLog.clips, ∃ old ∈ s.clipLog.clips, old.id = k.id ∧ old.inPoint = k.inPoint
          ∧ (if old.record = .closed then k.range = old.range ∧ k.gaps = old.gaps ∧ k.closeDigest = old.closeDigest
              ∧ k.truncated = old.truncated ∧ k.outPoint = old.outPoint
            else k.truncated = true
              ∧ k.inPending = false ∧ k.outPending = false ∧ k.outSegment = none
              ∧ k.closeDigest = some (s.digestOf k.range)
              ∧ ∃ (removed : List Nat) (out : Timecode), old.range = k.range ++ removed ∧ k.outPoint = some out
                ∧ (∀ id ∈ k.range, ∃ g, s.segment? id = some g ∧ g.state = .complete)
                ∧ (∀ id rest, removed = id :: rest → ∀ g, s.segment? id = some g → g.state = .filling)
                ∧ (k.range = [] → out = old.inPoint)
                ∧ (∀ id g, k.range.getLast? = some id → s.segment? id = some g → out = lastPicture g)
                ∧ k.gaps = (old.gaps.filter fun gap =>
                    gap.follows.all (fun id => !removed.contains id) && !s.earlier out gap.start).map fun gap =>
                      { gap with count := some (gap.count.getD (distance s.timing.rate gap.start out)) }))
      ∧ t.clipLog.nextId = s.clipLog.nextId ∧ t.clipLog.queueCounter = 0 ∧ t.clipLog.timeout = 10
      ∧ (∀ old ∈ s.clipLog.clips, old.discardPending = false → ∃ k ∈ t.clipLog.clips, k.slot = old.slot ∧ k.id = old.id
          ∧ k.channel = old.channel ∧ k.inPoint = old.inPoint ∧ k.label = old.label ∧ k.rating = old.rating
          ∧ k.urgent = old.urgent ∧ k.markers = old.markers ∧ k.hold = old.hold ∧ k.damaged = old.damaged
          ∧ k.clamped = old.clamped)
      ∧ (∀ g ∈ t.store.segments, ∃ old ∈ s.store.segments, g = { old with pinCount := g.pinCount })
      ∧ (∀ old ∈ s.store.segments, old.state = .complete → ∀ k ∈ t.clipLog.clips, old.id ∈ k.range →
          ∃ g ∈ t.store.segments, g = { old with pinCount := g.pinCount })
      ∧ t.store.completion = s.store.completion.filter (fun id => t.store.segments.any fun g => g.id == id)
      ∧ (∀ c : Fin 6, t.store.timelines[c] = s.store.timelines[c].filter fun id => t.store.segments.any fun g => g.id == id)
      ∧ t.store.freePool.Pairwise (· < ·)
      ∧ (∀ page < s.store.initPosition, page ∉ t.store.retired → (∀ g ∈ t.store.segments, page ∉ g.pages) →
          page ∈ t.store.freePool)
      ∧ (∀ page ∈ s.store.retired, page ∈ t.store.retired)
      ∧ (∀ old ∈ s.store.segments, (∀ g ∈ t.store.segments, g.id ≠ old.id) → ∀ page ∈ old.pages, page ∈ old.badPages →
          page ∈ t.store.retired)
      ∧ t = { fullReset s.straps .keepStore s with store := t.store, clipLog := t.clipLog }

/-! ## Timing (01) -/

/-- R5, R6: a valid timecode is staged and any other refused; the rate in force removes a staged rate, another of the four
is staged, and any other number is refused. -/
def Obligations.TimingRequestsStageTheirValue : Prop :=
  (∀ (s : State) (hh mm ss ff : Byte), s.asks .setTimecode [hh, mm, ss, ff] →
    if hh.toNat < 24 ∧ mm.toNat < 60 ∧ ss.toNat < 60
        ∧ ff.toNat < perSecond (s.timing.stagedRate.getD s.timing.rate) then
      exec .setTimecode s = answered ⟨.accepted, .none⟩
        { s with timing := { s.timing with stagedTimecode := some ⟨hh.toNat, mm.toNat, ss.toNat, ff.toNat⟩ } }
    else exec .setTimecode s = refusedWith .badValue s)
  ∧ ∀ (s : State) (n : Byte), s.asks .setReference [n] →
      (∀ p : PictureRate, n.toNat = perSecond p →
        exec .setReference s =
          if p = s.timing.rate then answered ⟨.ok, .none⟩ { s with timing := { s.timing with stagedRate := none } }
          else answered ⟨.accepted, .none⟩ { s with timing := { s.timing with stagedRate := some p } })
      ∧ ((∀ p : PictureRate, n.toNat ≠ perSecond p) → exec .setReference s = refusedWith .badValue s)

/-- R7, R8, R9 with 01, section 1.5: CUE_ADD refuses a cue for the picture in progress or the past, and one that finds no
free slot, and else takes the lowest-numbered free slot; CUE_CANCEL removes the cue of an occupied slot and answers
NOT_FOUND for an empty one; CUE_LIST gives every cue with its distance, in order of distance and in insertion order where
distances are equal. -/
def Obligations.CuesAreAddedCancelledAndListed : Prop :=
  (∀ (s : State) (hh mm ss ff kind : Byte) (action : CueAction) (body : List Byte),
      s.asks .cueAdd (hh :: mm :: ss :: ff :: kind :: body) → actionOf kind.toNat = some action →
      actionLengthOk action body = true →
      validTimecode s.timing.rate ⟨hh.toNat, mm.toNat, ss.toNat, ff.toNat⟩ = true →
      let target : Timecode := ⟨hh.toNat, mm.toNat, ss.toNat, ff.toNat⟩
      let d := distance s.timing.rate s.timing.timecode target
      (d = 0 ∨ dayLength s.timing.rate / 2 ≤ d → exec .cueAdd s = refusedWith .badValue s)
      ∧ (0 < d → d < dayLength s.timing.rate / 2 →
          ((∀ id : Fin 16, ∃ c ∈ s.timing.cues, c.id = id) → exec .cueAdd s = refusedWith .noRoom s)
          ∧ ∀ id : Fin 16, (∀ c ∈ s.timing.cues, c.id ≠ id) → (∀ j < id, ∃ c ∈ s.timing.cues, c.id = j) →
            exec .cueAdd s = answered ⟨.ok, .cueId id⟩
              { s with timing := { s.timing with cues := s.timing.cues ++ [⟨id, target, action, body⟩] } }))
  ∧ (∀ (s : State) (n : Byte), s.asks .cueCancel [n] →
    (16 ≤ n.toNat → exec .cueCancel s = refusedWith .badValue s)
    ∧ ∀ id : Fin 16, n.toNat = id.val →
      ((∀ c ∈ s.timing.cues, c.id ≠ id) → exec .cueCancel s = refusedWith .notFound s)
      ∧ ((∃ c ∈ s.timing.cues, c.id = id) →
          exec .cueCancel s = answered ⟨.ok, .none⟩
            { s with timing := { s.timing with cues := s.timing.cues.filter fun c => c.id != id } }))
  ∧ ∀ s : State, s.asks .cueList [] →
      ∃ entries : List (Cue × Nat),
        exec .cueList s = answered ⟨.ok, fitEntries .cues entries⟩ s
          ∧ entries.Pairwise (fun a b => a.2 ≤ b.2)
          ∧ ∀ d : Nat, (entries.filter fun e => e.2 == d) =
              (s.timing.cues.filter fun c => distance s.timing.rate s.timing.timecode c.target == d).map fun c => (c, d)

/-- R1 to R4: outside LOCKED an oscillator tick is one picture tick a period after the last; that the row has no effect in
LOCKED, where the oscillator raises no tick, is the model's choice (notes/assumptions/2.md). -/
def Obligations.OscillatorTicksOutsideLocked : Prop :=
  ∀ s : State,
    (s.timing.refState = .locked → exec .oscillatorTick s = finish s)
    ∧ (s.timing.refState ≠ .locked →
        ∃ t, exec .oscillatorTick s = .next t ∧ s.ticksTo t
          ∧ t.now = max s.now (s.timing.lastTick + period s.timing.rate)
          ∧ t.timing.refState = s.timing.refState ∧ t.timing.lastPulse = s.timing.lastPulse
          ∧ t.ports = s.ports ∧ t.straps = s.straps ∧ t.pending = s.pending)

/-- R1, R2: a pulse in FREE or HOLDOVER locks the reference, and half a period or more after the last picture tick it
raises one; in LOCKED a pulse that comes too early is ignored and one inside the window raises a picture tick; the expiry
of the loss window raises a picture tick and leaves the reference in HOLDOVER. -/
def Obligations.TheReferenceLocksAndIsLost : Prop :=
  ∀ (s : State) (elapsed : Nat),
    let s' := { s with now := s.now + elapsed }
    let ticks := ∃ t, exec (.referencePulse elapsed) s = .next t ∧ s'.ticksTo t ∧ t.now = s'.now
      ∧ t.timing.refState = .locked ∧ t.timing.lastPulse = some s'.now
      ∧ t.ports = s.ports ∧ t.straps = s.straps ∧ t.pending = s.pending
    (s.timing.refState ≠ .locked →
      (2 * (s'.now - s.timing.lastTick) < period s.timing.rate →
        exec (.referencePulse elapsed) s = finish (raise (.refLocked s.timing.refState)
          { s' with timing := { s.timing with refState := .locked, lastPulse := some s'.now } }))
      ∧ (period s.timing.rate ≤ 2 * (s'.now - s.timing.lastTick) → ticks))
    ∧ ∀ last, s.timing.refState = .locked → s.timing.lastPulse = some last →
        (8 * (s'.now - last) < 7 * period s.timing.rate → exec (.referencePulse elapsed) s = finish s')
        ∧ (7 * period s.timing.rate ≤ 8 * (s'.now - last) → 2 * (s'.now - last) ≤ 3 * period s.timing.rate → ticks)
        ∧ ∃ t, exec .lossWindowExpiry s = .next t ∧ s.ticksTo t
          ∧ t.now = max s.now (last + 3 * period s.timing.rate / 2)
          ∧ t.timing.refState = .holdover ∧ t.timing.lastPulse = none
          ∧ t.ports = s.ports ∧ t.straps = s.straps ∧ t.pending = s.pending

/-- R6, R10, R11: at a picture tick of the oscillator, of a pulse or of the loss expiry the cues at distance 0 and those
at D/2 or more leave the list and the others stay, or every cue leaves when a rate takes. The cues fire in ascending order
of distance, late ones first, in insertion order where distances are equal; a firing cue leaves the list, does what the
matching request would do, changes nothing when that is refused, and raises a CUE notice with the request's code. What a
cue's CODER_SET stages waits for the tick after, and a cue's SCENE_RECALL for the block tick after (the model's reading,
notes/assumptions/17.md). -/
def Obligations.CuesThatFireLeaveTheList : Prop :=
  (∀ (s t : State) (i : Instr), s.ticksBy i → (s.timing.cues.map fun c => c.id).Nodup → exec i s = .next t →
      t.timing.cues =
        match s.timing.stagedRate with
        | some _ => []
        | none => s.timing.cues.filter fun c =>
            let d := distance s.timing.rate s.tickTimecode c.target
            decide (0 < d) && decide (d < dayLength s.timing.rate / 2))
  ∧ (∀ (s t : State) (i : Instr) (cue : Cue), s.ticksBy i → exec i s = .next t → s.timing.stagedRate = none →
      cue ∈ s.timing.cues → s.cueFires cue → (∀ d ∈ s.timing.cues, d ≠ cue → ¬s.cueFires d) → s.timing.cues.Nodup →
      (∀ (c : Fin 6) (w : Byte), cue.action = .coderSet → cue.body = [byteOf c.val, 0, 4, w] → w.toNat ≤ 15 →
        (newBounds s.coders[c] s.coders[c].staged).1 ≤ (newBounds s.coders[c] s.coders[c].staged).2 →
        t.coders[c].staged = { Staged.empty with weight := some (max 1 w.toNat) }
          ∧ t.coders[c].weight = s.coders[c].staged.weight.getD s.coders[c].weight)
      ∧ ∀ (slot : Fin 16) (high low : Byte) (scene : Scene), cue.action = .sceneRecall →
          cue.body = [byteOf slot.val, high, low] → s.mixer.scenes[slot] = some scene → s.mixer.changes.length < 64 →
          t.mixer.changes = [.recallScene slot (min 255 (high.toNat * 256 + low.toNat)) scene])
  ∧ (∀ (due : Vector Staged 6) (s : State), ∃ fired : List (CueOutcome × Cue),
      fireCues due s = fired.foldl (fun u e => fireCue due e.1 u e.2) s
        ∧ (∀ e ∈ fired, s.cueAway e.2 = 0 ∧ e.1 = .onTime
            ∨ dayLength s.timing.rate / 2 ≤ s.cueAway e.2 ∧ e.1 = .late)
        ∧ fired.Pairwise (fun a b => a.1 = .late ∧ b.1 = .onTime ∨ a.1 = b.1 ∧ s.cueAway a.2 ≤ s.cueAway b.2)
        ∧ ∀ d : Nat, d = 0 ∨ dayLength s.timing.rate / 2 ≤ d →
            (fired.map fun e => e.2).filter (fun c => s.cueAway c == d) =
              s.timing.cues.filter fun c => s.cueAway c == d)
  ∧ (∀ (due : Vector Staged 6) (outcome : CueOutcome) (s : State) (cue : Cue),
      let left := { s with timing := { s.timing with cues := s.timing.cues.filter fun d => d.id != cue.id } }
      let result := performAction due cue.action cue.body left
      let notice : Notice := ⟨.cue cue.id cue.action outcome cue.target result.1.code, s.timing.timecode⟩
      fireCue due outcome s cue = { result.2 with control := queueNotice notice result.2.control }
        ∧ (result.1.code ≠ .ok → result.1.code ≠ .accepted → result.2 = left))
  ∧ ∀ (s : State) (body : List Byte),
      let does := fun action => performAction noneDue action body s
      (∀ action, actionLengthOk action body = false → does action = (⟨.badLength, .none⟩, s))
      ∧ (s.asks .coderSet body → exec .coderSet s = answered (does .coderSet).1 (does .coderSet).2)
      ∧ (s.asks .sceneRecall body → exec .sceneRecall s = answered (does .sceneRecall).1 (does .sceneRecall).2)
      ∧ (s.asks .clipMark body → exec .clipMark s = answered (does .clipMark).1
          (if (does .clipMark).1.code = .ok then serve (does .clipMark).2 else (does .clipMark).2))
      ∧ (s.asks .clipOpen body → ∃ control, exec .clipOpen s =
          answered (does .clipOpen).1 { (does .clipOpen).2 with control := control })
      ∧ (s.asks .clipClose body →
          let closed := (does .clipClose).2
          let byRequest := fun k : Clip =>
            if k.id = field body 0 2 then { k with closeOrigin := k.closeOrigin.map fun _ => .request } else k
          ((does .clipClose).1.code ≠ .accepted → exec .clipClose s = answered (does .clipClose).1 s)
          ∧ ((does .clipClose).1.code = .accepted → ∃ control,
              exec .clipClose s = answered (does .clipClose).1 (serve { closed with
                control := control
                clipLog := { closed.clipLog with clips := closed.clipLog.clips.map byRequest } })))

/-! ## Video ports and the picture coder (02, 03) -/

/-- R14, R15: a picture of 1080 or 720 active lines starts on its port, which is PRESENT from then on, and every channel
whose source is the port has the new state; a picture of any other line count is no picture start. -/
def Obligations.APictureStartMakesThePortPresent : Prop :=
  ∀ (s : State) (elapsed : Nat) (port : Fin 8) (lines : Nat) (pairs : Vector Bool 4),
    (lines ≠ 1080 → lines ≠ 720 →
      exec (.videoPictureStart elapsed port lines pairs) s = finish { s with now := s.now + elapsed })
    ∧ ∀ format : Format, format.lines = lines →
      ∃ t, exec (.videoPictureStart elapsed port lines pairs) s = .next t
        ∧ t.now = s.now + elapsed
        ∧ t.ports[port].input = .present ∧ t.ports[port].lastStart = some t.now
        ∧ t.ports[port].arriving = some ⟨format, pairs, false⟩ ∧ t.ports[port].held = s.ports[port].held
        ∧ (∀ other : Fin 8, other ≠ port → t.ports[other] = s.ports[other])
        ∧ (s.ports[port].input = .lost → t.ports[port].heldNew = false
            ∧ ∀ c : Fin 6, t.coders[c] =
                if s.coders[c].source = port then { s.coders[c] with input := .present } else s.coders[c])
        ∧ (s.ports[port].input = .present → t.coders = s.coders ∧ t.ports[port].heldNew = s.ports[port].heldNew)
        ∧ t = { s with now := t.now, ports := t.ports, coders := t.coders, mixer := t.mixer, control := t.control }

/-- R14, R15: the picture that has arrived whole becomes the held picture, in its own format, and is new since the return;
the samples of a picture of any other line count are ignored; a port whose loss window expires is LOST, with no held
picture and no last picture start, and every channel whose source is the port has the new state. The model's choices
(notes/assumptions/18.md, unsafe): an end of a picture that is not arriving, that is complete already or that started in
the other format has no effect, and a picture whose lines or chroma planes have another size than its format's is held as a
picture of that format, of samples of which nothing is said. -/
def Obligations.APictureIsHeldUntilTheLoss : Prop :=
  (∀ (s : State) (elapsed : Nat) (port : Fin 8) (picture : Picture),
    let s' := { s with now := s.now + elapsed }
    (s.ports[port].arriving = none → exec (.videoPictureComplete elapsed port picture) s = finish s')
    ∧ (picture.luma.length ≠ picture.format.lines → exec (.videoPictureComplete elapsed port picture) s = finish s')
    ∧ ∀ a, s.ports[port].arriving = some a →
        (a.complete = true ∨ a.format ≠ picture.format →
          exec (.videoPictureComplete elapsed port picture) s = finish s')
        ∧ (a.complete = false → a.format = picture.format → picture.luma.length = picture.format.lines →
            ∃ held : Picture, held.format = picture.format ∧ held.wellFormed = true
              ∧ (picture.wellFormed = true → held = picture)
              ∧ exec (.videoPictureComplete elapsed port picture) s =
                  finish { s' with ports := vecSet s.ports port { s.ports[port] with
                    held := some held, heldNew := true, arriving := some { a with complete := true } } }))
  ∧ ∀ (s : State) (port : Fin 8) (start : Nat), s.ports[port].lastStart = some start →
      ∃ t, exec (.inputLossExpiry port) s = .next t
        ∧ t.now = max s.now (start + 3 * period s.timing.rate / 2)
        ∧ t.ports = vecSet s.ports port ⟨.lost, none, none, false, none⟩
        ∧ (∀ c : Fin 6, t.coders[c] =
            if s.coders[c].source = port then { s.coders[c] with input := .lost } else s.coders[c])
        ∧ t = { s with now := t.now, ports := t.ports, coders := t.coders, mixer := t.mixer, control := t.control }

/-- R18, R206 with Table 2-3: each of the nine fields is staged, clamped, beside the fields already staged, and all nine
together replace them; a mode, a source, a weight or an index out of range is refused, and so are bounds out of order, a
channel of 6 or more and a mask bit that is not defined; from an active mode only OFF and STANDBY may be requested, and
RECORD and BOTH wait for 1024 initialised pages; a request that gives no field is answered OK. -/
def Obligations.CoderSetStagesAllowedFields : Prop :=
  (∀ (s : State) (n : Byte) (body : List Byte), s.asks .coderSet (n :: body) → lengthOk .coderSet (n :: body) = true →
    6 ≤ n.toNat ∨ (∃ high rest, body = high :: rest ∧ 2 ≤ high.toNat) → exec .coderSet s = refusedWith .badValue s)
  ∧ ∀ (s : State) (c : Fin 6),
    (newBounds s.coders[c] s.coders[c].staged).1 ≤ (newBounds s.coders[c] s.coders[c].staged).2 →
    let staging := fun staged : Staged => answered ⟨.accepted, .staged staged⟩
      { s with coders := vecSet s.coders c { s.coders[c] with staged := staged } }
    let old := s.coders[c].staged
    let low := (newBounds s.coders[c] old).1
    let high := (newBounds s.coders[c] old).2
    (∀ p : Byte, s.asks .coderSet [byteOf c.val, 0, 2, p] →
      (8 ≤ p.toNat → exec .coderSet s = refusedWith .badValue s)
      ∧ ∀ port : Fin 8, p.toNat = port.val → exec .coderSet s = staging { old with source := some port })
    ∧ (∀ h l : Byte, s.asks .coderSet [byteOf c.val, 0, 16, h, l] →
        exec .coderSet s =
          staging { old with recordRate := some (max 1 (min 4095 (h.toNat * 256 + l.toNat))) })
    ∧ (∀ q : Byte, s.asks .coderSet [byteOf c.val, 0, 32, q] →
        exec .coderSet s = if 51 < q.toNat ∨ high < q.toNat then refusedWith .badValue s
          else staging { old with qMin := some q.toNat })
    ∧ (∀ q : Byte, s.asks .coderSet [byteOf c.val, 0, 64, q] →
        exec .coderSet s = if 51 < q.toNat ∨ q.toNat < low then refusedWith .badValue s
          else staging { old with qMax := some q.toNat })
    ∧ (∀ g : Byte, s.asks .coderSet [byteOf c.val, 0, 128, g] →
        exec .coderSet s = staging { old with segLength := some (max 10 (min 100 g.toNat)) })
    ∧ (∀ d : Byte, s.asks .coderSet [byteOf c.val, 1, 0, d] →
        exec .coderSet s = staging { old with liveDeadline := some (max 1 (min 8 d.toNat)) })
    ∧ (∀ (m p w fh fl rh rl q1 q2 g d : Byte) (mode : CoderMode) (port : Fin 8),
        s.asks .coderSet [byteOf c.val, 1, 255, m, p, w, fh, fl, rh, rl, q1, q2, g, d] →
        modeOf m.toNat = some mode → p.toNat = port.val → w.toNat ≤ 15 → q1.toNat ≤ 51 → q2.toNat ≤ 51 →
        (q2.toNat < q1.toNat → exec .coderSet s = refusedWith .badValue s)
        ∧ (q1.toNat ≤ q2.toNat → mode ∈ [CoderMode.off, .standby] → exec .coderSet s = staging
            { mode := some mode
              source := some port
              weight := some (max 1 w.toNat)
              floor := some (min 4095 (fh.toNat * 256 + fl.toNat))
              recordRate := some (max 1 (min 4095 (rh.toNat * 256 + rl.toNat)))
              qMin := some q1.toNat
              qMax := some q2.toNat
              segLength := some (max 10 (min 100 g.toNat))
              liveDeadline := some (max 1 (min 8 d.toNat)) }))
    ∧ (∀ m : Byte, s.asks .coderSet [byteOf c.val, 0, 1, m] → 5 ≤ m.toNat → exec .coderSet s = refusedWith .badValue s)
    ∧ (∀ w : Byte, s.asks .coderSet [byteOf c.val, 0, 4, w] →
      exec .coderSet s =
        if w.toNat ≤ 15 then staging { s.coders[c].staged with weight := some (max 1 w.toNat) }
        else refusedWith .badValue s)
    ∧ (∀ high low : Byte, s.asks .coderSet [byteOf c.val, 0, 8, high, low] →
        exec .coderSet s =
          staging { s.coders[c].staged with floor := some (min 4095 (high.toNat * 256 + low.toNat)) })
    ∧ (s.asks .coderSet [byteOf c.val, 0, 0] → exec .coderSet s = answered ⟨.ok, .none⟩ s)
    ∧ ∀ (m : Byte) (mode : CoderMode), s.asks .coderSet [byteOf c.val, 0, 1, m] → modeOf m.toNat = some mode →
        exec .coderSet s =
          if s.coders[c].mode ∈ [CoderMode.live, .record, .both] ∧ mode ∈ [CoderMode.live, .record, .both] then
            refusedWith .badState s
          else if mode ∈ [CoderMode.record, .both] ∧ s.store.initPosition < 1024 then refusedWith .notReady s
          else staging { s.coders[c].staged with mode := some mode }

/-- R17, R20 to R23, R73, R98 with R45: the take writes the staged fields into the record, keeps q within the bounds and has the
allocator compute its figures from the new mode, weight and floor; a channel that becomes active starts fresh, at q = 26
within its bounds, and its writer starts when it records; one that leaves an active mode has its filling segment closed
with its writer, keeps of its live buffer only what has begun, and has F, Bv, forced repeat and rate state cleared; no
other channel and no port changes. When a channel leaves recording its filling segment becomes COMPLETE with reason LEAVE,
a pause ends with outcome LEFT, a CLOSING clip that waits on the segment completes, and every OPEN clip of the channel
closes at the last picture of its range. At a picture tick every staged change takes, or, at a rate take, is discarded and
every active channel goes to STANDBY and starts no picture. A new source's input state is copied, and reported when it
differs and the channel is OFF neither before nor after; the take raises TAKEN and, out of OFF with its input PRESENT,
INPUT_BACK; a rate take raises DISCARDED and TAKEN. Six things are the model's choices and no rule's: the P that
measures gaps at a rate take (notes/assumptions/44.md), the count of a gap still open (notes/assumptions/19.md), the order
of timecodes in the future (notes/assumptions/39.md), the order of one take's notices (notes/assumptions/14.md, unsafe),
that an OPEN clip with a point left pending by a cue of the same tick closes like the others with its flags cleared
(notes/assumptions/42.md, unsafe: R98 says that none is pending then), and that the figures after any take are those of the
P in force, also after a take of which R20 says that it changes no published figure (notes/assumptions/49.md, unsafe
between a rate take and the next recompute). -/
def Obligations.ATakeWritesTheStagedFields : Prop :=
  (∀ (s : State) (c : Fin 6),
    let w := s.store.writers[c]
    let filling := s.coders[c].filling
    let t := leaveRecording c s
    t.store.writers[c] = ⟨.idle, none, 0⟩
    ∧ (s.clipLog.clips = [] → 256 ≤ s.store.freePool.length → t.control = if w.state = .paused then queueNotice
        ⟨.storeResumed c none (w.gapStart.getD s.timing.timecode) w.unstored, s.timing.timecode⟩ s.control else s.control)
    ∧ ((s.clipLog.clips.map fun k => k.id).Nodup →
        (∀ k ∈ s.clipLog.clips, k.range.Nodup ∧ ∀ id ∈ filling, id ∈ k.range → k.range.getLast? = some id) →
        (256 ≤ s.store.freePool.length
          ∨ ∀ k ∈ s.clipLog.clips, ∀ id ∈ k.range, ∀ g, s.segment? id = some g → 0 < g.pinCount) →
        (∀ id g, filling = some id → s.segment? id = some g → 256 ≤ s.store.freePool.length ∨ 0 < g.pinCount →
          t.segment? id = some { g with
              state := .complete, closeReason := some .leave, byteLength := g.byteLength + g.byteLength % 2 }
            ∧ id ∈ t.store.completion)
        ∧ ∀ i k, s.clip? i = some k →
            let ended := if w.state = .paused then { k with gaps := k.gaps.map fun gap =>
                { gap with count := some (gap.count.getD (distance s.timing.rate gap.start s.timing.timecode)) } } else k
            (k.record = .opened → k.channel = c →
              t.clip? i = some (s.closedClip ended k.range.getLast? [] (s.lastOf k)))
            ∧ (∀ id g, filling = some id → s.segment? id = some g → k.record = .closing → k.outSegment = some id →
                t.clip? i = some (s.closedClip k (some id) [] (k.outPoint.getD k.inPoint)))
            ∧ (k.record ≠ .opened ∨ k.channel ≠ c → (k.record = .closing → k.outSegment ≠ filling) →
                t.clip? i = some k)))
  ∧ (∀ (s t : State) (i : Instr), s.ticksBy i → exec i s = .next t → s.timing.cues = [] → ∀ c : Fin 6,
    let active := [CoderMode.live, .record, .both]
    t.coders[c].staged = Staged.empty ∧ t.coders[c].handed = false
      ∧ (s.timing.stagedRate = none →
          t.coders[c].mode = s.coders[c].staged.mode.getD s.coders[c].mode
          ∧ t.coders[c].weight = s.coders[c].staged.weight.getD s.coders[c].weight
          ∧ t.coders[c].segLength = s.coders[c].staged.segLength.getD s.coders[c].segLength
          ∧ (t.coders[c].inFlight = none ↔ t.coders[c].mode ∉ active))
      ∧ ∀ p, s.timing.stagedRate = some p →
          t.coders[c].mode = (if s.coders[c].mode ∈ active then .standby else s.coders[c].mode)
          ∧ t.coders[c].weight = s.coders[c].weight ∧ t.coders[c].segLength = s.coders[c].segLength
          ∧ t.coders[c].inFlight = none
          ∧ (s.coders[c].mode ∈ active → t.coders[c].fullness = 0 ∧ t.coders[c].bufferSize = 0
              ∧ t.coders[c].forcedRepeat = false ∧ t.coders[c].rateState = .full)
          ∧ (s.coders[c].mode ∈ [CoderMode.live, .both] → ∀ picture ∈ t.coders[c].liveBuffer, picture.started ≠ 0)
          ∧ (s.coders[c].mode ∈ [CoderMode.record, .both] → t.coders[c].filling = none
              ∧ t.store.writers[c] = ⟨.idle, none, 0⟩))
  ∧ ∀ (s : State) (c : Fin 6) (staged : Staged),
    let old := s.coders[c]
    let t := takeStaged c staged s
    let new := t.coders[c]
    new.mode = staged.mode.getD old.mode ∧ new.source = staged.source.getD old.source
      ∧ new.weight = staged.weight.getD old.weight ∧ new.floor = staged.floor.getD old.floor
      ∧ new.recordRate = staged.recordRate.getD old.recordRate
      ∧ new.qMin = staged.qMin.getD old.qMin ∧ new.qMax = staged.qMax.getD old.qMax
      ∧ new.segLength = staged.segLength.getD old.segLength
      ∧ new.liveDeadline = staged.liveDeadline.getD old.liveDeadline
      ∧ (new.qMin ≤ new.qMax → new.qMin ≤ new.q ∧ new.q ≤ new.qMax)
      ∧ (old.mode ∈ [CoderMode.off, .standby] → new.mode ∈ [CoderMode.live, .record, .both] →
          new.fullness = 0 ∧ new.forcedRepeat = false ∧ new.sequence = 0
          ∧ (new.qMin ≤ new.qMax → new.q = max new.qMin (min new.qMax 26))
          ∧ (new.mode ∈ [CoderMode.record, .both] → t.store.writers[c] = ⟨.writing, none, 0⟩))
      ∧ (old.mode ∈ [CoderMode.live, .record, .both] → new.mode ∈ [CoderMode.off, .standby] →
          new.fullness = 0 ∧ new.bufferSize = 0 ∧ new.forcedRepeat = false ∧ new.rateState = .full
          ∧ (old.mode ∈ [CoderMode.live, .both] →
              new.liveBuffer = old.liveBuffer.filter fun picture => picture.started ≠ 0)
          ∧ (old.mode ∈ [CoderMode.record, .both] → new.filling = none ∧ t.store.writers[c] = ⟨.idle, none, 0⟩
              ∧ t.store = (leaveRecording c s).store ∧ t.clipLog = (leaveRecording c s).clipLog))
      ∧ (old.mode ∈ [CoderMode.record, .both] →
          let left := coderRateTake c staged s
          left.store = (leaveRecording c s).store ∧ left.clipLog = (leaveRecording c s).clipLog)
      ∧ t.alloc.live[c] = decide (new.mode ∈ [CoderMode.live, .both]) ∧ t.alloc.weight[c] = new.weight
      ∧ t.alloc.floor[c] = new.floor ∧ computeFigures s.timing.rate t.alloc = t.alloc
      ∧ (∀ other : Fin 6, other ≠ c → t.alloc.live[other] = s.alloc.live[other]
          ∧ t.alloc.weight[other] = s.alloc.weight[other] ∧ t.alloc.floor[other] = s.alloc.floor[other])
      ∧ (∀ other : Fin 6, other ≠ c → t.coders[other] = s.coders[other])
      ∧ t.ports = s.ports ∧ t.timing = s.timing ∧ t.mixer = s.mixer
      ∧ new.input = (match staged.source with
        | none => old.input
        | some port => s.ports[port].input)
      ∧ (let notice := fun (body : NoticeBody) (control : Control) => queueNotice ⟨body, s.timing.timecode⟩ control
         let reported := fun (state : InputState) =>
          match state with
          | .lost => NoticeBody.inputLost c new.source
          | .present => NoticeBody.inputBack c new.source
         let computed := fun (live : Bool) (weight floor : Nat) (figures : Allocation) (control : Control) =>
          (recompute .coderTake { s with
            alloc := { figures with
              live := vecSet figures.live c live
              weight := vecSet figures.weight c weight
              floor := vecSet figures.floor c floor }
            control := control }).control
         let leaves := fun (after : CoderMode) (first ended : Control) (figures : Allocation) =>
          (old.mode ∉ [CoderMode.record, .both] ∨ after ∈ [CoderMode.record, .both] →
            ended = first ∧ figures = s.alloc)
          ∧ (old.mode ∈ [CoderMode.record, .both] → after ∉ [CoderMode.record, .both] → s.clipLog.clips = [] →
              256 ≤ s.store.freePool.length → figures = s.alloc ∧ ended =
                if s.store.writers[c].state = .paused then
                  notice (.storeResumed c none (s.store.writers[c].gapStart.getD s.timing.timecode)
                    s.store.writers[c].unstored) first
                else first)
         let changed : Staged :=
          { mode := staged.mode.filter (· ≠ old.mode)
            source := staged.source.filter (· ≠ old.source)
            weight := staged.weight.filter (· ≠ old.weight)
            floor := staged.floor.filter (· ≠ old.floor)
            recordRate := staged.recordRate.filter (· ≠ old.recordRate)
            qMin := staged.qMin.filter (· ≠ old.qMin)
            qMax := staged.qMax.filter (· ≠ old.qMax)
            segLength := staged.segLength.filter (· ≠ old.segLength)
            liveDeadline := staged.liveDeadline.filter (· ≠ old.liveDeadline) }
         let copied := if new.input ≠ old.input ∧ old.mode ≠ .off ∧ new.mode ≠ .off then
            notice (reported new.input) s.control
          else s.control
         (∃ ended figures, leaves new.mode copied ended figures
          ∧ (let taken := notice (.taken c .set old.mode new.mode changed)
              (computed (decide (new.mode ∈ [CoderMode.live, .both])) new.weight new.floor figures ended)
             t.control = if old.mode = .off ∧ new.mode ≠ .off ∧ new.input = .present then
                notice (.inputBack c new.source) taken
              else taken))
         ∧ (let left := coderRateTake c staged s
            let discarded := if staged = Staged.empty then s.control else notice (.discarded c staged) s.control
            (old.mode ∉ [CoderMode.live, .record, .both] → left = { s with control := discarded })
            ∧ (old.mode ∈ [CoderMode.live, .record, .both] → left.coders[c].mode = .standby
                ∧ ∃ ended figures, leaves .standby discarded ended figures
                  ∧ left.control = notice (.taken c .rateChange old.mode .standby
                      { Staged.empty with mode := some .standby }) (computed false old.weight old.floor figures ended))))

/-- R35, R39, R58, R59, R69: picture coded stamps and counts the picture, hands it to the live buffer of a live channel and
to the writer of a recording one, updates F, forced repeat and q by its size, and ends its flight; the other channels'
counts, the ports, the timing and the mixer are left alone. A picture that joins a live buffer without room makes the
oldest picture not begun leave first, a begun one last, each counted as a late drop that sets F to Bv; an overflow raises
OVERFLOW. Before the scheduler's choices of the same event the live buffer of a live channel is the old one with the coded
picture, its timecode, its sequence, the tick at which it was coded and its deadline tick (R178) at the end. A channel with
no picture in flight is left as it is (the model's choice, notes/assumptions/2.md). -/
def Obligations.PictureCodedCountsThePicture : Prop :=
  (∀ (s : State) (c : Fin 6) (p : LivePicture),
    let k := s.coders[c]
    let t := joinLive c p s
    let named := fun q : LivePicture => (q.timecode, q.sequence, q.bytes, q.started)
    (occupancy k.liveBuffer + p.bytes.length ≤ 262144 →
      t.coders[c] = { k with liveBuffer := k.liveBuffer ++ [{ p with truncate := s.sched.truncatePending[c] }] }
        ∧ t.sched.truncatePending[c] = false)
    ∧ (262144 < occupancy k.liveBuffer + p.bytes.length → ∀ before old after, k.liveBuffer = before ++ old :: after →
        (∀ q ∈ before, q.started ≠ 0) → (old.started = 0 ∨ before = [] ∧ ∀ q ∈ after, q.started ≠ 0) →
        occupancy (before ++ after) + p.bytes.length ≤ 262144 →
          t.coders[c].liveBuffer.map named = (before ++ after ++ [p]).map named
            ∧ t.coders[c].lateDrops = k.lateDrops + 1 ∧ t.coders[c].fullness = k.bufferSize
            ∧ t.control = queueNotice ⟨.liveFull c old.timecode old.sequence, s.timing.timecode⟩ s.control)
    ∧ (p.bytes.length ≤ 262144 → occupancy t.coders[c].liveBuffer ≤ 262144
        ∧ ∃ kept, t.coders[c].liveBuffer.map named = kept ++ [named p] ∧ kept.Sublist (k.liveBuffer.map named)))
  ∧ (∀ (s : State) (c : Fin 6) (f : InFlight) (sequence : Seq) (bytes : Nat),
      let k := s.coders[c]
      let raw := k.fullness + bytes - k.byteBudget
      let t := rateControl c f sequence bytes s
      t.coders[c] = { k with
          fullness := min raw k.bufferSize
          forcedRepeat := k.forcedRepeat || decide (0 < k.bufferSize ∧ k.bufferSize < raw)
          q := nextIndex (min raw k.bufferSize) k.bufferSize k.qMin k.qMax f.qStart }
        ∧ t.control = (if 0 < k.bufferSize ∧ k.bufferSize < raw then
            queueNotice ⟨.overflow c sequence f.timecode bytes k.byteBudget raw, s.timing.timecode⟩ s.control
          else s.control)
        ∧ t = { s with coders := vecSet s.coders c t.coders[c], control := t.control })
  ∧ ∀ (s : State) (elapsed : Nat) (c : Fin 6),
    (s.coders[c].inFlight = none → exec (.pictureCoded elapsed c) s = finish (serve { s with now := s.now + elapsed }))
    ∧ (∀ f, s.coders[c].inFlight = some f →
        ∃ u t, exec (.pictureCoded elapsed c) s = finish (serve u) ∧ exec (.pictureCoded elapsed c) s = .next t
          ∧ (let k := s.coders[c]
              let bytes := (codePicture c k.sequence k.qMax f).1
              let deadline := s.sched.tickCount + BitVec.ofNat 32 k.liveDeadline
              let picture : LivePicture := ⟨k.sequence, f.timecode, f.kind, bytes, 0, s.sched.tickCount, deadline, false⟩
              (k.mode ∈ [CoderMode.live, .both] →
                u.coders[c].liveBuffer = (joinLive c picture s).coders[c].liveBuffer
                ∧ u.sched.truncatePending[c] = false
                ∧ (occupancy k.liveBuffer + bytes.length ≤ 262144 → u.coders[c].liveBuffer = k.liveBuffer ++
                    [⟨k.sequence, f.timecode, f.kind, bytes, 0, s.sched.tickCount, deadline, s.sched.truncatePending[c]⟩]))
              ∧ (k.mode ∉ [CoderMode.live, .both] → u.coders[c].liveBuffer = k.liveBuffer))
          ∧ t.now = s.now + elapsed
          ∧ t.coders[c].sequence = s.coders[c].sequence + 1
          ∧ t.coders[c].coded = s.coders[c].coded + 1
          ∧ t.coders[c].repeats = s.coders[c].repeats + (if f.kind = .coded then 0 else 1)
          ∧ t.coders[c].inFlight = none ∧ t.coders[c].handed = true ∧ t.coders[c].mode = s.coders[c].mode
          ∧ (let k := s.coders[c]
              let coded := codePicture c k.sequence k.qMax f
              let bytes := coded.1.length
              let live := k.mode ∈ [CoderMode.live, .both]
              let drops := live ∧ k.liveBuffer ≠ [] ∧ 262144 < occupancy k.liveBuffer + bytes
              let raw := (if drops then k.bufferSize else k.fullness) + bytes - k.byteBudget
              t.coders[c].cutPictures = k.cutPictures + (if coded.2.isSome then 1 else 0)
              ∧ t.coders[c].fullness = min raw k.bufferSize
              ∧ t.coders[c].forcedRepeat = (k.forcedRepeat || decide (0 < k.bufferSize ∧ k.bufferSize < raw))
              ∧ t.coders[c].q = nextIndex (min raw k.bufferSize) k.bufferSize k.qMin k.qMax f.qStart
              ∧ (k.mode ∉ [CoderMode.record, .both] → (t.store.segments.map fun g => (g.id, g.byteLength)).Sublist
                  (s.store.segments.map fun g => (g.id, g.byteLength)))
              ∧ (k.mode ∈ [CoderMode.record, .both] → s.store.writers[c].state ≠ .paused → ∀ id g,
                  k.filling = some id → s.segment? id = some g → g.state = .filling → id ∉ s.store.completion →
                  distance g.rate (lastPicture g) f.timecode = 1 → g.pictures + 1 < g.segLength →
                  g.byteLength + bytes ≤ g.pages.length * 65536 → g.byteLength + bytes ≤ 4194304 →
                    ∃ h, t.segment? id = some h ∧ h = { g with
                      pictures := g.pictures + 1
                      index := g.index ++ [g.byteLength]
                      byteLength := g.byteLength + bytes
                      digest := onesAddBytes g.digest g.byteLength coded.1
                      pinCount := h.pinCount }))
          ∧ (∀ other : Fin 6, other ≠ c →
              t.coders[other].sequence = s.coders[other].sequence ∧ t.coders[other].coded = s.coders[other].coded
                ∧ t.coders[other].q = s.coders[other].q ∧ t.coders[other].inFlight = s.coders[other].inFlight)
          ∧ t.ports = s.ports ∧ t.timing = s.timing ∧ t.mixer = s.mixer ∧ t.pending = s.pending)

/-- R36, R57: the kind of a picture is decided by the first of the five cases that applies; Bp is 31 bytes for each cell
of the budget read, Bv four times Bp, F is kept within Bv, and what the picture holds for its whole flight is read. -/
def Obligations.APictureStartChoosesKindAndBudget : Prop :=
  ∀ (s : State) (c : Fin 6),
    let k := s.coders[c]
    let port := s.ports[k.source]
    let live := k.mode ∈ [CoderMode.live, .both]
    let state := if live then s.alloc.rateState[c] else .full
    let budget := if live then s.alloc.budget[c] else k.recordRate
    let t := pictureStart c s
    ∃ f, t.coders[c] = { k with
          rateState := state
          byteBudget := budget * 31
          bufferSize := 4 * (budget * 31)
          fullness := min k.fullness (4 * (budget * 31))
          forcedRepeat := false
          inFlight := some f }
      ∧ f.picture = port.held ∧ f.qStart = k.q ∧ f.byteBudget = budget * 31 ∧ f.timecode = s.timing.timecode
      ∧ (k.input = .lost ∨ port.held = none ∨ port.heldNew = false → f.kind = .repeated .input)
      ∧ (k.input = .present → port.held ≠ none → port.heldNew = true →
          (k.forcedRepeat = true → f.kind = .repeated .overflow)
          ∧ (k.forcedRepeat = false →
              (state = .starved → f.kind = .repeated .starved)
              ∧ (state = .halfRate → s.timing.timecode.ff % 2 = 1 → f.kind = .repeated .halfRate)
              ∧ (state = .halfRate → s.timing.timecode.ff % 2 = 0 → f.kind = .coded)
              ∧ (state = .full → f.kind = .coded)))
      ∧ (∀ other : Fin 6, other ≠ c → t.coders[other] = s.coders[other])
      ∧ t = { s with coders := t.coders }

/-- R25 to R33, R59, R60 with Tables 2-4 and 3-5: the steps of the quantiser double every six indices; a block's
coefficients are the sums of its centred samples under the signs of the transform; a DC level is the nearest quotient and
an AC level rounds up from two thirds, both within −1023..1023; the bits of a coefficient token and of a SKIP token; a
slice is four lines, its groups left to right, each its left and right luma block, its Cb and its Cr block with the samples
of its own place; the bits of a slice are packed from the most significant bit of its first byte on, with zeros to the next
byte; a picture is its header and its slices, each a header and its bits; the slice guard raises the index by one, not above q_max; a coded picture has at most
262,144 bytes and a REPEAT has its header alone; and the next q is the one the picture started at, changed by the fullness
as a fraction of Bv in sixteenths, and kept within the bounds. The bytes of a picture that the size limit cuts are the
model's reading: after the cut the slice guard goes on with the sizes of the slices as they were coded, and the header of an
all-empty slice gives the index at that point (notes/assumptions/32.md, unsafe for exactly those bytes), and the header of a
REPEAT gives the format of the held picture, or none. Where the fields lie within a header is left open
(notes/assumptions/9.md). -/
def Obligations.TheNextQuantiserFollowsTheFullness : Prop :=
  ((List.range 6).map quantiserStep = [8, 9, 10, 11, 13, 14] ∧ ∀ q, quantiserStep (q + 6) = 2 * quantiserStep q)
  ∧ (∀ block : Fin 4 → Fin 4 → Pixel,
      let signs : List (List Int) := [[1, 1, 1, 1], [1, 1, -1, -1], [1, -1, -1, 1], [1, -1, 1, -1]]
      let sign := fun i x : Nat => ((signs[i]?.getD [])[x]?.getD 0)
      coefficients (List.ofFn fun y => List.ofFn (block y)) = (List.range 4).map fun i => (List.range 4).map fun j =>
        ((List.finRange 4).map fun y => ((List.finRange 4).map fun x =>
          sign i y.val * sign j x.val * (((block y x).toNat : Int) - 512)).sum).sum)
  ∧ (∀ (step : Nat) (c : Int), 0 < step →
      let dc := dcLevel step c
      let ac := acLevel step c
      (-1023 ≤ dc ∧ dc ≤ 1023 ∧ -1023 ≤ ac ∧ ac ≤ 1023)
      ∧ (2 * c.natAbs < 2047 * step → 2 * step * dc.natAbs ≤ 2 * c.natAbs + step
          ∧ 2 * c.natAbs + step < 2 * step * (dc.natAbs + 1) ∧ 0 ≤ c * dc)
      ∧ (2047 * step ≤ 2 * c.natAbs → dc.natAbs = 1023 ∧ 0 ≤ c * dc)
      ∧ (3 * c.natAbs < 3071 * step → 3 * step * ac.natAbs ≤ 3 * c.natAbs + step
          ∧ 3 * c.natAbs + step < 3 * step * (ac.natAbs + 1) ∧ 0 ≤ c * ac))
  ∧ (∀ predictor level : Int, -1023 ≤ dcDifference predictor level ∧ dcDifference predictor level ≤ 1023
      ∧ (-1023 ≤ level - predictor → level - predictor ≤ 1023 → dcDifference predictor level = level - predictor)
      ∧ (1023 < level - predictor → dcDifference predictor level = 1023)
      ∧ (level - predictor < -1023 → dcDifference predictor level = -1023))
  ∧ (∀ (p : Predictors) (x : Int) (k other : Component), (p.put x k).get other = if other = k then x else p.get other)
  ∧ (∀ (q : Nat) (block : List (List Pixel)), (∃ pixel : Fin 4 → Fin 4 → Pixel, block = List.ofFn fun y => List.ofFn (pixel y)) →
      let step := quantiserStep q
      let level := fun i j : Nat =>
        let c := ((coefficients block)[i]?.getD [])[j]?.getD 0
        if i = 0 ∧ j = 0 then dcLevel step c else acLevel step c
      let scan : List (Nat × Nat) := [(0, 0), (0, 1), (1, 0), (2, 0), (1, 1), (0, 2), (0, 3), (1, 2), (2, 1), (3, 0),
        (3, 1), (2, 2), (1, 3), (2, 3), (3, 2), (3, 3)]
      ∀ (p : Predictors) (empty : Nat) (k : Component) (rest : List (Component × List (List Pixel))),
        let difference := dcDifference (p.get k) (level 0 0)
        let values := scan.map fun at_ => if at_ = (0, 0) then difference else level at_.1 at_.2
        let p' := p.put (p.get k + difference) k
        sliceBits q p empty ((k, block) :: rest) =
          if ∀ v ∈ values, v = 0 then sliceBits q p' (empty + 1) rest
          else skipToken empty ++ blockTokens 0 values ++ sliceBits q p' 0 rest)
  ∧ (∀ (q : Nat) (p : Predictors) (empty : Nat), sliceBits q p empty [] = skipToken empty ∧ skipToken 0 = [])
  ∧ (∀ run zeros : Nat, blockTokens run (List.replicate zeros 0) = [false, false]
      ∧ ∀ (level : Int) (rest : List Int), level ≠ 0 → blockTokens run (List.replicate zeros 0 ++ level :: rest) =
          coefficientToken (run + zeros) level ++ blockTokens 0 rest)
  ∧ (∀ (slices byteBudget qMax done bytes q : Nat) (cut : Bool) (blocks : List (Component × List (List Pixel)))
        (rest : List (List (Component × List (List Pixel)))),
      let empty := sliceBytes done q true (skipToken blocks.length)
      let coded := if cut then empty else sliceBytes done q false (sliceBits q ⟨0, 0, 0⟩ 0 blocks)
      let exceeds := 262144 < bytes + coded.length + 6 * rest.length
      let slice := if exceeds then empty else coded
      let tail := codeSlices slices byteBudget qMax (done + 1) (bytes + slice.length)
        (guardIndex slices (done + 1) (bytes + coded.length) byteBudget qMax q) (cut || decide exceeds) rest
      codeSlices slices byteBudget qMax done bytes q cut (blocks :: rest) =
        (slice ++ tail.1, if exceeds ∧ cut = false then some done else tail.2))
  ∧ (∀ (run : Nat) (level : Int), level ≠ 0 → ∃ k, 2 ^ k ≤ level.natAbs ∧ level.natAbs < 2 ^ (k + 1)
      ∧ coefficientToken run level = true :: ((List.range 4).map fun i => decide (run / 2 ^ (3 - i) % 2 = 1))
          ++ List.replicate k true ++ false :: ((List.range k).map fun i => decide (level.natAbs / 2 ^ (k - 1 - i) % 2 = 1))
          ++ [decide (level < 0)])
  ∧ (∀ count, 1 ≤ count → skipToken count =
      false :: true :: (List.range 10).map fun i => decide ((count - 1) / 2 ^ (9 - i) % 2 = 1))
  ∧ (∀ bits : List Bool, (packBits bits).length = (bits.length + 7) / 8
      ∧ ∀ i < 8 * ((bits.length + 7) / 8), ∃ byte, (packBits bits)[i / 8]? = some byte
          ∧ byte.getLsbD (7 - i % 8) = bits[i]?.getD false)
  ∧ (∀ p : Picture, p.wellFormed = true → (pictureSlices p).length = p.format.lines / 4
      ∧ (∀ blocks ∈ pictureSlices p, blocks.length = p.format.columns / 2)
      ∧ pictureSlices p = (List.range (p.format.lines / 4)).map fun slice =>
          let block := fun (plane : List (List Pixel)) (left : Nat) => (List.range 4).map fun y =>
            (List.range 4).map fun x => ((plane[4 * slice + y]?.getD [])[left + x]?.getD 0)
          (List.range (p.format.columns / 8)).flatMap fun group =>
            [(.luma, block p.luma (8 * group)), (.luma, block p.luma (8 * group + 4)),
              (.cb, block p.cb (4 * group)), (.cr, block p.cr (4 * group))])
  ∧ (∀ (slices byteBudget qMax done bytes q : Nat) (cut : Bool),
      codeSlices slices byteBudget qMax done bytes q cut [] = ([], none))
  ∧ (∀ (number q : Nat) (cut : Bool) (bits : List Bool),
      sliceBytes number q cut bits = (Config.sliceHeader ⟨number, q, cut⟩).toList ++ packBits bits)
  ∧ (∀ slices done bytes byteBudget qMax q : Nat,
      let next := guardIndex slices done bytes byteBudget qMax q
      (next = q ∨ next = q + 1)
      ∧ (next = q + 1 ↔ done % 16 = 0 ∧ 3 * byteBudget * done < 2 * slices * bytes ∧ q < qMax))
  ∧ (∀ (c : Fin 6) (sequence : Seq) (qMax : Nat) (f : InFlight),
      let coded := codePicture c sequence qMax f
      let header := fun cut => (Config.pictureHeader ⟨f.kind, f.picture.map (fun picture => picture.format), f.qStart, cut, c,
        sequence, f.timecode⟩).toList
      (f.kind ≠ .coded → coded = (header false, none) ∧ coded.1.length = 8)
      ∧ ∀ p, f.kind = .coded → f.picture = some p → p.wellFormed = true →
          (let body := codeSlices (p.format.lines / 4) f.byteBudget qMax 0 8 f.qStart false (pictureSlices p)
           coded = (header body.2.isSome ++ body.1, body.2))
          ∧ 8 + 4 * (p.format.lines / 4) ≤ coded.1.length ∧ coded.1.length ≤ 262144)
  ∧ ∀ fullness bufferSize qMin qMax qStart : Nat, fullness ≤ bufferSize → qMin ≤ qMax →
    let clamped := fun q : Int => (max (qMin : Int) (min (qMax : Int) q)).toNat
    let next := nextIndex fullness bufferSize qMin qMax qStart
    (bufferSize = 0 ∨ 16 * fullness < bufferSize → next = clamped (qStart - 2))
    ∧ (0 < bufferSize → bufferSize ≤ 16 * fullness → 16 * fullness < 4 * bufferSize → next = clamped (qStart - 1))
    ∧ (0 < bufferSize → 4 * bufferSize ≤ 16 * fullness → 16 * fullness < 8 * bufferSize → next = clamped qStart)
    ∧ (0 < bufferSize → 8 * bufferSize ≤ 16 * fullness → 16 * fullness < 12 * bufferSize →
        next = clamped (qStart + 1))
    ∧ (0 < bufferSize → 12 * bufferSize ≤ 16 * fullness → next = clamped (qStart + 3))
    ∧ qMin ≤ next ∧ next ≤ qMax

/-! ## The uplink budget (03) -/

/-- R46 to R50, R52: the capacity, the reservations, what is available, the live budgets in both cases with the cut at
4095, the leftover and K; the budgets never sum to more than what is available. -/
def Obligations.TheFiguresOfARecompute : Prop :=
  ∀ (p : PictureRate) (a : Allocation),
    let out := computeFigures p a
    let floorSum := ((List.finRange 6).map fun c => if a.live[c] then a.floor[c] else 0).sum
    let weightSum := ((List.finRange 6).map fun c => if a.live[c] then a.weight[c] else 0).sum
    let budgetSum := ((List.finRange 6).map fun c => out.budget[c]).sum
    out.capacity = ((List.finRange 4).map fun path => if a.carrying[path] then a.pathRate[path] else 0).sum
      ∧ (∃ perStream, out.audioRes = a.streams * perStream
          ∧ 9750 ≤ perStream * perSecond p ∧ perStream * perSecond p < 9750 + perSecond p)
      ∧ out.clipRes = (if a.clipDemand then out.capacity * a.share / 16 else 0)
      ∧ (out.audioRes + out.clipRes ≤ out.capacity → out.available = out.capacity - (out.audioRes + out.clipRes))
      ∧ (out.capacity < out.audioRes + out.clipRes → out.available = 0)
      ∧ out.floorSum = floorSum ∧ out.weightSum = weightSum
      ∧ (∀ c : Fin 6, a.live[c] = false → out.budget[c] = 0)
      ∧ (floorSum ≤ out.available → ∀ c : Fin 6, a.live[c] = true →
          out.budget[c] = min 4095 (a.floor[c] + (out.available - floorSum) * a.weight[c] / weightSum))
      ∧ (out.available < floorSum → ∀ c : Fin 6, a.live[c] = true →
          out.budget[c] = min 4095 (out.available * a.floor[c] / floorSum))
      ∧ budgetSum ≤ out.available ∧ out.leftover = out.available - budgetSum
      ∧ out.clipAllowance = min 4095 (out.clipRes + out.leftover)

/-- R51: STARVED at budget 0, HALF_RATE below the floor, else FULL. When the floors fit, a channel is FULL, or STARVED with
floor 0 and a share of 0; when they do not, it is HALF_RATE or STARVED, and STARVED with floor 0. A channel that is not live
is FULL. -/
def Obligations.TheRateStateFollowsTheBudget : Prop :=
  ∀ (p : PictureRate) (a : Allocation) (c : Fin 6),
    let out := computeFigures p a
    (a.live[c] = false → out.rateState[c] = .full)
    ∧ (a.live[c] = true →
        (out.budget[c] = 0 → out.rateState[c] = .starved)
        ∧ (0 < out.budget[c] → out.budget[c] < a.floor[c] → out.rateState[c] = .halfRate)
        ∧ (0 < out.budget[c] → a.floor[c] ≤ out.budget[c] → out.rateState[c] = .full)
        ∧ (out.floorSum ≤ out.available → a.floor[c] ≤ 4095 →
            out.rateState[c] = .full
              ∨ out.rateState[c] = .starved ∧ a.floor[c] = 0
                ∧ (out.available - out.floorSum) * a.weight[c] / out.weightSum = 0)
        ∧ (out.available < out.floorSum →
            (0 < a.floor[c] → out.rateState[c] = .halfRate ∨ out.rateState[c] = .starved)
            ∧ (a.floor[c] = 0 → out.rateState[c] = .starved)))

/-- R43, R44, R53: PATH_RATE and CLIP_SHARE store their value, clamped or refused, and the allocator recomputes; a
recompute publishes the figures together, and the allocation number counts on exactly when a budget, a rate state or K
differs from the one published before. That a recompute takes the figures of the P in force whatever its cause is the
model's choice where a rate take before it has recomputed nothing: PATH_RATE of an equal rate then publishes new figures and
counts, by R47 and R53, though R43 says that such a recompute changes no published figure (notes/assumptions/49.md,
unsafe). -/
def Obligations.ARecomputePublishesTheFigures : Prop :=
  (∀ (cause : AllocCause) (s : State),
    let t := recompute cause s
    let figures := computeFigures s.timing.rate s.alloc
    let same := figures.budget = s.alloc.budget ∧ figures.rateState = s.alloc.rateState
      ∧ figures.clipAllowance = s.alloc.clipAllowance
    (same → t = { s with alloc := figures })
      ∧ (¬same → t.alloc = { figures with number := s.alloc.number + 1 }
          ∧ t = { s with alloc := t.alloc, control := t.control }))
  ∧ ∀ s : State,
      (∀ path high low : Byte, s.asks .pathRate [path, high, low] →
        (4 ≤ path.toNat → exec .pathRate s = refusedWith .badValue s)
        ∧ ∀ p : Fin 4, path.toNat = p.val →
          let rate := min 4095 (high.toNat * 256 + low.toNat)
          exec .pathRate s = answered ⟨.ok, .value rate⟩
            (recompute .pathRate { s with alloc := { s.alloc with pathRate := vecSet s.alloc.pathRate p rate } }))
      ∧ ∀ share : Byte, s.asks .clipShare [share] →
        exec .clipShare s =
          if 8 < share.toNat then refusedWith .badValue s
          else answered ⟨.ok, .none⟩ (recompute .clipShare { s with alloc := { s.alloc with share := share.toNat } })

/-! ## Requests that read an item -/

/-- R16, R24, R144, R173: INPUT_INFO, CODER_INFO, PATH_INFO and MIXER_INFO give the item that the number names and change
nothing; a number or a selector that names none is refused. PATH_INFO lists the retry entries from the oldest on, as many
as fit. Six things are the model's choice: that INPUT_INFO counts periods of the P in force (notes/assumptions/31.md), that
PATH_INFO gives the frames in transmission and waiting by kind and length (notes/assumptions/10.md), the replay position as
a start pointer and as absent past the newest entry (notes/assumptions/47.md), 0 as the time remaining of a credit timer that
has expired (notes/assumptions/22.md) and of an ack deadline that has passed (notes/assumptions/56.md, unsafe), and that
MIXER_INFO gives a selection between two pictures by the one that last started (notes/assumptions/52.md). -/
def Obligations.RequestsForAnItem : Prop :=
  ∀ (s : State) (n : Byte),
    (s.asks .inputInfo [n] →
      (8 ≤ n.toNat → exec .inputInfo s = refusedWith .badValue s)
      ∧ ∀ p : Fin 8, n.toNat = p.val → exec .inputInfo s = answered
          ⟨.ok, .input s.ports[p].input (s.ports[p].held.map fun picture => picture.format)
            (s.ports[p].lastStart.map fun t => (s.now - t) / period s.timing.rate)
            ((List.finRange 6).filter fun c => s.coders[c].source = p)⟩ s)
    ∧ (s.asks .coderInfo [n] →
        (6 ≤ n.toNat → exec .coderInfo s = refusedWith .badValue s)
        ∧ ∀ c : Fin 6, n.toNat = c.val → exec .coderInfo s = answered
            ⟨.ok, .coder
              { mode := s.coders[c].mode
                source := s.coders[c].source
                weight := s.coders[c].weight
                floor := s.coders[c].floor
                recordRate := s.coders[c].recordRate
                qMin := s.coders[c].qMin
                qMax := s.coders[c].qMax
                q := s.coders[c].q
                fullness := s.coders[c].fullness
                bufferSize := s.coders[c].bufferSize
                rateState := s.coders[c].rateState
                forcedRepeat := s.coders[c].forcedRepeat
                segLength := s.coders[c].segLength
                liveDeadline := s.coders[c].liveDeadline
                filling := s.coders[c].filling
                input := s.coders[c].input
                sequence := s.coders[c].sequence
                staged := s.coders[c].staged
                pictures := s.coders[c].liveBuffer.length
                occupancy := (s.coders[c].liveBuffer.map fun p => p.bytes.length - p.started).sum
                coded := s.coders[c].coded
                repeats := s.coders[c].repeats
                lateDrops := s.coders[c].lateDrops
                cutPictures := s.coders[c].cutPictures }⟩ s)
    ∧ (s.asks .pathInfo [n] →
        (4 ≤ n.toNat → exec .pathInfo s = refusedWith .badValue s)
        ∧ ∀ p : Fin 4, n.toNat = p.val →
          let path := s.paths[p]
          ∃ report shown omitted, exec .pathInfo s = answered ⟨.ok, .path report shown s.alloc.pathRate[p] omitted⟩ s
            ∧ shown.length + omitted = path.retry.length
            ∧ shown <+: path.retry.map (fun e => ⟨e.start, e.contents.cells, e.contents.kind, e.owner, e.poisoned⟩)
            ∧ report.state = path.state ∧ report.credit = path.credit ∧ report.ceiling = path.ceiling
            ∧ report.allowance = path.allowance ∧ report.cellsHeld = (path.retry.map fun e => e.contents.cells).sum
            ∧ report.sendPointer = path.sendPointer ∧ report.acked = path.acked
            ∧ report.ackRemaining = path.ackDeadline.map (fun t => t - s.now)
            ∧ report.creditRemaining = path.creditTimer.map (fun t => t - s.now)
            ∧ report.replay = (match path.replay with
              | none => none
              | some place => path.retry[place]?.map fun e => e.start)
            ∧ report.control = path.control.map (fun waiting => match waiting with
              | .hello _ => (0x02 : Byte)
              | .credit _ => 0x01
              | .retryMark _ => 0x04
              | .close => 0x05)
            ∧ report.retryCount = path.retryCount ∧ report.closePending = path.closePending
            ∧ report.closeOwed = path.closeOwed ∧ report.helloCount = path.helloCount
            ∧ report.expected = path.expected ∧ report.unreturned = path.unreturned
            ∧ report.receiveError = path.receiveError ∧ report.homeRetry = path.homeRetry
            ∧ report.transmitter = path.transmitter.map (fun f => (f.contents.kind, f.contents.cells))
            ∧ report.ackTimeout = path.ackTimeout ∧ report.retryLimit = path.retryLimit
            ∧ report.framesStarted = path.framesStarted ∧ report.cellsStarted = path.cellsStarted
            ∧ report.framesReplayed = path.framesReplayed ∧ report.retries = path.retries
            ∧ report.framesReceived = path.framesReceived ∧ report.framesRejected = path.framesRejected
            ∧ report.warnings = path.warnings)
    ∧ ∀ selector : Byte, s.asks .mixerInfo [selector, n] →
        let level := fun l : Level => (⟨l.value, l.ramp.map fun r => (r.target, r.length - r.step)⟩ : LevelReport)
        (selector.toNat = 1 → ∀ c : Fin 32, n.toNat = c.val →
          let k := s.mixer.channels[c]
          exec .mixerInfo s = answered
            ⟨.ok, .mixChannel ⟨level k.gain, Vector.ofFn fun b => level k.sends[b], k.saturations⟩⟩ s)
        ∧ (selector.toNat = 2 → ∀ b : Fin 12, n.toNat = b.val →
            let bus := s.mixer.buses[b]
            exec .mixerInfo s = answered
              ⟨.ok, .bus ⟨bus.mode, bus.gain.value, bus.meterPeak, bus.meterSaturations⟩⟩ s)
        ∧ (selector.toNat = 4 → ∀ i : Fin 2, n.toNat = i.val →
            let r := s.mixer.returns[i]
            exec .mixerInfo s = answered ⟨.ok, .returnBuffer ⟨r.state, r.queue.length, r.threshold, r.emptyTicks, r.expected,
              r.framesQueued, r.overruns, r.concealed, r.gaps, r.breaks⟩⟩ s)
        ∧ (selector.toNat = 5 → ∀ i : Fin 4, n.toNat = i.val →
            let stream := s.mixer.streams[i]
            exec .mixerInfo s = answered ⟨.ok, .stream ⟨stream.setting, stream.staged, stream.sequence,
              stream.blocks.length, stream.emitted⟩⟩ s)
        ∧ (selector.toNat = 3 → ∀ slot : Fin 16, n.toNat = slot.val →
            exec .mixerInfo s = answered ⟨.ok, .scene s.mixer.scenes[slot]⟩ s)
        ∧ (selector.toNat = 6 →
            let m := s.mixer
            let silent := fun e : Embedded => decide (s.ports[e.port].input = .lost)
              || (match s.ports[e.port].arriving with
                | none => true
                | some a => !a.pairs[e.pair])
            exec .mixerInfo s = answered
              ⟨.ok, .mixer
                { changes := m.changes.length
                  recalling := m.recalling
                  meterPeriod := m.meterPeriod
                  periodCount := m.periodCount
                  embedded := Vector.ofFn fun i =>
                    (m.embedded[i].port, m.embedded[i].pair, silent m.embedded[i])
                  outputs := Vector.ofFn fun port => Vector.ofFn fun pair =>
                    ((m.outputs[port])[pair].left, (m.outputs[port])[pair].right)
                  serialShorts := Vector.ofFn fun port => m.serial[port].shorts
                  serialSlips := Vector.ofFn fun port => m.serial[port].slips
                  embeddedShorts := Vector.ofFn fun i => m.embedded[i].queue.shorts
                  embeddedSlips := Vector.ofFn fun i => m.embedded[i].queue.slips }⟩ s)
        ∧ (selector.toNat = 0 ∨ 7 ≤ selector.toNat ∨ selector.toNat = 1 ∧ 32 ≤ n.toNat
            ∨ selector.toNat = 2 ∧ 12 ≤ n.toNat ∨ selector.toNat = 3 ∧ 16 ≤ n.toNat
            ∨ selector.toNat = 4 ∧ 2 ≤ n.toNat ∨ selector.toNat = 5 ∧ 4 ≤ n.toNat →
            exec .mixerInfo s = refusedWith .badValue s)

/-- R88, R89, R119: SEGMENT_INFO, TIMELINE_INFO, CLIP_INFO and CLIP_LIST give a segment record, up to 32 segments of a
timeline, a clip record with the pin count and the DAMAGED flag of each segment of its range, and the clips in slot order,
and change nothing; what is not there is NOT_FOUND, what is out of range BAD_VALUE. That the cursor of a clip before START
shows no segment and offset 0 is the model's choice (notes/assumptions/31.md). -/
def Obligations.RequestsForAListing : Prop :=
  ∀ (s : State),
    (∀ high low : Byte, s.asks .segmentInfo [high, low] →
      let id := high.toNat * 256 + low.toNat
      (8192 ≤ id → exec .segmentInfo s = refusedWith .badValue s)
      ∧ (id < 8192 → s.segment? id = none → exec .segmentInfo s = refusedWith .notFound s)
      ∧ (id < 8192 → ∀ g, s.segment? id = some g →
          exec .segmentInfo s = answered ⟨.ok, .segment g (some (s.store.timelines[g.channel].idxOf id))⟩ s))
    ∧ (∀ n high low : Byte, s.asks .timelineInfo [n, high, low] →
        (6 ≤ n.toNat → exec .timelineInfo s = refusedWith .badValue s)
        ∧ ∀ c : Fin 6, n.toNat = c.val →
          let listed := ((s.timeline c).drop (high.toNat * 256 + low.toNat)).take 32
          ∃ shown omitted, exec .timelineInfo s = answered ⟨.ok, .timeline (s.timeline c).length
              ((s.oldestRetained c).map fun g => g.firstTimecode) shown omitted⟩ s
            ∧ shown.length + omitted = listed.length
            ∧ shown <+: listed.map (fun g =>
                ⟨g.id, g.state, g.firstTimecode, g.pictures, g.pinCount, g.damage.isSome⟩))
    ∧ (∀ high low : Byte, s.asks .clipInfo [high, low] →
        let id := high.toNat * 256 + low.toNat
        (s.clipNamed id = none → exec .clipInfo s = refusedWith .notFound s)
        ∧ ∀ k, s.clipNamed id = some k → ∃ cursor segments omitted, exec .clipInfo s = answered
            ⟨.ok, .clip { k with cursor := none } (k.confirmDeadline.map fun t => t - s.now) cursor segments omitted⟩ s
          ∧ (k.cursor = none → cursor = none)
          ∧ (∀ at_, k.cursor = some at_ →
              (at_.position = .beforeStart → cursor = some (none, 0))
              ∧ (∀ passed, at_.position = .boundary none passed → cursor = some (k.range.head?, 0))
              ∧ (∀ g passed, at_.position = .boundary (some g.id) passed → s.segment? g.id = some g →
                  cursor = some (some g.id, g.byteLength))
              ∧ ∀ g offset, at_.position = .inside g offset → cursor = some (some g, offset))
          ∧ segments <+: (k.range.filterMap s.segment?).map (fun g => ⟨g.id, g.pinCount, g.damage.isSome⟩)
          ∧ segments.length + omitted = (k.range.filterMap s.segment?).length)
    ∧ ∀ flags n high low : Byte, s.asks .clipList [flags, n, high, low] →
        let first := high.toNat * 256 + low.toNat
        (4 ≤ flags.toNat ∨ flags.toNat % 2 = 1 ∧ 6 ≤ n.toNat ∨ flags.toNat / 2 = 1 ∧ 256 ≤ first →
          exec .clipList s = refusedWith .badValue s)
        ∧ (flags.toNat < 4 → (flags.toNat % 2 = 1 → n.toNat < 6) → (flags.toNat / 2 = 1 → first < 256) →
            let listed := s.clipLog.clips.filter fun k =>
              !k.discardPending && (flags.toNat / 2 == 0 || decide (first ≤ k.slot))
                && (flags.toNat % 2 == 0 || k.channel.val == n.toNat)
            ∃ shown omitted, exec .clipList s = answered ⟨.ok, .clips shown omitted⟩ s
              ∧ shown.length + omitted = listed.length
              ∧ shown <+: listed.map (fun k => ⟨k.id, k.slot, k.channel, k.inPoint, k.outPoint, k.record, k.send,
                  k.rating, k.urgent, k.hold, k.damaged, k.truncated, k.clamped⟩)
              ∧ ((s.clipLog.clips.map fun k => k.slot).Pairwise (· < ·) →
                  (shown.map fun e => e.slot).Pairwise (· < ·)))

/-! ## The segment store (04) -/

/-- R87 and R113: STORE_SET stores a patrol interval of 1..1000 ms and restarts the wait; CLIP_TIMEOUT stores a confirm
timeout of 1..60 s and changes no deadline that runs. -/
def Obligations.TimersAreStoredClamped : Prop :=
  (∀ (s : State) (body : List Byte), s.asks .storeSet body → body.length ≠ 2 →
    exec .storeSet s = refusedWith .badLength s)
  ∧ (∀ (s : State) (high low : Byte), s.asks .storeSet [high, low] →
      let sent := high.toNat * 256 + low.toNat
      let interval := if sent = 0 then 1 else if 1000 < sent then 1000 else sent
      exec .storeSet s = answered ⟨.ok, .value interval⟩
        { s with store := { s.store with patrolInterval := interval, patrolDue := s.now + interval * millisecond } })
  ∧ (∀ (s : State) (body : List Byte), s.asks .clipTimeout body → body.length ≠ 1 →
      exec .clipTimeout s = refusedWith .badLength s)
  ∧ ∀ (s : State) (n : Byte), s.asks .clipTimeout [n] →
      let timeout := if n.toNat = 0 then 1 else if 60 < n.toNat then 60 else n.toNat
      exec .clipTimeout s = answered ⟨.ok, .value timeout⟩ { s with clipLog := { s.clipLog with timeout := timeout } }

/-- R65: while INITIALISING the next page is written with zeros and a valid code and joins the free pool; the store is
READY with its last page. That the row has no effect in READY, where no page is left to initialise, is the model's choice
(notes/assumptions/2.md). -/
def Obligations.InitialisationFreesThePage : Prop :=
  ∀ (s : State) (elapsed : Nat),
    (s.store.state = .ready → exec (.initPage elapsed) s = finish { s with now := s.now + elapsed })
    ∧ (s.store.state = .initialising →
        let page := s.store.initPosition
        ∃ t, exec (.initPage elapsed) s = .next t ∧ t.now = s.now + elapsed
          ∧ t.store.initPosition = page + 1
          ∧ (∀ p, p ∈ t.store.freePool ↔ p = page ∨ p ∈ s.store.freePool)
          ∧ (∀ a, memRead t.store.dram a =
              if page * 65536 ≤ a ∧ a < (page + 1) * 65536 then 0 else memRead s.store.dram a)
          ∧ (∀ line, errorBits t.store.lineErrors line =
              if line / 1024 = page then [] else errorBits s.store.lineErrors line)
          ∧ t.store.state = (if page + 1 = s.store.pageCount then .ready else .initialising)
          ∧ t.store = { s.store with
              state := t.store.state
              initPosition := t.store.initPosition
              freePool := t.store.freePool
              dram := t.store.dram
              lineErrors := t.store.lineErrors }
          ∧ t = { s with now := t.now, store := t.store, control := t.control })

/-- R80, R82 to R84, R118: MEMORY_ERROR adds the bits to those of the line in error and is a fault for a line that does not
exist; the patrol reads the page at its position, or the next that is neither uninitialised nor retired, from page 0 on
behind the last, or none when there is none: with no error it moves on, a single bit is corrected and counted, and an
uncorrectable line retires a free page with PAGE_RETIRED, and puts the page of a segment on its bad-page list and, within
the byte length, marks the segment damaged in the picture that holds the line. A first marking sets the DAMAGED flag of
every clip whose range includes the segment and raises SEGMENT_DAMAGED; a further one widens the damaged pictures. That
CLIP DAMAGED is queued before SEGMENT_DAMAGED (notes/assumptions/14.md) and the fault for a line that does not exist
(notes/assumptions/34.md) are the model's choices. -/
def Obligations.ErrorsOfALineAndThePatrol : Prop :=
  (∀ (s : State) (elapsed page line : Nat) (bits : List Nat),
    (s.store.pageCount ≤ page ∨ 1024 ≤ line →
      exec (.memoryError elapsed page line bits) s = .fault (.noSuchLine page line))
    ∧ (page < s.store.pageCount → line < 1024 → s.memoryCanonical →
        ∃ t, exec (.memoryError elapsed page line bits) s = .next t ∧ t.now = s.now + elapsed
          ∧ (∀ b, b ∈ errorBits t.store.lineErrors (page * 1024 + line) ↔
              b ∈ errorBits s.store.lineErrors (page * 1024 + line) ∨ b ∈ bits)
          ∧ (∀ other, other ≠ page * 1024 + line →
              errorBits t.store.lineErrors other = errorBits s.store.lineErrors other)
          ∧ t.store = { s.store with lineErrors := t.store.lineErrors }
          ∧ t = { s with now := t.now, store := t.store, control := t.control }))
  ∧ (∀ s : State,
      let position := s.store.patrolPosition
      let now := max s.now s.store.patrolDue
      let due := now + s.store.patrolInterval * millisecond
      ((∀ page < s.store.initPosition, page ∈ s.store.retired) → exec .patrolRead s =
        finish (serve { s with now := now, store := { s.store with patrolDue := due } }))
      ∧ ∀ page < s.store.initPosition, page ∉ s.store.retired →
      (position ≤ page ∧ (∀ p, position ≤ p → p < page → p ∈ s.store.retired)
        ∨ page < position ∧ (∀ p, position ≤ p → p < s.store.initPosition → p ∈ s.store.retired)
          ∧ ∀ p < page, p ∈ s.store.retired) →
      ∃ u, exec .patrolRead s = finish (serve u) ∧ u.now = now
        ∧ u.store.patrolPosition = (if page + 1 = s.store.pageCount then 0 else page + 1)
        ∧ u.store.patrolDue = now + s.store.patrolInterval * millisecond
        ∧ u.store.dram = s.store.dram ∧ u.timing = s.timing ∧ u.coders = s.coders ∧ u.mixer = s.mixer
        ∧ ((∀ e ∈ s.store.lineErrors, e.1 / 1024 ≠ page) →
            u = { s with now := now, store := { s.store with
              patrolPosition := u.store.patrolPosition, patrolDue := u.store.patrolDue } })
        ∧ ∀ line bits, s.memoryCanonical → (line, bits) ∈ s.store.lineErrors → line / 1024 = page →
            (∀ e ∈ s.store.lineErrors, e.1 / 1024 = page → e.1 = line) →
            (bits.length = 1 →
              u = { s with now := now, store := { s.store with
                patrolPosition := u.store.patrolPosition
                patrolDue := u.store.patrolDue
                patrolCorrected := s.store.patrolCorrected + 1
                lineErrors := s.store.lineErrors.filter fun e => e.1 ≠ line } })
            ∧ (2 ≤ bits.length → (∀ g ∈ s.store.segments, page ∉ g.pages) →
                page ∈ u.store.retired ∧ page ∉ u.store.freePool
                  ∧ u.store.uncorrectable = s.store.uncorrectable + 1
                  ∧ (256 ≤ (s.store.freePool.filter (· ≠ page)).length →
                      (∀ p, p ∈ u.store.retired ↔ p = page ∨ p ∈ s.store.retired)
                      ∧ u = { s with
                        now := now
                        store := { s.store with
                          patrolPosition := u.store.patrolPosition
                          patrolDue := u.store.patrolDue
                          freePool := s.store.freePool.filter (· ≠ page)
                          retired := u.store.retired
                          pagesRetired := s.store.pagesRetired + 1
                          uncorrectable := s.store.uncorrectable + 1 }
                        freeReads := u.freeReads
                        control := queueNotice ⟨.pageRetired page .patrol, s.timing.timecode⟩ s.control }))
            ∧ (2 ≤ bits.length → ∀ g i, s.pageOwner page = some g → s.segment? g.id = some g →
                let offset := g.pages.idxOf page * 65536 + (line * 64 - page * 65536)
                (∀ j ≤ i, ∃ start, g.index[j]? = some start ∧ start ≤ offset) →
                (∀ start, g.index[i + 1]? = some start → offset < start) →
                ∃ h, u.segment? g.id = some h ∧ page ∈ h.badPages
                  ∧ u.store.uncorrectable = s.store.uncorrectable + 1 ∧ u.store.retired = s.store.retired
                  ∧ (g.byteLength ≤ offset → h.damage = g.damage)
                  ∧ (offset < g.byteLength → h.damage = match g.damage with
                      | none => some ⟨i, i, .patrol⟩
                      | some d => some ⟨min d.first i, max d.last i, d.cause⟩)))
  ∧ ∀ (s : State) (id first last : Nat) (cause : DamageCause) (g : Segment), s.segment? id = some g →
      let t := markDamaged id first last cause s
      (∀ other, other ≠ id → t.segment? other = s.segment? other) ∧ t.store.dram = s.store.dram
        ∧ (∀ d, g.damage = some d → t.clipLog = s.clipLog ∧ t.control = s.control
            ∧ t.segment? id = some { g with damage := some ⟨min d.first first, max d.last last, d.cause⟩ })
        ∧ (g.damage = none → t.segment? id = some { g with damage := some ⟨first, last, cause⟩ }
            ∧ (∀ i, t.clip? i = (s.clip? i).map fun k => if id ∈ k.range then { k with damaged := true } else k)
            ∧ ((∀ k ∈ s.clipLog.clips, id ∈ k.range → k.damaged = true) → t.control = queueNotice
                ⟨.segmentDamaged id g.channel cause (pictureTimecode g first) (pictureTimecode g last) g.pinCount,
                  s.timing.timecode⟩ s.control)
            ∧ ∀ k, s.clipLog.clips = [k] → id ∈ k.range → k.damaged = false → t.control = queueNotice
                ⟨.segmentDamaged id g.channel cause (pictureTimecode g first) (pictureTimecode g last) g.pinCount,
                  s.timing.timecode⟩ (queueNotice ⟨.clipDamaged k.id id, s.timing.timecode⟩ s.control))

/-- R81, R82, R85, R155, R184: the end of a demand read takes the read off the list; with no error in the store the frame
that it feeds carries the stored bytes behind the first eight of its payload, and no byte, picture or sample changes. A
line with two bits in error within the lines read poisons the frame, marks the segment damaged in the picture in which the
line lies, and puts its page on the bad-page list. At the end of a segment read without error the sum is compared with the
segment digest: when they are equal the segment joins the sent list as UNDAMAGED, and when they differ it is damaged in
every picture and a DAMAGED item follows. That every bad line of a read adds its page (notes/assumptions/38.md), that a read
whose segment was freed meanwhile marks no segment and tells no clip (notes/assumptions/33.md) and that an end for a clip
with no read in progress has no effect (notes/assumptions/2.md) are the model's choices. -/
def Obligations.ADemandReadFillsItsFrame : Prop :=
  ∀ (s : State) (elapsed clip : Nat),
    ((∀ r ∈ s.sched.reads, r.clip ≠ clip) →
      exec (.demandReadEnd elapsed clip) s = finish { s with now := s.now + elapsed })
    ∧ ∀ r, s.sched.reads.find? (fun r => r.clip == clip) = some r →
        let u := endRead r { s with now := s.now + elapsed }
        exec (.demandReadEnd elapsed clip) s = finish (serve u)
          ∧ u.now = s.now + elapsed ∧ u.sched = { s.sched with reads := s.sched.reads.erase r }
          ∧ u.store.dram = s.store.dram ∧ u.timing = s.timing ∧ u.coders = s.coders ∧ u.ports = s.ports
          ∧ u.mixer = s.mixer ∧ u.alloc = s.alloc
          ∧ (s.store.lineErrors = [] →
              u.store.uncorrectable = s.store.uncorrectable
              ∧ u.store.demandCorrected = s.store.demandCorrected
              ∧ ∀ p, r.path = some p → ∀ e ∈ s.paths[p].retry, e.start = r.start →
                { e with contents := { e.contents with
                    payload := e.contents.payload.take 8
                      ++ (List.range r.length).map fun i =>
                          memRead s.store.dram (segAddress r.pages (r.offset + i)) } } ∈ u.paths[p].retry)
          ∧ (∀ i, r.offset - r.offset % 64 ≤ i → i < r.offset + r.length →
              2 ≤ (errorBits s.store.lineErrors (segAddress r.pages i / 64)).length →
                (∀ p, r.path = some p →
                  (∀ e ∈ s.paths[p].retry, e.start = r.start → ∃ h ∈ u.paths[p].retry,
                    h.start = e.start ∧ h.owner = e.owner ∧ h.poisoned = true)
                  ∧ ∀ f, s.paths[p].transmitter = some f → f.entry = some r.start →
                      ∃ h, u.paths[p].transmitter = some h ∧ h.entry = f.entry ∧ h.tail.poisoned = true)
                ∧ ∀ id g, r.segment = some id → s.segment? id = some g →
                    ∃ h d, u.segment? id = some h ∧ h.damage = some d ∧ h.digest = g.digest
                      ∧ (∀ page, g.pages[i / 65536]? = some page → page ∈ h.badPages)
                      ∧ ∀ n, (∀ j ≤ n, ∃ start, g.index[j]? = some start ∧ start ≤ i - i % 64) →
                          (∀ start, g.index[n + 1]? = some start → i - i % 64 < start) → d.first ≤ n ∧ n ≤ d.last)
          ∧ (r.segment = none → u.store.segments = s.store.segments ∧ u.clipLog = s.clipLog ∧ u.control = s.control)
          ∧ ∀ c k id g, s.clip? clip = some c → c.cursor = some k → r.use = .cursor → s.store.lineErrors = [] →
              r.segment = some id → s.segment? id = some g → g.damage = none → r.offset + r.length = g.byteLength →
              let sum := onesAddBytes k.segmentSum r.offset ((List.range r.length).map fun i =>
                memRead s.store.dram (segAddress r.pages (r.offset + i)))
              ∃ c', u.clip? clip = some c'
                ∧ (sum = g.digest → u.segment? id = some g
                    ∧ c'.cursor = some { k with
                        position := .boundary (some id) false
                        sent := k.sent ++ [(id, true)]
                        segmentSum := 0 })
                ∧ (sum ≠ g.digest → u.segment? id = some { g with damage := some ⟨0, g.pictures - 1, .digest⟩ }
                    ∧ c'.cursor = some { k with
                        position := .boundary (some id) false
                        sent := k.sent ++ [(id, false)]
                        items := k.items ++ [.damaged id]
                        segmentSum := 0 })

/-- R69 to R73, R75, R78 to R80 with 04, section 4.3: bytes that the writer stores read back at their offsets of the
segment, the earlier bytes of a shared first line stay when that line can be read, the rest of the last line holds zeros,
the lines written hold no error, and no byte outside them changes. A segment opens under the lowest FREE id with the lowest
free pages, at the end of its channel's timeline, and every OPEN clip of the channel extends to it; it closes with its
reason and its digest, padded to an even length, at the end of the completion list, and completes the closes that wait on
it. A picture that does not follow, or would overflow 64 pages, closes the segment before it; the picture that fills it
closes it with LENGTH. A writer that cannot store pauses, counts the pictures unstored, and resumes with the first picture
it can store. The canonical form is the model's (notes/assumptions/7.md), and so is the wrap to 0 of the count of pictures
unstored in one pause (notes/assumptions/57.md, unsafe). -/
def Obligations.TheWriterStoresInItsSegmentAlone : Prop :=
  (∀ (s : State) (c : Fin 6) (reason : CloseReason) (id : Nat) (g : Segment),
    s.coders[c].filling = some id → s.segment? id = some g →
    let t := closeSegment c reason s
    t.coders[c].filling = none
      ∧ (∀ i k, s.clip? i = some k → k.record = .closing → k.outSegment = some id →
          ∃ k', t.clip? i = some k' ∧ k'.record = .closed ∧ k'.outSegment = none)
      ∧ ((∀ k ∈ s.clipLog.clips, k.outSegment ≠ some id) → 0 < g.pinCount ∨ 256 ≤ s.store.freePool.length →
          t.segment? id = some { g with
              state := .complete, closeReason := some reason, byteLength := g.byteLength + g.byteLength % 2 }
            ∧ t.store.completion = s.store.completion ++ [id] ∧ t.clipLog = s.clipLog
            ∧ t.coders = vecSet s.coders c { s.coders[c] with filling := none }
            ∧ (∀ other, other ≠ id → t.segment? other = s.segment? other)
            ∧ (g.byteLength % 2 = 1 → s.memoryCanonical → g.pages.Nodup → g.byteLength < g.pages.length * 65536 →
                memRead t.store.dram (segAddress g.pages g.byteLength) = 0)))
  ∧ (∀ (s : State) (c : Fin 6) (first : Timecode) (bytes id : Nat),
      id < 8192 → (∀ g ∈ s.store.segments, g.id ≠ id) → (∀ j < id, ∃ g ∈ s.store.segments, g.id = j) →
      let need := (bytes + 65535) / 65536
      let onChannel := fun k : Clip => k.record = .opened ∧ k.channel = c
      256 + need ≤ s.store.freePool.length →
      ∃ t, openSegment c first bytes s = (true, t)
        ∧ t.segment? id = some
          { id := id, state := .filling, channel := c, segLength := s.coders[c].segLength, rate := s.timing.rate
            firstTimecode := first, pictures := 0, index := [], byteLength := 0, pages := s.store.freePool.take need
            digest := 0, closeReason := none, pinCount := (s.clipLog.clips.filter fun k => onChannel k).length
            damage := none, badPages := [] }
        ∧ (∀ other, other ≠ id → t.segment? other = s.segment? other)
        ∧ t.store.freePool = s.store.freePool.drop need
        ∧ t.store.timelines = vecSet s.store.timelines c (s.store.timelines[c] ++ [id])
        ∧ t.coders = vecSet s.coders c { s.coders[c] with filling := some id }
        ∧ ∀ i k, s.clip? i = some k → ∃ k', t.clip? i = some k'
            ∧ (onChannel k → k' = { k with range := k.range ++ [id], cursor := k'.cursor })
            ∧ (¬onChannel k → k' = k))
  ∧ (∀ (s : State) (c : Fin 6) (at_ : Timecode) (bytes : Nat) (g : Segment), s.fillingSegment c = some g →
      closeBefore c at_ bytes s =
        if distance g.rate (lastPicture g) at_ ≠ 1 then closeSegment c .discontinuity s
        else if 4194304 < g.byteLength + bytes then closeSegment c .pages s else s)
  ∧ (∀ (s : State) (c : Fin 6) (bytes : List Byte) (g : Segment), s.fillingSegment c = some g →
      s.clipLog.clips = [] → 256 ≤ s.store.freePool.length → g.byteLength + bytes.length ≤ g.pages.length * 65536 →
      g.pictures + 1 = g.segLength →
      let stored := storePicture c bytes s
      stored.1 = true ∧ stored.2.coders[c].filling = none
        ∧ stored.2.segment? g.id = some { g with
            state := .complete
            closeReason := some .length
            pictures := g.segLength
            index := g.index ++ [g.byteLength]
            byteLength := g.byteLength + bytes.length + (g.byteLength + bytes.length) % 2
            digest := onesAddBytes g.digest g.byteLength bytes })
  ∧ (∀ (s : State) (c : Fin 6) (at_ : Timecode) (bytes : List Byte),
      let w := s.store.writers[c]
      let need := (bytes.length + 65535) / 65536
      let t := handOver c at_ bytes s
      (s.store.freePool.length < need → (∀ g ∈ s.store.segments, 0 < g.pinCount) → s.coders[c].filling = none →
        t.coders[c].filling = none ∧ t.store.unstored = s.store.unstored + 1
        ∧ (w.state = .paused → t.store.writers[c] = { w with unstored := w.unstored + 1 })
        ∧ (w.state ≠ .paused → t.store.writers[c] = ⟨.paused, some at_, 1⟩
            ∧ ((s.clipLog.clips.map fun k => k.id).Nodup → ∀ i k, s.clip? i = some k → k.record = .opened →
                k.channel = c → k.inPending = false → k.outPending = false → k.gaps.length < 16 →
                ∃ k', t.clip? i = some k' ∧ k'.truncated = true
                  ∧ k'.gaps = k.gaps ++ [⟨at_, none, k.range.getLast?⟩])
            ∧ (s.clipLog.clips = [] → t.control = queueNotice ⟨.storeFull c at_ s.store.freePool.length
                (8192 - s.store.segments.length), s.timing.timecode⟩ s.control)))
      ∧ (w.state = .paused → 1 < s.coders[c].segLength → 256 + need ≤ s.store.freePool.length → ∀ id < 8192,
          (∀ g ∈ s.store.segments, g.id ≠ id) → (∀ j < id, ∃ g ∈ s.store.segments, g.id = j) →
          t.store.writers[c] = ⟨.writing, none, 0⟩ ∧ t.coders[c].filling = some id
            ∧ (∃ g, t.segment? id = some g ∧ g.pictures = 1 ∧ g.firstTimecode = at_ ∧ g.index = [0]
                ∧ g.byteLength = bytes.length ∧ g.digest = onesAddBytes 0 0 bytes)
            ∧ (∀ start, w.gapStart = some start → s.clipLog.clips = [] → t.control = queueNotice
                ⟨.storeResumed c (some at_) start w.unstored, s.timing.timecode⟩ s.control)
            ∧ ((s.clipLog.clips.map fun k => k.id).Nodup → ∀ i k, s.clip? i = some k → k.record = .opened →
                k.channel = c → k.inPending = false → k.outPending = false → ∃ k', t.clip? i = some k'
                  ∧ k'.gaps = k.gaps.map fun gap =>
                      { gap with count := some (gap.count.getD (distance s.timing.rate gap.start at_)) })))
  ∧ ∀ (s : State) (pages : List Nat) (x : Nat) (bytes : List Byte),
    s.memoryCanonical → pages.Nodup → x + bytes.length ≤ pages.length * 65536 →
    let t := writeSegment pages x bytes s
    (∀ i b, bytes[i]? = some b → memRead t.store.dram (segAddress pages (x + i)) = b)
      ∧ ((errorBits s.store.lineErrors (segAddress pages (x - x % 64) / 64)).length ≤ 1 →
          ∀ i, x - x % 64 ≤ i → i < x →
            memRead t.store.dram (segAddress pages i) = memRead s.store.dram (segAddress pages i))
      ∧ (∀ i, x + bytes.length ≤ i → i < (x + bytes.length + 63) / 64 * 64 →
          memRead t.store.dram (segAddress pages i) = 0)
      ∧ (∀ i, x - x % 64 ≤ i → i < (x + bytes.length + 63) / 64 * 64 →
          errorBits t.store.lineErrors (segAddress pages i / 64) = [])
      ∧ (∀ a, (∀ i, x - x % 64 ≤ i → i < (x + bytes.length + 63) / 64 * 64 → segAddress pages i ≠ a) →
          memRead t.store.dram a = memRead s.store.dram a)
      ∧ t.memoryCanonical
      ∧ t = { s with
          store := { s.store with
            dram := t.store.dram, lineErrors := t.store.lineErrors, uncorrectable := t.store.uncorrectable }
          freeReads := t.freeReads }

/-- R74, R76, R77: reclaim, for pages or for a record, leaves every pinned segment as it is, and every byte of the store.
A segment that is freed leaves the table, its channel's timeline and the completion list; its pages join the free pool, but
for those on its bad-page list, which are retired, each with PAGE_RETIRED. A record need frees the earliest-completed
segment of pin count 0, or none; a page need frees such segments one after another until 256 pages are free or none of
them is unpinned. The last pin taken from a COMPLETE segment, and each page that leaves the pool, is a page need. Two
things are the model's choices: the PAGE_RETIRED notices of one freed segment come in the order of its page list, which R77
does not give (notes/assumptions/14.md, unsafe for the order of two notices of one event), and a demand read in progress
on a segment that is freed is from then on a read of no segment (notes/assumptions/33.md). -/
def Obligations.APinnedSegmentIsNeverReclaimed : Prop :=
  (∀ (s : State) (id : Nat) (g : Segment), s.segment? id = some g → 0 < g.pinCount →
    (reclaimPages s).segment? id = some g ∧ (reclaimRecord s).segment? id = some g
      ∧ (reclaimPages s).store.dram = s.store.dram ∧ (reclaimRecord s).store.dram = s.store.dram
      ∧ (∀ page ∈ s.store.freePool, page ∈ (reclaimPages s).store.freePool))
  ∧ (∀ (s : State) (id : Nat) (g : Segment), s.segment? id = some g →
      let bad := g.pages.filter fun page => g.badPages.contains page
      let t := freeSegment id s
      t.segment? id = none ∧ (∀ other, other ≠ id → t.segment? other = s.segment? other)
      ∧ (∀ c : Fin 6, t.store.timelines[c] =
          if c = g.channel then s.store.timelines[c].filter (· ≠ id) else s.store.timelines[c])
      ∧ (∀ page, page ∈ t.store.freePool ↔ page ∈ s.store.freePool ∨ page ∈ g.pages ∧ page ∉ g.badPages)
      ∧ (∀ page, page ∈ t.store.retired ↔ page ∈ s.store.retired ∨ page ∈ g.pages ∧ page ∈ g.badPages)
      ∧ (s.store.freePool.Pairwise (· < ·) → t.store.freePool.Pairwise (· < ·))
      ∧ t = { s with
          store := { s.store with
            segments := t.store.segments
            timelines := t.store.timelines
            completion := s.store.completion.filter (· ≠ id)
            freePool := t.store.freePool
            retired := t.store.retired
            reclaimed := s.store.reclaimed + 1
            pagesRetired := s.store.pagesRetired + BitVec.ofNat 32 bad.length }
          sched := { s.sched with
            reads := s.sched.reads.map fun r => if r.segment = some id then { r with segment := none } else r }
          control := bad.foldl (fun control page =>
            queueNotice ⟨.pageRetired page .reclaim, s.timing.timecode⟩ control) s.control })
  ∧ ∀ s : State,
    let pinned := fun id => ∀ g, s.segment? id = some g → 0 < g.pinCount
    (∀ before id after g, s.store.completion = before ++ id :: after → s.segment? id = some g → g.pinCount = 0 →
      (∀ j ∈ before, pinned j) →
        reclaimRecord s = freeSegment id s
        ∧ (s.store.freePool.length < 256 → reclaimPages s = reclaimPages (freeSegment id s)))
    ∧ ((∀ id ∈ s.store.completion, pinned id) → reclaimRecord s = s ∧ reclaimPages s = s)
    ∧ (256 ≤ s.store.freePool.length → reclaimPages s = s)
    ∧ (256 ≤ (reclaimPages s).store.freePool.length ∨ ∀ id ∈ (reclaimPages s).store.completion, ∀ g,
        (reclaimPages s).segment? id = some g → 0 < g.pinCount)
    ∧ (∀ id g, s.segment? id = some g → g.pinCount = 1 → g.state = .complete → ∃ u, unpin id s = reclaimPages u
        ∧ u.segment? id = some { g with pinCount := 0 } ∧ (∀ other, other ≠ id → u.segment? other = s.segment? other)
        ∧ u = { s with store := { s.store with segments := u.store.segments } })
    ∧ (∀ page rest, s.store.freePool = page :: rest → takePages 1 s =
        ([page], reclaimPages { s with store := { s.store with freePool := rest } }))

/-! ## The clip log (05) -/

/-- R92, R94, R95: an in-point in progress waits for its picture; one that the timeline holds is placed in the newest
segment that holds it; one before the oldest retained picture, or between two segments, is clamped to the first picture of
the next; one in a pause begins with an open gap. CLIP_OPEN makes its checks in their order; an open that passes them takes
the lowest-numbered free slot and the first id from the next id on that no record holds, and pins every segment of the
range; the new record is OPEN and IDLE, with no label, rating, marker or send in progress. Where none of the cases of R95
covers an in-point the placement is the model's choice (notes/assumptions/11.md, unsafe), and so are that of a handed picture
in progress (notes/assumptions/21.md) and the order of first pictures and gap starts that lie in the future
(notes/assumptions/39.md, unsafe). A flag that is not defined is refused (R206). -/
def Obligations.ClipOpenTakesARecord : Prop :=
  (∀ (s : State) (c : Fin 6) (t : Timecode),
    let line := s.timelineNow c
    let holds := fun g : Segment => distance g.rate g.firstTimecode t < g.pictures
    (t = s.timing.timecode → s.coders[c].handed = false → s.placeIn c t = ⟨t, false, true, s.coders[c].filling, false⟩)
    ∧ (t ≠ s.timing.timecode ∨ s.coders[c].handed = true →
        (∀ before g after, line = before ++ g :: after → holds g → (∀ h ∈ after, ¬holds h) →
          s.placeIn c t = ⟨t, false, false, some g.id, false⟩)
        ∧ (line = [] → s.coders[c].handed = false →
            s.placeIn c t = ⟨s.timing.timecode, true, true, s.coders[c].filling, false⟩)
        ∧ ((∀ g ∈ line, ¬holds g) →
            (∀ oldest rest, line = oldest :: rest → s.earlier t oldest.firstTimecode = true →
              s.placeIn c t = ⟨oldest.firstTimecode, true, false, some oldest.id, false⟩)
            ∧ (∀ oldest before g after, line = oldest :: before ++ g :: after →
                (∀ h ∈ oldest :: before, s.earlier t h.firstTimecode = false) → s.earlier t g.firstTimecode = true →
                s.placeIn c t = ⟨g.firstTimecode, true, false, some g.id, false⟩)
            ∧ (∀ start, line ≠ [] → (∀ h ∈ line, s.earlier t h.firstTimecode = false) →
                s.store.writers[c].state = .paused → s.store.writers[c].gapStart = some start →
                s.earlier t start = false → s.placeIn c t = ⟨t, false, false, none, true⟩))))
  ∧ (∀ (s : State) (n flags : Byte) (rest : List Byte), s.asks .clipOpen (n :: flags :: rest) → 2 ≤ flags.toNat →
      rest.length = 4 * (flags.toNat % 2) → exec .clipOpen s = refusedWith .badValue s)
  ∧ ∀ (s : State) (n : Byte) (point : Option (Byte × Byte × Byte × Byte)),
    s.asks .clipOpen (n :: pointBytes point) →
    let wanted := (pointTimecode point).getD s.timing.timecode
    (6 ≤ n.toNat ∨ s.validPoint (pointTimecode point) = false → exec .clipOpen s = refusedWith .badValue s)
    ∧ ∀ c : Fin 6, n.toNat = c.val → s.validPoint (pointTimecode point) = true →
      let placed := s.placeIn c wanted
      let range := s.rangeFrom c placed.start
      let openClips := (s.clipLog.clips.filter (openOn c)).length
      let next := s.clipLog.nextId
      (s.coders[c].mode ∉ [CoderMode.record, .both] → exec .clipOpen s = refusedWith .badState s)
      ∧ (s.coders[c].mode ∈ [CoderMode.record, .both] →
          (s.inFuture wanted = true → exec .clipOpen s = refusedWith .badValue s)
          ∧ (s.inFuture wanted = false →
              (255 ≤ openClips ∨ (∀ slot < 256, ∃ k ∈ s.clipLog.clips, k.slot = slot) ∨ s.pinRefused range = true →
                exec .clipOpen s = refusedWith .noRoom s)
              ∧ ∀ slot < 256, (∀ k ∈ s.clipLog.clips, k.slot ≠ slot) →
                  (∀ j < slot, ∃ k ∈ s.clipLog.clips, k.slot = j) → openClips < 255 → s.pinRefused range = false →
                  1 ≤ next → next ≤ 65535 → ∀ new : Nat, 1 ≤ new → new ≤ 65535 → (∀ k ∈ s.clipLog.clips, k.id ≠ new) →
                  (∀ j < (new + 65535 - next) % 65535, ∃ k ∈ s.clipLog.clips, k.id = (next - 1 + j) % 65535 + 1) →
                  ∃ t, exec .clipOpen s = answered ⟨.ok, .clipOpened new slot placed.inPoint placed.clamped⟩ t
                    ∧ t.clip? new = some
                      { slot := slot, id := new, channel := c
                        inPoint := placed.inPoint, inPending := placed.waits
                        outPoint := none, outPending := false, outSegment := none, closeOrigin := none
                        label := [], rating := 0, urgent := false, markers := [], markersSent := 0
                        range := range
                        gaps := if placed.gap then [⟨placed.inPoint, none, none⟩] else []
                        closeDigest := none, sendDigest := none
                        record := .opened, send := .idle
                        hold := false
                        damaged := range.any fun id => (s.segment? id).any fun g => g.damage.isSome
                        truncated := placed.gap, clamped := placed.clamped
                        started := false, discardPending := false, resendUsed := false
                        queueNumber := none, confirmDeadline := none, cursor := none }
                    ∧ (∀ id, id ≠ new → t.clip? id = s.clip? id)
                    ∧ t.clipLog.nextId = new % 65535 + 1
                    ∧ (∀ id, t.segment? id = (s.segment? id).map fun g =>
                        if id ∈ range then { g with pinCount := g.pinCount + 1 } else g)
                    ∧ t = { s with
                        clipLog := t.clipLog
                        store := { s.store with segments := t.store.segments }
                        control := t.control }))

/-- R99, R100, R101: an out-point in progress waits for its picture; one that the timeline holds in the range is placed in
the newest segment that holds it; one in a gap moves back to the segment that the gap follows, or leaves an empty range; any
other moves back to the newest segment of the range that begins earlier, or leaves an empty range. CLIP_CLOSE makes its
checks in their order; a close in the FILLING segment makes the clip CLOSING, and one in a COMPLETE segment completes: the
segments after it leave the range unpinned, the gaps that follow them or start after the out-point leave the gap list, and
the digest is fixed. A moved out-point sets CLAMPED; a flag that is not defined is refused (R206). R96, R97, R100: at the
handover of its picture a pending in-point begins the range at the segment that stored it, or leaves the range absent with
an open gap, and a pending out-point makes the clip CLOSING in that segment, or closes it at the last picture of its range;
a pause gives every other OPEN clip of the channel a gap, and closes one that holds 16. That an out-point held by a segment
outside the range counts as not located (notes/assumptions/43.md), the count given to a gap still open
(notes/assumptions/19.md), the order of timecodes in the future (notes/assumptions/39.md, unsafe), the cursor at a segment
that a settled in-point removes (notes/assumptions/40.md) and the open gap of an in-point in a pause
(notes/assumptions/21.md) are the model's choices. -/
def Obligations.ClipCloseFindsItsOutSegment : Prop :=
  (∀ (s : State) (c : Clip) (t : Timecode),
    let line := s.timelineNow c.channel
    let holds := fun g : Segment => distance g.rate g.firstTimecode t < g.pictures
    let inGap := fun gap : Gap => s.earlier t gap.start = false
      ∧ ∀ n, gap.count = some n → distance s.timing.rate gap.start t < n
    let beginsEarlier := fun id => ∃ g, s.segment? id = some g ∧ s.earlier g.firstTimecode t = true
    (t = s.timing.timecode → s.coders[c.channel].handed = false → s.placeOut c t = .waits)
    ∧ (t ≠ s.timing.timecode ∨ s.coders[c.channel].handed = true →
        (∀ before g after, line = before ++ g :: after → holds g → (∀ h ∈ after, ¬holds h) → g.id ∈ c.range →
          s.placeOut c t = .inSegment g.id false)
        ∧ ((∀ before g after, line = before ++ g :: after → holds g → (∀ h ∈ after, ¬holds h) → g.id ∉ c.range) →
            (∀ before gap after, c.gaps = before ++ gap :: after → inGap gap → (∀ h ∈ before, ¬inGap h) →
              (∀ segment, gap.follows = some segment → s.placeOut c t = .inSegment segment true)
              ∧ (gap.follows = none → s.placeOut c t = .empty))
            ∧ ((∀ gap ∈ c.gaps, ¬inGap gap) →
                (∀ before id after, c.range = before ++ id :: after → beginsEarlier id →
                  (∀ j ∈ after, ¬beginsEarlier j) → s.placeOut c t = .inSegment id true)
                ∧ ((∀ id ∈ c.range, ¬beginsEarlier id) → s.placeOut c t = .empty)))))
  ∧ (∀ (s : State) (high low flags : Byte) (rest : List Byte), s.asks .clipClose (high :: low :: flags :: rest) →
      2 ≤ flags.toNat → rest.length = 4 * (flags.toNat % 2) → exec .clipClose s = refusedWith .badValue s)
  ∧ (∀ (s : State) (c : Fin 6) (at_ : Timecode) (bytes : List Byte),
      let kept := fun u : State => u.clipLog = s.clipLog ∧ u.store.freePool = s.store.freePool
        ∧ u.store.completion = s.store.completion ∧ ∀ id, (u.segment? id).map (fun g => (g.state, g.pinCount)) =
          (s.segment? id).map fun g => (g.state, g.pinCount)
      (∀ g, s.fillingSegment c = some g → s.store.writers[c].state ≠ .paused → closeBefore c at_ bytes.length s = s →
        g.byteLength + bytes.length ≤ g.pages.length * 65536 → ∃ u, kept u ∧ handOver c at_ bytes s =
          if g.pictures + 1 = g.segLength then closeSegment c .length (pictureStored c g.id u)
          else pictureStored c g.id u)
      ∧ (s.store.freePool.length < (bytes.length + 65535) / 65536 → (∀ g ∈ s.store.segments, 0 < g.pinCount) →
          s.coders[c].filling = none →
          (s.store.writers[c].state = .paused → ∃ u, kept u ∧ handOver c at_ bytes s = pictureUnstored c none u)
          ∧ (s.store.writers[c].state ≠ .paused → ∃ u notice, kept u ∧ protocolPath notice = none
              ∧ handOver c at_ bytes s = raise notice (pictureUnstored c (some at_) u))))
  ∧ (∀ (s : State) (c : Fin 6) (i : Nat) (k : Clip), (s.clipLog.clips.map fun d => d.id).Nodup → s.clip? i = some k →
      let follows := k.record = .opened ∧ k.channel = c
      (∀ segment,
        let t := pictureStored c segment s
        (¬follows ∨ k.inPending = false ∧ k.outPending = false → t.clip? i = some k)
        ∧ (follows → ∀ before after, k.range = before ++ segment :: after → segment ∉ before →
            let settled := if k.inPending then { k with
                range := segment :: after
                inPending := false
                cursor := k.cursor.map (cutCursor before none k.gaps.length) } else k
            (k.outPending = false → t.clip? i = some settled)
            ∧ (∀ g, k.outPending = true → s.segment? segment = some g → g.state = .filling →
                segment ∉ s.store.completion → t.clip? i = some { settled with
                  record := .closing, outSegment := some segment, outPending := false, inPending := false })
            ∧ (s.clipLog.clips = [k] → k.inPending = true → k.outPending = false → 256 ≤ s.store.freePool.length →
                ∀ id, t.segment? id = (s.segment? id).map fun g => { g with pinCount := g.pinCount - before.count id })))
      ∧ ∀ pause : Option Timecode,
          let t := pictureUnstored c pause s
          let emptied := if k.inPending then { k with
              range := []
              inPending := false
              truncated := k.truncated || pause.isNone
              gaps := k.gaps ++ (if pause.isNone then [⟨k.inPoint, none, none⟩] else [])
              cursor := k.cursor.map (cutCursor k.range none k.gaps.length) } else k
          (¬follows → t.clip? i = some k)
          ∧ (follows → k.outPending = false →
              (pause = none → t.clip? i = some emptied)
              ∧ ∀ start, pause = some start → k.gaps.length < 16 → t.clip? i = some { emptied with
                  truncated := true, gaps := k.gaps ++ [⟨start, none, emptied.range.getLast?⟩] })
          ∧ (follows → k.range.Nodup → (∀ id ∈ k.range, ∀ g, s.segment? id = some g →
                ((s.clipLog.clips.filter fun d => d.id != i).map fun d => d.range.count id).sum < g.pinCount) →
              (k.outPending = false → pause.isSome = true → 16 ≤ k.gaps.length →
                t.clip? i = some (s.closedClip emptied emptied.range.getLast? [] (s.lastOf emptied)))
              ∧ (k.outPending = true →
                  (emptied.range = [] →
                    t.clip? i = some (s.closedClip emptied none [] (k.outPoint.getD k.inPoint)))
                  ∧ ∀ id g, emptied.range.getLast? = some id → s.segment? id = some g → g.state = .complete →
                      t.clip? i = some (s.closedClip { k with clamped := true } (some id) [] (lastPicture g)))))
  ∧ ∀ (s : State) (high low : Byte) (point : Option (Byte × Byte × Byte × Byte)),
    s.asks .clipClose (high :: low :: pointBytes point) →
    let id := high.toNat * 256 + low.toNat
    let out := (pointTimecode point).getD s.timing.timecode
    (s.validPoint (pointTimecode point) = false → exec .clipClose s = refusedWith .badValue s)
    ∧ (s.validPoint (pointTimecode point) = true →
        (s.clipNamed id = none → exec .clipClose s = refusedWith .notFound s)
        ∧ ∀ c, s.clipNamed id = some c →
          (c.record ≠ .opened ∨ c.outPending = true → exec .clipClose s = refusedWith .badState s)
          ∧ (c.record = .opened → c.outPending = false →
              (s.inFuture out = true ∨ s.earlier out c.inPoint = true → exec .clipClose s = refusedWith .badValue s)
              ∧ (s.inFuture out = false → s.earlier out c.inPoint = false →
                  (out = s.timing.timecode → s.coders[c.channel].handed = false →
                    exec .clipClose s = answered ⟨.accepted, .clipClosing out false⟩ (serve (s.modClip id fun k =>
                      { k with outPoint := some out, closeOrigin := some .request, outPending := true })))
                  ∧ (let closes := fun (out : Option Nat) (removed : List Nat) (final : Timecode) (moved : Bool) =>
                        let k := s.closedClip { c with clamped := c.clamped || moved } out removed final
                        ∃ u, exec .clipClose s = answered ⟨.accepted, .clipClosing final moved⟩ (serve u)
                          ∧ u.clip? id = some k
                          ∧ (∀ other, other ≠ id → u.clip? other = s.clip? other)
                          ∧ (256 ≤ s.store.freePool.length → ∀ j, u.segment? j = (s.segment? j).map fun h =>
                              { h with pinCount := h.pinCount - removed.count j })
                          ∧ (removed = [] → u = { s with
                              clipLog := u.clipLog
                              control := queueNotice ⟨.clipClosed id final (s.digestOf k.range) k.range.length k.gaps.length
                                .request, s.timing.timecode⟩ s.control })
                          ∧ u.store.dram = s.store.dram
                     (∀ (g : Segment) (moved : Bool), s.placeOut c out = .inSegment g.id moved →
                        s.segment? g.id = some g →
                        let final := if moved then lastPicture g else out
                        (g.state = .filling →
                          exec .clipClose s = answered ⟨.accepted, .clipClosing final moved⟩ (serve (s.modClip id fun k =>
                            { k with
                              outPoint := some final
                              clamped := k.clamped || moved
                              closeOrigin := some .request
                              record := .closing
                              outSegment := some g.id
                              outPending := false
                              inPending := false })))
                        ∧ (g.state = .complete → s.clip? id = some c →
                            closes (some g.id) (segmentsAfter (some g.id) c.range) final moved))
                      ∧ (s.placeOut c out = .empty → s.clip? id = some c → closes none c.range out false)))))

/-- R103, R104, R206: CLIP_MARK makes its checks in their order; a marker that passes them joins the clip's markers with at
most 16 printable bytes of its note; a flag that is not defined is refused. The order of a marker against an in-point or an
out-point that lies in the future is the model's choice (notes/assumptions/39.md, unsafe). -/
def Obligations.ClipMarkAddsAMarker : Prop :=
  (∀ (s : State) (high low flags kind size : Byte) (point note : List Byte),
    s.asks .clipMark (high :: low :: flags :: point ++ kind :: size :: note) → 2 ≤ flags.toNat →
    point.length = 4 * (flags.toNat % 2) → note.length = size.toNat → exec .clipMark s = refusedWith .badValue s)
  ∧ ∀ (s : State) (high low kind size : Byte) (point : Option (Byte × Byte × Byte × Byte)) (note : List Byte),
    s.asks .clipMark (high :: low :: pointBytes point ++ kind :: size :: note) → note.length = size.toNat →
    let id := high.toNat * 256 + low.toNat
    let t := (pointTimecode point).getD s.timing.timecode
    (15 < kind.toNat ∨ s.validPoint (pointTimecode point) = false → exec .clipMark s = refusedWith .badValue s)
    ∧ (kind.toNat ≤ 15 → s.validPoint (pointTimecode point) = true →
        (s.clipNamed id = none → exec .clipMark s = refusedWith .notFound s)
        ∧ ∀ c, s.clipNamed id = some c →
          (c.send ∈ [SendState.sent, .failed] → exec .clipMark s = refusedWith .badState s)
          ∧ (c.send ∉ [SendState.sent, .failed] →
              let outside := s.inFuture t = true ∨ s.earlier t c.inPoint = true
                ∨ ∃ out, c.outPoint = some out ∧ s.earlier out t = true
              (outside → exec .clipMark s = refusedWith .badValue s)
              ∧ (¬outside → 8 ≤ c.markers.length → exec .clipMark s = refusedWith .noRoom s)
              ∧ (¬outside → c.markers.length < 8 →
                  exec .clipMark s = answered ⟨.ok, .marked c.markers.length (decide (16 < size.toNat))⟩
                    (serve (s.modClip id fun k =>
                      { k with markers := k.markers ++ [⟨t, kind.toNat, (note.take 16).map printable⟩] })))))

/-- R105: CLIP_LABEL replaces the label by the first 32 bytes sent, each byte outside 20H..7EH made 3FH. -/
def Obligations.ClipLabelReplacesTheLabel : Prop :=
  ∀ (s : State) (high low : Byte) (label : List Byte), s.asks .clipLabel (high :: low :: label) →
    let id := high.toNat * 256 + low.toNat
    (s.clipNamed id = none → exec .clipLabel s = refusedWith .notFound s)
    ∧ ∀ c, s.clipNamed id = some c →
      (c.started = true → exec .clipLabel s = refusedWith .badState s)
      ∧ (c.started = false → exec .clipLabel s = answered ⟨.ok, .labelled (decide (32 < label.length))⟩
          (s.modClip id fun k => { k with
            label := (label.take 32).map fun b => if 32 ≤ b.toNat ∧ b.toNat ≤ 126 then b else 63 }))

/-- R106, R107, R110, R111: CLIP_RATE stores rating and URGENT, CLIP_HOLD sets HOLD, CLIP_RELEASE clears it and makes a
HELD clip QUEUED, CLIP_SEND queues an IDLE clip under the next queue number with a fresh cursor. That the queue counter is 0
after 4,294,967,295 is the model's choice (notes/assumptions/50.md, unsafe). -/
def Obligations.ClipsAreRatedHeldAndSent : Prop :=
  ∀ (s : State) (high low : Byte),
    let id := high.toNat * 256 + low.toNat
    (s.clipNamed id = none →
      (∀ rating urgent, s.asks .clipRate [high, low, rating, urgent] → exec .clipRate s = refusedWith .notFound s)
      ∧ (s.asks .clipHold [high, low] → exec .clipHold s = refusedWith .notFound s)
      ∧ (s.asks .clipRelease [high, low] → exec .clipRelease s = refusedWith .notFound s)
      ∧ (s.asks .clipSend [high, low] → exec .clipSend s = refusedWith .notFound s))
    ∧ ∀ c, s.clip? id = some c → c.discardPending = false →
        (∀ rating urgent, s.asks .clipRate [high, low, rating, urgent] →
          (7 < rating.toNat → exec .clipRate s = refusedWith .badValue s)
          ∧ (rating.toNat ≤ 7 → urgent.toNat ≤ 1 → c.send ∈ [SendState.sent, .failed] →
              exec .clipRate s = refusedWith .badState s)
          ∧ (rating.toNat ≤ 7 → urgent.toNat ≤ 1 → c.send ∉ [SendState.sent, .failed] →
              exec .clipRate s = answered ⟨.ok, .none⟩ (serve (waitChecks (s.modClip id fun k =>
                { k with rating := rating.toNat, urgent := urgent.toNat == 1 })))))
        ∧ (s.asks .clipHold [high, low] → exec .clipHold s = answered ⟨.ok, .none⟩
            (serve (waitChecks (s.modClip id fun k => { k with hold := true }))))
        ∧ (s.asks .clipRelease [high, low] → ∃ u k,
            exec .clipRelease s = answered ⟨.ok, .none⟩ (serve (waitChecks u))
              ∧ u.clip? id = some k
              ∧ k = { c with hold := false, send := if c.send = .held then .queued else c.send }
              ∧ (∀ other, other ≠ id → u.clip? other = s.clip? other))
        ∧ (s.asks .clipSend [high, low] →
            (c.send ≠ .idle ∨ c.record = .closing → exec .clipSend s = refusedWith .badState s)
            ∧ (c.send = .idle → c.record ≠ .closing → ∃ u,
                exec .clipSend s = answered ⟨.ok, .none⟩ (serve (waitChecks u))
                  ∧ u.clip? id = some { c with
                      send := .queued
                      queueNumber := some s.clipLog.queueCounter
                      cursor := some ⟨.beforeStart, [], 0, 0, 0, []⟩
                      started := false
                      markersSent := 0
                      resendUsed := false
                      sendDigest := none }
                  ∧ (∀ other, other ≠ id → u.clip? other = s.clip? other)
                  ∧ u.clipLog.queueCounter = s.clipLog.queueCounter + 1
                  ∧ u.alloc.clipDemand = true
                  ∧ u = { s with clipLog := u.clipLog, alloc := u.alloc, control := u.control }))

/-- R74, R92, R112, R189: CLIP_DISCARD frees the record of a clip that is not SENDING and unpins every segment of its range,
which reclaim may then free, and makes a SENDING clip emit ABORT. -/
def Obligations.ADiscardFreesOrAborts : Prop :=
  ∀ (s : State) (high low : Byte), s.asks .clipDiscard [high, low] →
    let id := high.toNat * 256 + low.toNat
    (s.clipNamed id = none → exec .clipDiscard s = refusedWith .notFound s)
    ∧ ∀ c, s.clip? id = some c → c.discardPending = false →
      (c.send = .sending → exec .clipDiscard s = answered ⟨.accepted, .none⟩ (serve (s.modClip id fun k =>
        { k with discardPending := true, cursor := k.cursor.map fun cursor => { cursor with items := [.abort] } })))
      ∧ (c.send ≠ .sending → ∃ u,
          exec .clipDiscard s = answered ⟨.ok, .none⟩ (serve u)
            ∧ u.clip? id = none ∧ (∀ other, other ≠ id → u.clip? other = s.clip? other)
            ∧ u.store.dram = s.store.dram ∧ u.alloc.clipDemand = u.clipDemand
            ∧ (∀ i g, s.segment? i = some g →
                let unpinned := { g with pinCount := g.pinCount - c.range.count i }
                (c.range.count i < g.pinCount ∨ 256 ≤ s.store.freePool.length → u.segment? i = some unpinned)
                ∧ (u.segment? i = none ∨ u.segment? i = some unpinned))
            ∧ u = { s with
                clipLog := u.clipLog, store := u.store, alloc := u.alloc, control := u.control, sched := u.sched })

/-- R114 to R116: a matching confirm makes a clip in AWAIT_CONFIRM SENT; a mismatch or the end of the wait sends it again
once, behind a RESEND item, and makes it FAILED the second time; any other confirm is ignored and reported. That a timeout
of a clip that does not wait has no effect is the model's choice (notes/assumptions/2.md). -/
def Obligations.AConfirmEndsTheWait : Prop :=
  (∀ (s : State) (path : Fin 4) (id : Nat) (digest : Digest),
    (∀ c, s.clipNamed id = some c → c.send ≠ .awaitConfirm) →
      confirmClip path id digest s = raise (.confirmIgnored path id digest) s)
  ∧ (∀ (s : State) (id : Nat), (∀ c, s.clip? id = some c → c.send ≠ .awaitConfirm) →
      exec (.confirmTimeout id) s = finish s)
  ∧ ∀ (s : State) (id : Nat) (c : Clip), s.clip? id = some c → c.discardPending = false → c.send = .awaitConfirm →
      let ended := fun u : State => ∃ k, u.clip? id = some k ∧ k.confirmDeadline = none
        ∧ (∀ other, other ≠ id → u.clip? other = s.clip? other)
        ∧ (c.resendUsed = true → k.send = .failed ∧ k.cursor = none)
        ∧ (c.resendUsed = false → k.send = .queued ∧ k.resendUsed = true ∧ k.sendDigest = none
            ∧ k.started = false ∧ k.queueNumber = some s.clipLog.queueCounter
            ∧ k.cursor = some ⟨.beforeStart, [.resend c.range.head?], 0, 0, 0, []⟩)
      (∀ path digest, c.sendDigest = some digest →
        ∃ k, (confirmClip path id digest s).clip? id = some k ∧ k.send = .sent ∧ k.confirmDeadline = none)
      ∧ (∀ path digest, c.sendDigest ≠ some digest → ended (confirmClip path id digest s))
      ∧ ∀ t, c.confirmDeadline = some t →
          ∃ u, exec (.confirmTimeout id) s = finish (serve u) ∧ u.now = max s.now t ∧ ended u

/-! ## The mixer (06) -/

/-- R123, R125, R129, R131, R134: EMBED_SET, CHANNEL_SET, SEND_SET, OUTPUT_SET, SCENE_RECALL and BUS_SET join the change
list with what they carry, or are answered NO_ROOM when it holds 64; a number, a mode or a mask bit out of range is
refused; a bus that others follow stays MIX, and a FOLLOW bus needs a MIX bus other than itself. BUS_SET carries a mode, a
gain, or both. That one with neither joins the change list as a change of nothing is the model's choice
(notes/assumptions/30.md, unsafe). -/
def Obligations.MixerChangesJoinTheChangeList : Prop :=
  ∀ s : State,
    let joins := fun (code : ResultCode) (change : Change) =>
      if 64 ≤ s.mixer.changes.length then refusedWith .noRoom s
      else answered ⟨code, .none⟩ { s with mixer := { s.mixer with changes := s.mixer.changes ++ [change] } }
    (∀ n high low : Byte, s.asks .channelSet [n, high, low] →
      (32 ≤ n.toNat → exec .channelSet s = refusedWith .badValue s)
      ∧ ∀ c : Fin 32, n.toNat = c.val → exec .channelSet s = joins .ok (.gain c (high ++ low).toInt))
    ∧ (∀ n b high low : Byte, s.asks .sendSet [n, b, high, low] →
        (32 ≤ n.toNat ∨ 12 ≤ b.toNat → exec .sendSet s = refusedWith .badValue s)
        ∧ ∀ (c : Fin 32) (bus : Fin 12), n.toNat = c.val → b.toNat = bus.val →
          exec .sendSet s = joins .ok (.send c bus (high.toNat * 256 + low.toNat : Nat)))
    ∧ (∀ e p q : Byte, s.asks .embedSet [e, p, q] →
        (2 ≤ e.toNat ∨ 8 ≤ p.toNat ∨ 4 ≤ q.toNat → exec .embedSet s = refusedWith .badValue s)
        ∧ ∀ (selection : Fin 2) (port : Fin 8) (pair : Fin 4),
          e.toNat = selection.val → p.toNat = port.val → q.toNat = pair.val →
          exec .embedSet s = joins .ok (.embed selection port pair))
    ∧ (∀ p q l r : Byte, s.asks .outputSet [p, q, l, r] →
        (2 ≤ p.toNat ∨ 4 ≤ q.toNat ∨ 12 ≤ l.toNat ∧ l.toNat < 255 ∨ 12 ≤ r.toNat ∧ r.toNat < 255 →
          exec .outputSet s = refusedWith .badValue s)
        ∧ ∀ (port : Fin 2) (pair : Fin 4), p.toNat = port.val → q.toNat = pair.val →
          ∀ left right : Option (Fin 12), l.toNat = (match left with | some b => b.val | none => 255) →
          r.toNat = (match right with | some b => b.val | none => 255) →
          exec .outputSet s = joins .ok (.output port pair left right))
    ∧ (∀ n high low : Byte, s.asks .sceneRecall [n, high, low] →
        (16 ≤ n.toNat → exec .sceneRecall s = refusedWith .badValue s)
        ∧ ∀ slot : Fin 16, n.toNat = slot.val →
          (s.mixer.scenes[slot] = none → exec .sceneRecall s = refusedWith .badState s)
          ∧ ∀ scene, s.mixer.scenes[slot] = some scene → exec .sceneRecall s =
              joins .accepted (.recallScene slot (min 255 (high.toNat * 256 + low.toNat)) scene))
    ∧ (∀ (n mask : Byte) (rest : List Byte), s.asks .busSet (n :: mask :: rest) →
        rest.length = mask.toNat % 2 + 2 * (mask.toNat / 2 % 2)
          + (if mask.toNat % 2 = 1 ∧ rest.head? = some 2 then 2 else 0) →
        12 ≤ n.toNat ∨ 4 ≤ mask.toNat ∨ mask.toNat % 2 = 1 ∧ (∃ mode, rest.head? = some mode ∧ 2 < mode.toNat) →
          exec .busSet s = refusedWith .badValue s)
    ∧ ∀ (n : Byte) (b : Fin 12), n.toNat = b.val →
        (s.asks .busSet [n, 0] → exec .busSet s = joins .ok (.bus b none none))
        ∧ (∀ high low : Byte, s.asks .busSet [n, 2, high, low] →
            exec .busSet s = joins .ok (.bus b none (some (high.toNat * 256 + low.toNat : Nat))))
        ∧ ∀ gain : Option (Byte × Byte),
            let mask : Byte := if gain = none then 1 else 3
            let bytes := match gain with
              | none => []
              | some (high, low) => [high, low]
            let value := gain.map fun pair => ((pair.1.toNat * 256 + pair.2.toNat : Nat) : Int)
            let keptMix := (stagedModes s.mixer)[b] = .mix ∧ followed (stagedModes s.mixer) b = true
            (s.asks .busSet (n :: mask :: 1 :: bytes) → exec .busSet s = joins .ok (.bus b (some .mix) value))
            ∧ (s.asks .busSet (n :: mask :: 0 :: bytes) → exec .busSet s =
                if keptMix then refusedWith .badState s else joins .ok (.bus b (some .off) value))
            ∧ ∀ r x : Byte, s.asks .busSet (n :: mask :: 2 :: bytes ++ [r, x]) →
                (12 ≤ r.toNat ∨ 32 ≤ x.toNat → exec .busSet s = refusedWith .badValue s)
                ∧ ∀ (reference : Fin 12) (excluded : Fin 32), r.toNat = reference.val → x.toNat = excluded.val →
                    exec .busSet s =
                      if reference = b ∨ (stagedModes s.mixer)[reference] ≠ .mix then refusedWith .badValue s
                      else if keptMix then refusedWith .badState s
                      else joins .ok (.bus b (some (.follow reference excluded)) value)

/-- R130, R136, R139, R141: SCENE_STORE copies the values in force into the slot, METER_SET stores a period of at least 1
and clears the meters, RETURN_SET stores a threshold of 4..28, STREAM_SET stages a setting that differs from the one in
force. -/
def Obligations.MixerSettingsAreStored : Prop :=
  ∀ (s : State) (n : Byte),
    (s.asks .sceneStore [n] →
      (16 ≤ n.toNat → exec .sceneStore s = refusedWith .badValue s)
      ∧ ∀ slot : Fin 16, n.toNat = slot.val → ∃ scene : Scene,
        exec .sceneStore s = answered ⟨.ok, .none⟩
            { s with mixer := { s.mixer with scenes := vecSet s.mixer.scenes slot (some scene) } }
          ∧ (∀ c : Fin 32, scene.gains[c] = s.mixer.channels[c].gain.value)
          ∧ (∀ (c : Fin 32) (b : Fin 12), (scene.sends[c])[b] = (s.mixer.channels[c].sends[b]).value)
          ∧ ∀ b : Fin 12, scene.modes[b] = s.mixer.buses[b].mode ∧ scene.busGains[b] = s.mixer.buses[b].gain.value)
    ∧ (s.asks .meterSet [n] → ∃ t, exec .meterSet s = answered ⟨.ok, .none⟩ t
        ∧ t.mixer.meterPeriod = max 1 n.toNat ∧ t.mixer.periodCount = 0
        ∧ (∀ b : Fin 12, t.mixer.buses[b] = { s.mixer.buses[b] with meterPeak := 0, meterSaturations := 0 })
        ∧ t = { s with mixer := { s.mixer with
            meterPeriod := t.mixer.meterPeriod, periodCount := 0, buses := t.mixer.buses } })
    ∧ (∀ value : Byte, s.asks .returnSet [n, value] →
        (2 ≤ n.toNat → exec .returnSet s = refusedWith .badValue s)
        ∧ ∀ i : Fin 2, n.toNat = i.val →
          let threshold := max 4 (min 28 value.toNat)
          let old := s.mixer.returns[i]
          let primes := old.state = .priming ∧ threshold ≤ old.queue.length
          let new := { old with threshold := threshold, state := if primes then .playing else old.state }
          ∃ t, exec .returnSet s = answered ⟨.ok, .none⟩ t
            ∧ t.mixer = { s.mixer with returns := vecSet s.mixer.returns i new }
            ∧ t = { s with mixer := t.mixer, control := t.control })
    ∧ ∀ l r : Byte, ∀ i : Fin 4, n.toNat = i.val →
        let stages := fun setting : StreamSetting =>
          let staged := if s.mixer.streams[i].setting = setting then none else some setting
          let stream := { s.mixer.streams[i] with staged := staged }
          answered ⟨.ok, .none⟩ { s with mixer := { s.mixer with streams := vecSet s.mixer.streams i stream } }
        (s.asks .streamSet [n, 0, l, r] → exec .streamSet s = stages none)
        ∧ (s.asks .streamSet [n, 1, l, r] → ∀ left right : Fin 12, l.toNat = left.val → r.toNat = right.val →
            exec .streamSet s = stages (some (left, right)))

/-- R4, R122, R128, R129, R132, R133, R135, R140, R142, R143: a block tick counts the block, applies and empties the change
list, moves every ramp one step, takes 16 frames of every serial port, has each return buffer play, conceal or fall silent,
and has each stream take its staged setting and add a block to its frame. A direct change takes its value at once and ends
the ramp of that value; a recall takes its configuration at once and gives every gain and level a ramp from where it
stands. SCENE_DONE and METER_PERIOD_END end a recall and a period that a tick has left at their ends (the model's choice,
notes/assumptions/12.md). -/
def Obligations.AnAudioBlockTick : Prop :=
  (∀ s : State,
    let m := s.mixer
    (applyChanges m.changes.length s = m.changes.foldl applyChange { s with mixer := { m with changes := [] } })
    ∧ (∀ (c : Fin 32) (value : Int), applyChange s (.gain c value) = { s with mixer := { m with
        channels := vecSet m.channels c { m.channels[c] with gain := ⟨value, none⟩ } } })
    ∧ (∀ (c : Fin 32) (b : Fin 12) (value : Int), applyChange s (.send c b value) = { s with mixer := { m with
        channels := vecSet m.channels c { m.channels[c] with sends := vecSet m.channels[c].sends b ⟨value, none⟩ } } })
    ∧ (∀ (b : Fin 12) (mode : BusMode), applyChange s (.bus b (some mode) none) = { s with mixer := { m with
        buses := vecSet m.buses b { m.buses[b] with mode := mode } } })
    ∧ (∀ (b : Fin 12) (gain : Int), applyChange s (.bus b none (some gain)) = { s with mixer := { m with
        buses := vecSet m.buses b { m.buses[b] with gain := ⟨gain, none⟩ } } })
    ∧ (∀ (e : Fin 2) (port : Fin 8) (pair : Fin 4), applyChange s (.embed e port pair) = { s with mixer := { m with
        embedded := vecSet m.embedded e ⟨port, pair, { m.embedded[e].queue with frames := [] }⟩ } })
    ∧ (∀ (port : Fin 2) (pair : Fin 4) (left right : Option (Fin 12)),
        let o := (m.outputs[port])[pair]
        applyChange s (.output port pair left right) = { s with mixer := { m with
          outputs := vecSet m.outputs port (vecSet m.outputs[port] pair { o with left := left, right := right }) } })
    ∧ ∀ (slot : Fin 16) (length : Nat) (scene : Scene),
        let ramp := fun (l : Level) (target : Int) =>
          if length = 0 then (⟨target, none⟩ : Level) else ⟨l.value, some ⟨l.value, target, length, 0⟩⟩
        let u := applyChange s (.recallScene slot length scene)
        (∀ c : Fin 32, u.mixer.channels[c].gain = ramp m.channels[c].gain scene.gains[c]
          ∧ ∀ b : Fin 12, u.mixer.channels[c].sends[b] = ramp (m.channels[c].sends[b]) (scene.sends[c])[b])
        ∧ (∀ b : Fin 12, u.mixer.buses[b] = { m.buses[b] with
            mode := scene.modes[b], gain := ramp m.buses[b].gain scene.busGains[b] })
        ∧ u.mixer.recalling = (if length = 0 then none else some ⟨slot, length, 0⟩)
        ∧ u.control = queueNotice ⟨.sceneTaken slot length s.timing.blockNumber, s.timing.timecode⟩ s.control)
  ∧ (∀ r : ReturnBuffer,
      let block := (playReturn r).1
      (r.state = .priming → block = List.replicate 16 (0, 0))
      ∧ (r.state = .playing →
          (∀ oldest rest, r.queue = oldest :: rest → block = oldest)
          ∧ (r.queue = [] → r.emptyTicks = 0 → ∀ last, r.lastPlayed = some last → block.length = last.length
              ∧ ∀ (i : Nat) (pair : Sample × Sample), last[i]? = some pair →
                  ∃ half : Sample × Sample, block[i]? = some half
                ∧ half.1.toInt = pair.1.toInt / 2 ∧ half.2.toInt = pair.2.toInt / 2)
          ∧ (r.queue = [] → r.emptyTicks ≠ 0 → block = List.replicate 16 (0, 0))))
  ∧ (∀ (outputs : Vector (List Sample) 12) (s : State) (i : Fin 4) (left right : Fin 12),
      s.mixer.streams[i].setting = some (left, right) →
      let stream := s.mixer.streams[i]
      let pairs := outputs[left].zip outputs[right]
      let payload := bigEndian 4 stream.firstBlock.toNat ++ timecodeBytes stream.firstTimecode
        ++ (stream.blocks ++ [pairs]).flatten.flatMap fun pair => bigEndian 3 pair.1.toNat ++ bigEndian 3 pair.2.toNat
      let t := feedStream outputs s i
      (s.timing.blockNumber.toNat % 4 ≠ 3 → t.sched = s.sched ∧ t.mixer.streams[i].blocks = stream.blocks ++ [pairs])
      ∧ (s.timing.blockNumber.toNat % 4 = 3 → s.sched.audioQueue.length < 512 → t.sched = { s.sched with
          audioQueue := s.sched.audioQueue ++ [⟨i, stream.sequence, s.sched.tickCount, payload⟩] })
      ∧ (stream.blocks.length = 3 → (∀ block ∈ stream.blocks ++ [pairs], block.length = 16) → payload.length = 392))
  ∧ ∀ s : State,
    (let now := max s.now (s.timing.lastBlock + 4096)
      let u := applyChanges s.mixer.changes.length { s with
        now := now, timing := { s.timing with blockNumber := s.timing.blockNumber + 1, lastBlock := now } }
      ∃ t, exec .audioBlockTick s = .next t
        ∧ t.now = now
        ∧ t.timing = { s.timing with blockNumber := s.timing.blockNumber + 1, lastBlock := now }
        ∧ t.mixer.changes = [] ∧ t.mixer.scenes = s.mixer.scenes ∧ t.mixer.meterPeriod = s.mixer.meterPeriod
        ∧ (∀ c : Fin 32, t.mixer.channels[c].gain = stepLevel u.mixer.channels[c].gain
            ∧ ∀ b : Fin 12, t.mixer.channels[c].sends[b] = stepLevel (u.mixer.channels[c].sends[b]))
        ∧ (∀ b : Fin 12, t.mixer.buses[b].mode = u.mixer.buses[b].mode
            ∧ t.mixer.buses[b].gain = stepLevel u.mixer.buses[b].gain)
        ∧ (∀ p : Fin 3, t.mixer.serial[p] = { s.mixer.serial[p] with
            frames := s.mixer.serial[p].frames.drop 16
            shorts := s.mixer.serial[p].shorts + (if s.mixer.serial[p].frames.length < 16 then 1 else 0) })
        ∧ t.mixer.periodCount = (if s.mixer.meterPeriod ≤ s.mixer.periodCount + 1 then 0 else s.mixer.periodCount + 1)
        ∧ (∀ i : Fin 2,
            let r := s.mixer.returns[i]
            (r.state = .priming → t.mixer.returns[i] = r)
            ∧ (r.state = .playing →
                (∀ block rest, r.queue = block :: rest →
                  t.mixer.returns[i] = { r with queue := rest, lastPlayed := some block, emptyTicks := 0 })
                ∧ (r.queue = [] → r.emptyTicks = 0 →
                    t.mixer.returns[i] = { r with emptyTicks := 1, concealed := r.concealed + 1 })
                ∧ (r.queue = [] → r.emptyTicks ≠ 0 → t.mixer.returns[i] =
                    { r with state := .priming, lastPlayed := none, emptyTicks := 0, gaps := r.gaps + 1 })))
        ∧ (∀ i : Fin 4,
            let number := s.timing.blockNumber + 1
            let old := s.mixer.streams[i]
            let taken := match old.staged with
              | some setting =>
                if setting = none ∨ number.toNat % 4 = 0 then
                  { old with
                    setting := setting
                    staged := none
                    sequence := if old.setting = none then 0 else old.sequence
                    blocks := [] }
                else old
              | none => old
            let new := t.mixer.streams[i]
            new.setting = taken.setting ∧ new.staged = taken.staged ∧ (taken.setting = none → new = taken)
            ∧ (taken.setting ≠ none →
                (number.toNat % 4 = 0 → new.firstBlock = number ∧ new.firstTimecode = s.timing.timecode)
                ∧ (number.toNat % 4 = 3 → new.blocks = [] ∧ new.sequence = taken.sequence + 1
                    ∧ new.emitted = taken.emitted + 1)
                ∧ (number.toNat % 4 ≠ 3 → new.blocks.length = taken.blocks.length + 1
                    ∧ new.sequence = taken.sequence ∧ new.emitted = taken.emitted)))
        ∧ t.ports = s.ports ∧ t.straps = s.straps ∧ t.store.dram = s.store.dram ∧ t.pending = s.pending)
    ∧ ((∀ r, s.mixer.recalling = some r → r.steps < r.length) → exec .sceneDone s = finish s)
    ∧ (∀ r, s.mixer.recalling = some r → r.length ≤ r.steps → ∃ t, exec .sceneDone s = .next t
        ∧ t = { s with mixer := { s.mixer with recalling := none }, control := t.control })
    ∧ (s.mixer.periodCount < s.mixer.meterPeriod → exec .meterPeriodEnd s = finish s)
    ∧ (s.mixer.meterPeriod ≤ s.mixer.periodCount → ∃ t, exec .meterPeriodEnd s = .next t
        ∧ t = { s with mixer := clearMeters s.mixer, control := t.control })

/-- R122, R123: a sample frame joins the input queue of its serial port, and of each embedded selection of its port and pair
that is not silent; a queue that holds 48 loses its oldest frame and counts a slip. R137, R138: a return frame is checked
for its stream and length, its sequence and the room of its buffer, and its four blocks join the buffer; a PRIMING buffer at
its threshold enters PLAYING. The order of the notices (notes/assumptions/14.md), the head timecode of RETURN_SEQUENCE
(notes/assumptions/10.md) and which pairs count between two pictures (notes/assumptions/52.md, unsafe) are the model's
choices. -/
def Obligations.SampleFramesJoinTheirQueues : Prop :=
  (∀ (s : State) (p : Fin 4) (stream : Byte) (sequence : Seq) (payload : List Byte),
      let t := returnFrame p stream sequence payload s
      (2 ≤ stream.toNat ∨ payload.length ≠ 392 → t = raise (.badReturn p stream payload.length) s)
      ∧ ∀ i : Fin 2, stream.toNat = i.val → payload.length = 392 →
          let r := s.mixer.returns[i]
          let sample := fun at_ => BitVec.ofNat 24 (field payload at_ 3)
          let excess := r.queue.length - 28
          let queue := r.queue.drop excess ++ (List.range 4).map fun block =>
            (List.range 16).map fun j => (sample (8 + 96 * block + 6 * j), sample (11 + 96 * block + 6 * j))
          let broken := r.expected.filter fun e => e != sequence
          let plays := r.state = .priming ∧ r.threshold ≤ queue.length
          let notices : List NoticeBody :=
            (broken.map fun e => NoticeBody.returnSequence i e sequence (BitVec.ofNat 32 (field payload 0 4))
              (timecodeField payload 4)).toList
            ++ (if excess = 0 then [] else [.returnOverrun i excess])
            ++ (if plays then [.returnPlaying i queue.length] else [])
          t = { s with
            mixer := { s.mixer with returns := vecSet s.mixer.returns i { r with
              state := if plays then .playing else r.state
              queue := queue
              expected := some (sequence + 1)
              breaks := if broken = none then r.breaks else r.breaks + 1
              overruns := r.overruns + BitVec.ofNat 32 excess
              framesQueued := r.framesQueued + 1 } }
            control := notices.foldl (fun c body => queueNotice ⟨body, s.timing.timecode⟩ c) s.control })
  ∧ ∀ (s : State) (elapsed : Nat),
    let joined := fun (q : SampleQueue) (frame : List Sample) =>
      if 48 ≤ q.frames.length then { q with frames := q.frames.tail ++ [frame], slips := q.slips + 1 }
      else { q with frames := q.frames ++ [frame] }
    (∀ (port : Fin 3) (samples : Vector Sample 8), exec (.serialSampleFrame elapsed port samples) s =
      finish { s with
        now := s.now + elapsed
        mixer := { s.mixer with
          serial := vecSet s.mixer.serial port (joined s.mixer.serial[port] samples.toList) } })
    ∧ ∀ (port : Fin 8) (pair : Fin 4) (left right : Sample),
        ∃ t, exec (.embeddedSampleFrame elapsed port pair left right) s = finish t
          ∧ (∀ e : Fin 2, t.mixer.embedded[e] =
              if s.mixer.embedded[e].port = port ∧ s.mixer.embedded[e].pair = pair
                  ∧ s.silent s.mixer.embedded[e] = false then
                { s.mixer.embedded[e] with queue := joined s.mixer.embedded[e].queue [left, right] }
              else s.mixer.embedded[e])
          ∧ t = { s with
              now := s.now + elapsed, mixer := { s.mixer with embedded := t.mixer.embedded } }

/-- R132: a value under a ramp of R steps stands, after n steps, at the start plus n/R of the way rounded toward zero, and
from step R on at the target with no ramp. -/
def Obligations.ARampReachesItsTarget : Prop :=
  ∀ (l : Level) (R n : Nat) (target : Int),
    (n < R → (stepLevel^[n] (startRamp R l target)).value = l.value + ((target - l.value) * n).tdiv R)
    ∧ (R ≤ n → stepLevel^[n] (startRamp R l target) = ⟨target, none⟩)

/-- R124, R126, R127, R128, R134, R135: a FOLLOW bus gives the same samples whatever its excluded channel carries, an OFF bus
gives silence, and every output lies within 24 bits. A gained sample is (x g + 8192) >> 14 within 24 bits; a bus gives at
each position (acc G + 8192) >> 14 within 24 bits, acc being the sum of the 32 terms (y e + 8192) >> 14 with the channel's
own level e for a MIX bus, and for a FOLLOW bus the level to its reference, 0 for its excluded channel. Samples that were
set to a limit are counted at the channel or the bus, a meter keeps the greatest magnitude, and an output pair plays the
samples of its buses, or 0. An audio block tick mixes the blocks that its queues and return buffers give, with the values as
they stand after the changes and ramps of the tick. -/
def Obligations.AMixMinusLeavesItsChannelOut : Prop :=
  (∀ (m : Mixer) (gained gained' : Vector (List Int) 32) (b : Fin 12),
    (∀ c : Fin 32, gained[c].length = 16 ∧ gained'[c].length = 16) →
    (∀ (reference : Fin 12) (excluded : Fin 32), m.buses[b].mode = .follow reference excluded →
      (∀ c : Fin 32, c ≠ excluded → gained[c] = gained'[c]) → busBlock m gained b = busBlock m gained' b)
    ∧ (m.buses[b].mode = .off → busBlock m gained b = (List.replicate 16 0, 0))
    ∧ (busBlock m gained b).1.length = 16
    ∧ (∀ x ∈ (busBlock m gained b).1, -8388608 ≤ x ∧ x ≤ 8388607)
    ∧ ∀ level : Fin 32 → Int,
        (m.buses[b].mode = .mix ∧ (∀ c, level c = (m.channels[c].sends[b]).value)
          ∨ ∃ reference excluded, m.buses[b].mode = .follow reference excluded
            ∧ ∀ c, level c = if c = excluded then 0 else (m.channels[c].sends[reference]).value) →
        let acc := fun i : Nat =>
          ((List.finRange 32).map fun c : Fin 32 => ((gained[c][i]?).getD 0 * level c + 8192) >>> (14 : Nat)).sum
        let out := fun i : Nat => (acc i * m.buses[b].gain.value + 8192) >>> (14 : Nat)
        (∀ i < 16, (busBlock m gained b).1[i]? = some (max (-8388608) (min 8388607 (out i))))
          ∧ (busBlock m gained b).2 = (List.range 16).countP fun i => decide (out i < -8388608 ∨ 8388607 < out i))
  ∧ (∀ (m : Mixer) (c : Fin 32) (input : List Int),
      gainedRaw m c input = input.map fun x => (x * m.channels[c].gain.value + 8192) >>> (14 : Nat))
  ∧ (∀ (outputs : Vector (List Sample) 12) (left right : Option (Fin 12)), (∀ b : Fin 12, outputs[b].length = 16) →
      let side := fun (bus : Option (Fin 12)) (i : Nat) =>
        match bus with | some b => (outputs[b][i]?).getD 0 | none => (0 : Sample)
      (sidePairs outputs left right).length = 16
        ∧ ∀ i < 16, (sidePairs outputs left right)[i]? = some (side left i, side right i))
  ∧ (∀ (block : List Int × Nat) (bus : Bus),
      let new := meterBlock block bus
      (bus.mode = .off → new = bus)
      ∧ (bus.mode ≠ .off → bus.meterPeak ≤ new.meterPeak ∧ (∀ x ∈ block.1, x.natAbs ≤ new.meterPeak)
          ∧ (new.meterPeak = bus.meterPeak ∨ ∃ x ∈ block.1, new.meterPeak = x.natAbs)
          ∧ new = { bus with
              meterPeak := new.meterPeak, meterSaturations := bus.meterSaturations + block.2 }))
  ∧ (∀ (inputs : Vector (List Int) 32) (s : State),
      let m := s.mixer
      let clip := fun x : Int => max (-8388608) (min 8388607 x)
      let gained := Vector.ofFn fun c : Fin 32 => (gainedRaw m c inputs[c]).map clip
      let samples := Vector.ofFn fun b : Fin 12 => (busBlock m gained b).1.map (BitVec.ofInt 24)
      let t := mixBlock inputs s
      (∀ c : Fin 32, t.mixer.channels[c] = { m.channels[c] with
          saturations := m.channels[c].saturations
            + BitVec.ofNat 32 ((gainedRaw m c inputs[c]).countP fun x => decide (clip x ≠ x)) })
      ∧ (∀ b : Fin 12,
          let metered := meterBlock (busBlock m gained b) m.buses[b]
          t.mixer.buses[b] = if m.meterPeriod ≤ m.periodCount + 1 then
              { metered with meterPeak := 0, meterSaturations := 0 } else metered)
      ∧ (m.periodCount + 1 < m.meterPeriod → (∀ i : Fin 4, m.streams[i].setting = none) → t.control = s.control)
      ∧ ∀ (port : Fin 2) (pair : Fin 4), (t.mixer.outputs[port])[pair] =
          { (m.outputs[port])[pair] with
            playing := sidePairs samples (m.outputs[port])[pair].left (m.outputs[port])[pair].right })
  ∧ ∀ s : State,
    let u := applyChanges s.mixer.changes.length { s with
      now := max s.now (s.timing.lastBlock + 4096)
      timing := { s.timing with
        blockNumber := s.timing.blockNumber + 1, lastBlock := max s.now (s.timing.lastBlock + 4096) } }
    let queued := fun (q : SampleQueue) (k i : Nat) => (((q.frames[i]?).bind fun frame => frame[k]?).getD 0).toInt
    ∃ (inputs : Vector (List Int) 32) (w : State), exec .audioBlockTick s = finish (serve (mixBlock inputs w))
      ∧ (∀ c : Fin 32, inputs[c].length = 16 ∨ 28 ≤ c.val)
      ∧ (∀ (c : Fin 32) (p : Fin 3) (k : Nat), k < 8 → c.val = 8 * p.val + k → ∀ i < 16,
          inputs[c][i]? = some (queued s.mixer.serial[p] k i))
      ∧ (∀ (c : Fin 32) (e : Fin 2) (k : Nat), k < 2 → c.val = 24 + 2 * e.val + k → ∀ i < 16,
          inputs[c][i]? = some (if u.silent u.mixer.embedded[e] then 0 else queued u.mixer.embedded[e].queue k i))
      ∧ (∀ (c : Fin 32) (r : Fin 2),
          let block := (playReturn s.mixer.returns[r]).1
          (c.val = 28 + 2 * r.val → inputs[c] = block.map fun pair => pair.1.toInt)
          ∧ (c.val = 29 + 2 * r.val → inputs[c] = block.map fun pair => pair.2.toInt))
      ∧ (∀ c : Fin 32, w.mixer.channels[c] = { u.mixer.channels[c] with
          gain := stepLevel u.mixer.channels[c].gain
          sends := w.mixer.channels[c].sends }
          ∧ ∀ b : Fin 12, w.mixer.channels[c].sends[b] = stepLevel (u.mixer.channels[c].sends[b]))
      ∧ (∀ b : Fin 12, w.mixer.buses[b] = { u.mixer.buses[b] with gain := stepLevel u.mixer.buses[b].gain })
      ∧ w.mixer.outputs = u.mixer.outputs ∧ w.mixer.meterPeriod = s.mixer.meterPeriod
      ∧ w.mixer.periodCount = s.mixer.periodCount

/-! ## Paths (07) -/

/-- R147 to R150, R154, R206: PATH_OPEN takes a path in DOWN to PROBE with a HELLO queued; PATH_CLOSE drains a path in
CARRY behind a CLOSE frame, takes one in PROBE DOWN and waits for the replay of one in RECOVER; PATH_SET stores its values
clamped and moves the ack deadline, and acts on one that has passed as R158 says of its expiry. That the cells of a frame
that has not arrived whole are dropped at the entry to PROBE (notes/assumptions/23.md, unsafe), and that a picture's entries
name its timecode (notes/assumptions/20.md, unsafe), are the model's choices. -/
def Obligations.PathRequestsByState : Prop :=
  ∀ (s : State) (n : Byte),
    (4 ≤ n.toNat →
      (s.asks .pathOpen [n] → exec .pathOpen s = refusedWith .badValue s)
      ∧ (s.asks .pathClose [n] → exec .pathClose s = refusedWith .badValue s)
      ∧ ∀ high low limit : Byte, s.asks .pathSet [n, high, low, limit] → exec .pathSet s = refusedWith .badValue s)
    ∧ ∀ p : Fin 4, n.toNat = p.val →
        (s.asks .pathOpen [n] →
          (s.paths[p].state ∈ [PathState.carry, .recover, .drain] → exec .pathOpen s = refusedWith .badState s)
          ∧ (s.paths[p].state = .probe → exec .pathOpen s = answered ⟨.ok, .none⟩ (serve s))
          ∧ (s.paths[p].state = .down → ∃ u, exec .pathOpen s = answered ⟨.accepted, .none⟩ (serve u)
              ∧ u.paths = vecSet s.paths p { s.paths[p] with
                  state := .probe
                  credit := 0
                  retry := []
                  sendPointer := 0
                  acked := 0
                  ackDeadline := none
                  retryCount := 0
                  closePending := false
                  closeOwed := false
                  helloCount := 1
                  helloDue := some (s.now + 100 * millisecond)
                  expected := 0
                  unreturned := 0
                  creditTimer := none
                  creditFired := false
                  receiveError := false
                  requestQueued := none
                  homeRetry := false
                  control := [.hello 1]
                  arriving := [] }
              ∧ u = { s with paths := u.paths, alloc := u.alloc, control := u.control }))
        ∧ (s.asks .pathClose [n] →
            (s.paths[p].state ∈ [PathState.down, .drain] → exec .pathClose s = answered ⟨.ok, .none⟩ (serve s))
            ∧ (s.paths[p].state = .probe → s.paths[p].retry = [] → ∃ u,
                exec .pathClose s = answered ⟨.ok, .none⟩ (serve u)
                  ∧ u.paths[p].state = .down ∧ u.paths[p].control = [] ∧ u.paths[p].transmitter = none
                  ∧ (∀ q : Fin 4, q ≠ p → u.paths[q] = s.paths[q]))
            ∧ (s.paths[p].state = .carry → ∃ u, exec .pathClose s = answered ⟨.accepted, .none⟩ (serve u)
                ∧ u.paths = vecSet s.paths p { s.paths[p] with
                    state := .drain, control := s.paths[p].control ++ [.close] }
                ∧ u = { s with paths := u.paths, alloc := u.alloc, control := u.control })
            ∧ (s.paths[p].state = .recover → exec .pathClose s = answered ⟨.accepted, .none⟩ (serve
                { s with paths := vecSet s.paths p { s.paths[p] with
                  closePending := true, closeOwed := s.paths[p].closeOwed || !s.paths[p].closePending } })))
        ∧ ∀ high low limit : Byte, s.asks .pathSet [n, high, low, limit] →
            let timeout := max 10 (min 2000 (high.toNat * 256 + low.toNat))
            let retries := max 1 (min 15 limit.toNat)
            let deadline := s.paths[p].retry.head?.map fun e => e.sentAt + timeout * millisecond
            let path := { s.paths[p] with ackTimeout := timeout, retryLimit := retries, ackDeadline := deadline }
            let answers := fun u => exec .pathSet s = answered ⟨.ok, .pathValues timeout retries⟩ (serve u)
            let fails := ∃ u, answers u ∧ u.paths[p].state = .down ∧ u.paths[p].retry = [] ∧ u.paths[p].control = []
              ∧ u.paths[p].credit = 0 ∧ u.paths[p].ackTimeout = timeout ∧ u.paths[p].retryLimit = retries
              ∧ (∀ q : Fin 4, q ≠ p → u.paths[q] = s.paths[q]) ∧ u.timing = s.timing ∧ u.store.dram = s.store.dram
              ∧ s.handsOn u path.retry
            ((∀ t, deadline = some t → s.now < t) ∨ path.state ∉ [PathState.carry, .drain] →
              answers { s with paths := vecSet s.paths p path })
            ∧ ∀ t, deadline = some t → t ≤ s.now →
                (path.state = .carry → path.retryCount < retries → ∃ u, answers u
                  ∧ u.paths = vecSet s.paths p { path with
                      state := .recover
                      retryCount := path.retryCount + 1
                      retries := path.retries + 1
                      replay := some 0
                      control := path.control ++ [.retryMark path.acked, .retryMark path.acked] }
                  ∧ u = { s with paths := u.paths, alloc := u.alloc, control := u.control })
                ∧ (path.state = .carry → retries ≤ path.retryCount → fails)
                ∧ (path.state = .drain → fails)

/-- R150, R158, R159, R162, R163, R167, R172 with R117, R179 and R190: what the four timers of a path do when their
deadlines come. The fifth HELLO, the retry beyond the limit and an ack deadline in DRAIN take the path DOWN with an empty
retry buffer, and the pictures and clips of the frames it held are handed on as lost. That a credit timer expires once
until it is set again, and is present meanwhile, is the model's choice (notes/assumptions/22.md, unsafe), and so are that a
picture's entries name its timecode (notes/assumptions/20.md, unsafe) and that the ack timeout in force when the expiry is
taken measures the wait for the repeat (notes/assumptions/53.md, unsafe). -/
def Obligations.PathTimersExpire : Prop :=
  ∀ (s : State) (p : Fin 4) (t : Nat),
    let now := max s.now t
    let path := s.paths[p]
    let next := fun path => finish (serve { s with now := now, paths := vecSet s.paths p path })
    let fails := fun outcome => ∃ u, outcome = finish (serve u) ∧ u.now = now
      ∧ u.paths[p].state = .down ∧ u.paths[p].retry = [] ∧ u.paths[p].control = [] ∧ u.paths[p].credit = 0
      ∧ (∀ q : Fin 4, q ≠ p → u.paths[q] = s.paths[q]) ∧ u.timing = s.timing ∧ u.store.dram = s.store.dram
      ∧ s.handsOn u path.retry
    (path.state = .probe → path.helloDue = some t →
      (path.helloCount < 5 → exec (.helloTimeout p) s = next { path with
        helloCount := path.helloCount + 1
        helloDue := some (now + 100 * millisecond)
        control := path.control ++ [.hello (path.helloCount + 1)] })
      ∧ (5 ≤ path.helloCount → path.retry = [] → fails (exec (.helloTimeout p) s)))
    ∧ (path.ackDeadline = some t →
        (path.state = .recover → exec (.ackTimeout p) s = finish (serve { s with now := now }))
        ∧ (path.state = .carry → path.retry ≠ [] → path.retryCount < path.retryLimit → ∃ u,
            exec (.ackTimeout p) s = finish (serve u) ∧ u.now = now
              ∧ u.paths = vecSet s.paths p { path with
                  state := .recover
                  retryCount := path.retryCount + 1
                  retries := path.retries + 1
                  replay := some 0
                  control := path.control ++ [.retryMark path.acked, .retryMark path.acked] }
              ∧ u = { s with now := now, paths := u.paths, alloc := u.alloc, control := u.control })
        ∧ (path.state = .carry → path.retryLimit ≤ path.retryCount → fails (exec (.ackTimeout p) s))
        ∧ (path.state = .drain → fails (exec (.ackTimeout p) s)))
    ∧ (path.creditTimer = some t → path.state ∈ [PathState.carry, .recover, .drain] →
        (path.creditFired = false → exec (.creditTimerExpiry p) s =
          next { path with creditFired := true, control := path.control ++ [.credit false] })
        ∧ (path.creditFired = true → exec (.creditTimerExpiry p) s = finish s))
    ∧ (path.requestQueued = some t → path.receiveError = true →
        let later := max s.now (t + path.ackTimeout * millisecond)
        let asking := { path with requestQueued := some later, control := path.control ++ [.credit true] }
        exec (.retryRequestRepeat p) s =
          finish (serve { s with now := later, paths := vecSet s.paths p asking }))

/-- R151, R152, R156, R157, R159 to R161, R164 to R171: a frame that arrives whole is handled by the state of its path. In
PROBE a good HELLO_REPLY opens the path. An ack pointer frees the entries that it covers, or is reported; RETRY_REQUEST
starts one replay, and an entry is replayed as it was built; the end of a replay leaves CARRY, or DRAIN for a close that is
pending; a drained path goes DOWN. A frame that fails a check sets the receive-error flag, reports its cause and asks home
to send again; while the flag is set a good RETRY_MARK alone clears it. A good or poisoned sequenced frame moves the
expected pointer and the unreturned credits, and a good one is dispatched by its kind; a CLIP_CONFIRM or a HELLO_REPLY too short for its payload is an unknown kind. The
end of a sent frame leaves the
transmitter IDLE; a path in DOWN discards what arrives; a CREDIT frame adds its credits up to the ceiling. Three things are
the model's choice: that an end with no frame in transmission has no effect (notes/assumptions/2.md), that the end of a frame
which a demand read still feeds ends the read first, in a time of its own that the sender did not give
(notes/assumptions/15.md), that a credit timer
which has expired is set again by a rise of the unreturned credits from 0 (notes/assumptions/22.md), and that close pending
stays set in the DRAIN that follows a replay (notes/assumptions/24.md, unsafe). -/
def Obligations.FramesLeaveAndArrive : Prop :=
  (∀ (s : State) (elapsed : Nat) (p : Fin 4) (f : PathFrame), 1 ≤ f.contents.cells → f.contents.cells ≤ 16 →
    f.contents.payload.length ≤ 32 * f.contents.cells - 16 → s.paths[p].state ≠ .down → s.paths[p].arriving = [] →
      exec (.homeFrameReceived elapsed p (frameBytes f)) s =
        finish (serve (receiveFrame p (readHomeFrame (frameBytes f)) { s with now := s.now + elapsed })))
  ∧ (∀ (s : State) (p : Fin 4) (f : HomeFrame), s.paths[p].state = .probe →
      let t := receiveFrame p f s
      let ceiling := field f.payload 0 2
      (f.kind ≠ 0x03 ∨ f.lengthOk = false ∨ f.crc ≠ .whole ∨ f.count < 2 → t = s)
      ∧ (f.kind = 0x03 → f.lengthOk = true → f.crc = .whole → 2 ≤ f.count →
          (ceiling < 16 ∨ 4095 < ceiling → t = raise (.badHello p ceiling) s)
          ∧ (16 ≤ ceiling → ceiling ≤ 4095 → t.paths = vecSet s.paths p { s.paths[p] with
                state := .carry
                ceiling := ceiling
                credit := ceiling
                allowance := s.alloc.pathRate[p]
                helloDue := none }
              ∧ t.alloc.carrying = vecSet s.alloc.carrying p true
              ∧ t = { s with paths := t.paths, alloc := t.alloc, control := t.control })))
  ∧ (∀ (s : State) (p : Fin 4) (pointer : Nat), s.paths[p].state = .carry →
      let path := s.paths[p]
      let cells := fun entries : List RetryEntry => (entries.map fun e => e.contents.cells).sum
      let d := (pointer + 512 - path.acked.toNat) % 512
      let t := takeAck p pointer s
      (pointer ≤ 511 → d = 0 → t = s)
      ∧ (pointer ≤ 511 → 0 < d → ∀ freed kept, path.retry = freed ++ kept → cells freed = d →
          (∀ e ∈ freed, 0 < e.contents.cells) → t = { s with paths := vecSet s.paths p { path with
            retry := kept
            acked := BitVec.ofNat 9 pointer
            retryCount := 0
            ackDeadline := kept.head?.map fun e => e.sentAt + path.ackTimeout * millisecond
            replay := path.replay.map fun place => place - freed.length } })
      ∧ (511 < pointer ∨ 0 < d ∧ (∀ n, cells (path.retry.take n) ≠ d) →
          t = raise (.badAck p pointer path.acked (cells path.retry)) s))
  ∧ (∀ (s : State) (p : Fin 4) (requested : Bool),
      let path := s.paths[p]
      let t := testRetry p requested s
      (requested = false ∨ path.homeRetry = true ∨ path.state = .recover →
        t = { s with paths := vecSet s.paths p { path with homeRetry := requested } })
      ∧ (requested = true → path.homeRetry = false → path.state ∈ [PathState.carry, .drain] → path.retry ≠ [] →
          path.retryCount < path.retryLimit → t.paths = vecSet s.paths p { path with
              state := .recover
              retryCount := path.retryCount + 1
              retries := path.retries + 1
              closePending := path.closePending || path.state == .drain
              replay := some 0
              control := path.control ++ [.retryMark path.acked, .retryMark path.acked]
              homeRetry := true }
            ∧ t = { s with paths := t.paths, alloc := t.alloc, control := t.control }))
  ∧ (∀ (s : State) (p : Fin 4) (n : Nat) (e : RetryEntry),
      let path := s.paths[p]
      path.state = .recover → path.transmitter = none → path.control = [] → path.replay = some n →
      path.retry[n]? = some e →
        let t := pathChoice p s
        let path' := t.paths[p]
        path'.retry = path.retry.set n { e with sentAt := s.now } ∧ path'.replay = some (n + 1)
          ∧ path'.framesReplayed = path.framesReplayed + 1
          ∧ path'.transmitter = some ⟨e.contents, ⟨path.receiveError, min path.unreturned 255, e.start, path.expected,
              e.poisoned⟩, some e.start⟩
          ∧ path'.unreturned = path.unreturned - min path.unreturned 255
          ∧ path'.credit = path.credit ∧ path'.sendPointer = path.sendPointer
          ∧ t = { s with paths := vecSet s.paths p path' })
  ∧ (∀ (s : State) (p : Fin 4),
      let path := s.paths[p]
      let t := settleStates p s
      (∀ n, path.state = .recover → path.transmitter = none → path.replay = some n → path.retry.length ≤ n →
        path.retry ≠ [] → t.paths = vecSet s.paths p { path with
            state := if path.closePending then .drain else .carry
            replay := none
            ackDeadline := path.retry.head?.map fun e => e.sentAt + path.ackTimeout * millisecond
            closeOwed := path.closeOwed && !path.closePending
            control := if path.closePending && path.closeOwed then path.control ++ [.close] else path.control }
          ∧ t = { s with paths := t.paths, alloc := t.alloc, control := t.control })
      ∧ (path.state = .drain → path.transmitter = none → path.control = [] → path.retry = [] →
          t.paths[p].state = .down ∧ t.paths[p].credit = 0 ∧ (∀ q : Fin 4, q ≠ p → t.paths[q] = s.paths[q])
            ∧ t = { s with paths := t.paths, alloc := t.alloc, control := t.control }))
  ∧ (∀ (s : State) (p : Fin 4) (f : HomeFrame), s.paths[p].state ∈ [PathState.carry, .recover, .drain] →
      let path := s.paths[p]
      let t := receiveFrame p f s
      let sequenced := f.kind.toNat = 0 ∨ 5 < f.kind.toNat
      (path.receiveError = false → ∀ cause : ReceiveCause,
        (match cause with
          | .length => f.lengthOk = false
          | .crc => f.lengthOk = true ∧ (f.crc = .bad ∨ f.crc = .poisoned ∧ ¬sequenced)
          | .pointer => f.lengthOk = true ∧ f.crc ≠ .bad ∧ sequenced ∧ f.sendPointer ≠ path.expected.toNat
          | .overrun => f.lengthOk = true ∧ f.crc ≠ .bad ∧ sequenced ∧ f.sendPointer = path.expected.toNat
              ∧ 256 < path.unreturned + f.cells) →
        t.paths = vecSet s.paths p { path with
            receiveError := true
            requestQueued := some s.now
            control := path.control ++ [.credit true]
            framesReceived := path.framesReceived + 1
            framesRejected := path.framesRejected + 1
            warnings := path.warnings + 1 }
          ∧ t.control = queueNotice ⟨.receiveError p cause, s.timing.timecode⟩ s.control
          ∧ t = { s with paths := t.paths, control := t.control })
      ∧ (path.receiveError = true →
          (f.lengthOk = false ∨ f.crc = .bad ∨ f.crc = .poisoned ∧ ¬sequenced →
            t = { s with paths := vecSet s.paths p { path with
              framesReceived := path.framesReceived + 1, framesRejected := path.framesRejected + 1 } })
          ∧ (f.kind = 0x04 → f.lengthOk = true → f.crc = .whole → f.retryRequest = false → f.creditReturn = 0 →
              path.credit ≤ path.ceiling → f.ackPointer = path.acked.toNat →
              t = { s with paths := vecSet s.paths p { path with
                framesReceived := path.framesReceived + 1
                receiveError := false
                requestQueued := none
                homeRetry := false } })))
  ∧ (∀ (s : State) (p : Fin 4) (f : HomeFrame), s.paths[p].state = .carry → s.paths[p].receiveError = false →
      s.paths[p].credit ≤ s.paths[p].ceiling → f.lengthOk = true → f.retryRequest = false → f.creditReturn = 0 →
      f.ackPointer = s.paths[p].acked.toNat →
      let path := { s.paths[p] with framesReceived := s.paths[p].framesReceived + 1, homeRetry := false }
      let t := receiveFrame p f s
      let sequenced := f.kind.toNat = 0 ∨ 5 < f.kind.toNat
      (f.crc = .whole → ¬sequenced →
        (f.kind ∈ [kindCredit, kindRetryMark] → t = { s with paths := vecSet s.paths p path })
        ∧ (f.kind = kindHello ∨ f.kind = kindHelloReply ∧ 2 ≤ f.count →
            t = raise (.unexpectedKind p f.kind) { s with paths := vecSet s.paths p path })
        ∧ (f.kind = kindHelloReply → f.count < 2 →
            t = raise (.unknownKind p f.kind) { s with paths := vecSet s.paths p path })
        ∧ (f.kind = kindClose → t.paths = vecSet s.paths p { path with state := .drain }
            ∧ t = { s with paths := t.paths, alloc := t.alloc, control := t.control }))
      ∧ (sequenced → f.sendPointer = path.expected.toNat → path.unreturned + f.cells ≤ 256 →
          let total := path.unreturned + f.cells
          let waits := path.control.any fun c => c == .credit false || c == .credit true
          let taken := { s with paths := vecSet s.paths p { path with
            expected := path.expected + BitVec.ofNat 9 f.cells
            unreturned := total
            creditTimer := if path.unreturned = 0 then some (s.now + 5 * millisecond) else path.creditTimer
            creditFired := path.creditFired && path.unreturned != 0
            control := if 32 ≤ total ∧ waits = false then path.control ++ [.credit false] else path.control } }
          (f.crc = .poisoned → t = raise (.poisonReceived p f.kind f.sendPointer) taken)
          ∧ (f.crc = .whole →
              (f.kind = kindReturnAudio → t = returnFrame p f.stream f.sequence f.payload taken)
              ∧ (f.kind = kindClipConfirm → 4 ≤ f.count →
                  t = confirmClip p (field f.payload 0 2) (BitVec.ofNat 16 (field f.payload 2 2)) taken)
              ∧ (f.kind = kindClipConfirm → f.count < 4 → t = raise (.unknownKind p f.kind) taken)
              ∧ (f.kind = kindHomeMessage → t = raise (.homeMessage p f.count f.payload) taken)
              ∧ (f.kind ∉ [kindReturnAudio, kindClipConfirm, kindHomeMessage] →
                  t = raise (.unknownKind p f.kind) taken))))
  ∧ ∀ (s : State) (elapsed : Nat) (p : Fin 4),
    let s' := { s with now := s.now + elapsed }
    let path := s.paths[p]
    (path.transmitter = none → exec (.pathFrameEnd elapsed p) s = finish (serve s'))
    ∧ (∀ f, path.transmitter = some f → (∀ r ∈ s.sched.reads, r.path = some p → f.entry ≠ some r.start) →
        exec (.pathFrameEnd elapsed p) s =
          finish (serve { s' with paths := vecSet s.paths p { path with transmitter := none } }))
    ∧ (∀ f before r after, path.transmitter = some f → s.sched.reads = before ++ r :: after →
        (∀ q ∈ before, q.path = some p → f.entry ≠ some q.start) → r.path = some p → f.entry = some r.start →
        let u := endRead r s'
        exec (.pathFrameEnd elapsed p) s =
            finish (serve { u with paths := vecSet u.paths p { u.paths[p] with transmitter := none } })
          ∧ u.sched = { s.sched with reads := s.sched.reads.erase r } ∧ u.now = s'.now)
    ∧ (∀ cells, path.state = .down → exec (.homeFrameReceived elapsed p cells) s = finish (serve s'))
    ∧ (path.state ∈ [PathState.carry, .recover, .drain] → path.arriving = [] → path.receiveError = false →
        (∀ (returned : Nat) (pointer : Pointer), returned < 256 →
          ∃ u, exec (.homeFrameReceived elapsed p (frameBytes
                ⟨⟨kindCredit, 1, 0, false, false, 0, []⟩, ⟨false, returned, pointer, path.acked, false⟩, none⟩)) s
              = finish (serve u)
            ∧ u.paths = vecSet s.paths p { path with
                credit := min path.ceiling (path.credit + returned)
                homeRetry := false
                framesReceived := path.framesReceived + 1
                warnings := if path.ceiling < path.credit + returned then path.warnings + 1 else path.warnings }
            ∧ u = { s' with paths := u.paths, control := u.control })
        ∧ ∀ cell : List Byte, cell.length = 32 → lengthsAgree cell = true → headCells cell = 1 →
            (readHomeFrame cell).lengthOk = true → (readHomeFrame cell).crc = .bad →
            ∃ u, exec (.homeFrameReceived elapsed p cell) s = finish (serve u)
              ∧ u.paths = vecSet s.paths p { path with
                  receiveError := true
                  requestQueued := some s'.now
                  control := path.control ++ [.credit true]
                  framesReceived := path.framesReceived + 1
                  framesRejected := path.framesRejected + 1
                  warnings := path.warnings + 1 }
              ∧ u = { s' with paths := u.paths, control := u.control })

/-- R207, R208 with Tables 10-5 and 10-6: the fields that the part reads from a frame's bytes are those the frame was built
from, for every kind, stream, length, RETRY_REQUEST flag, sequence, pointer and payload; a poisoned frame reads as
poisoned. The flags LAST and TRUNCATED, which the part itself does not read, stand in bits 6 and 5 of the fourth byte. -/
def Obligations.AFrameReadsAsItWasBuilt : Prop :=
  ∀ f : PathFrame, 1 ≤ f.contents.cells → f.contents.cells ≤ 16 →
    f.contents.payload.length ≤ 32 * f.contents.cells - 16 → f.tail.creditReturn < 256 →
    (frameBytes f).length = 32 * f.contents.cells
      ∧ (∃ flags, (frameBytes f)[3]? = some flags ∧ flags.getLsbD 6 = f.contents.last
          ∧ flags.getLsbD 5 = f.contents.truncated)
      ∧ lengthsAgree (frameBytes f) = true ∧ headCells (frameBytes f) = f.contents.cells
      ∧ readHomeFrame (frameBytes f) =
        { kind := f.contents.kind
          cells := f.contents.cells
          lengthOk := !isControlKind f.contents.kind || f.contents.cells == 1
          stream := f.contents.stream
          retryRequest := f.tail.retryRequest
          sequence := f.contents.sequence
          count := f.contents.payload.length
          payload := f.contents.payload
          creditReturn := f.tail.creditReturn
          sendPointer := f.tail.sendPointer.toNat
          ackPointer := f.tail.ackPointer.toNat
          crc := if f.tail.poisoned then .poisoned else .whole }

/-! ## The scheduler (08) -/

/-- R152, R180: after an event that may let a frame start each path settles its state, makes its own choice and settles
again, the paths in ascending number; then the clip class takes its steps, and when it has none the first candidate that can
be taken is started, repeated until nothing is left to do. What this does reaches paths, clips, live buffers, the allocation
and notices; it leaves time, the inputs, the mixer, the stored bytes, every coder setting and every waiting request alone.
When the scheduler runs, and the bound on its repetitions, are the model's choice (notes/assumptions/29.md, unsafe). -/
def Obligations.TheSchedulerLeavesTheRestAlone : Prop :=
  (∀ s : State,
    (∀ p : Fin 4, settlePath s p = settleStates p (pathChoice p (settleStates p s)))
    ∧ (let u := settlePath (settlePath (settlePath (settlePath s 0) 1) 2) 3
       serve s = serveLoop (serveBound u) u)
    ∧ serveLoop 0 s = s
    ∧ ∀ n : Nat,
        (∀ t, clipStep s = some t → serveLoop (n + 1) s = serveLoop n t)
        ∧ (∀ t, clipStep s = none → chooseFrame s = some t → serveLoop (n + 1) s = serveLoop n t)
        ∧ (clipStep s = none → chooseFrame s = none → serveLoop (n + 1) s = s))
  ∧ ∀ s : State,
    let t := serve s
    t.now = s.now ∧ t.timing = s.timing ∧ t.ports = s.ports ∧ t.mixer = s.mixer ∧ t.straps = s.straps
      ∧ t.store.dram = s.store.dram ∧ t.store.lineErrors = s.store.lineErrors ∧ t.freeReads = s.freeReads
      ∧ t.tickOrders = s.tickOrders ∧ t.pending = s.pending
      ∧ (∀ c : Fin 6, t.coders[c] = { s.coders[c] with liveBuffer := t.coders[c].liveBuffer })
      ∧ t.control = { s.control with
          notices := t.control.notices
          noticeOverrun := t.control.noticeOverrun
          metersDropped := t.control.metersDropped
          noticesLost := t.control.noticesLost }
      ∧ t.alloc.pathRate = s.alloc.pathRate ∧ t.alloc.weight = s.alloc.weight ∧ t.alloc.share = s.alloc.share

/-- R153, R177, R180 to R191: the audio class comes before the channels within their allowances, these before the clip class
within its own, and then the channels and the clip class beyond theirs. A frame goes to the path that can take it with the
most allowance, the lowest-numbered of equals; it lowers that path's credit and allowance and moves its send pointer by its
cells, and no other path changes. A channel sends its oldest picture in chunks of 496 bytes. The clip class chooses by
rating and queue number; HOLD and preemption are tested at a boundary, and again while the clip waits; while it waits it
lends the class to the first clip that could go on. A clip gives its queued items first, then START, chunks of 488 bytes, a
DAMAGED item for a damaged segment, and END, at which it awaits its confirm; a rewind goes back behind a RESEND item, a
cut range moves the cursor back to its end, and one that extends moves it on. Six things are the model's choice: that
a VIDEO entry's owner carries the picture's timecode (notes/assumptions/20.md, unsafe), that a begun picture's next frame
carries its truncate mark (notes/assumptions/26.md, unsafe), where a clip held at its last boundary stands
(notes/assumptions/28.md, unsafe), that a read of a freed record does not hold up a clip (notes/assumptions/41.md), when a
clip chosen during a loan waits (notes/assumptions/46.md), and that a report that moves no cursor is no rewind
(notes/assumptions/48.md, unsafe). -/
def Obligations.AFrameGoesToThePathWithMostAllowance : Prop :=
  (∀ s : State,
    (∀ t, chooseAudio s = some t → chooseFrame s = some t)
    ∧ (chooseAudio s = none →
        (∀ c t, chooseVideo true s c = some t → (∀ j < c, chooseVideo true s j = none) → chooseFrame s = some t)
        ∧ ((∀ c, chooseVideo true s c = none) →
            (∀ t, chooseClip true s = some t → chooseFrame s = some t)
            ∧ (chooseClip true s = none →
                (∀ c t, chooseVideo false s c = some t → (∀ j < c, chooseVideo false s j = none) → chooseFrame s = some t)
                ∧ ((∀ c, chooseVideo false s c = none) → chooseFrame s = chooseClip false s)))))
  ∧ (∀ (path : Path) (cells : Nat), path.takes cells = true ↔ path.state = .carry ∧ path.transmitter = none
      ∧ path.control = [] ∧ cells ≤ path.credit ∧ cells ≤ path.allowance
      ∧ (path.retry.map fun e => e.contents.cells).sum + cells ≤ 511)
  ∧ (∀ (s : State) (within : Bool) (c : Fin 6) (picture : LivePicture) (rest : List LivePicture),
      s.coders[c].liveBuffer = picture :: rest →
      let chunk := min 496 (picture.bytes.length - picture.started)
      let cells := (chunk + 47) / 32
      ((∀ p : Fin 4, s.paths[p].takes cells = false) ∨ within = true ∧ s.sched.channelAllowance[c] < cells →
        chooseVideo within s c = none)
      ∧ ∀ p : Fin 4, s.paths[p].takes cells = true → (within = true → cells ≤ s.sched.channelAllowance[c]) →
          (∀ q : Fin 4, s.paths[q].takes cells = true → s.paths[q].allowance < s.paths[p].allowance
            ∨ s.paths[q].allowance = s.paths[p].allowance ∧ p ≤ q) →
          ∃ t, chooseVideo within s c = some t
            ∧ t.paths[p].retry = s.paths[p].retry ++ [⟨s.paths[p].sendPointer,
                .video c picture.sequence picture.timecode, false, s.now,
                ⟨kindVideo, cells, byteOf c.val, picture.started + chunk == picture.bytes.length, picture.truncate,
                  s.sched.frameSequence[c], (picture.bytes.drop picture.started).take chunk⟩⟩]
            ∧ t.paths[p].credit = s.paths[p].credit - cells ∧ t.paths[p].allowance = s.paths[p].allowance - cells
            ∧ t.paths[p].sendPointer = s.paths[p].sendPointer + BitVec.ofNat 9 cells
            ∧ (∀ q : Fin 4, q ≠ p → t.paths[q] = s.paths[q])
            ∧ t.coders = vecSet s.coders c { s.coders[c] with
                liveBuffer := if picture.started + chunk < picture.bytes.length then
                    { picture with started := picture.started + chunk, truncate := false } :: rest
                  else rest }
            ∧ t.sched = { s.sched with
                frameSequence := vecSet s.sched.frameSequence c (s.sched.frameSequence[c] + 1)
                channelAllowance := vecSet s.sched.channelAllowance c (s.sched.channelAllowance[c] - cells)
                videoStarted := s.sched.videoStarted + 1 }
            ∧ t = { s with paths := t.paths, coders := t.coders, sched := t.sched })
  ∧ (∀ (s : State) (c : Clip), s.clip? c.id = some c →
      let becomes := fun (u : State) (state : SendState) => u.clip? c.id = some { c with send := state }
        ∧ (∀ i, i ≠ c.id → u.clip? i = s.clip? i) ∧ u.paths = s.paths ∧ u.store = s.store
      let waitsFor := fun d : Clip => d.send = .queued ∧ d.hold = false
      ((∀ d ∈ s.clipLog.clips, d.send ≠ .sending) → c ∈ s.clipLog.clips → waitsFor c →
        (∀ d ∈ s.clipLog.clips, waitsFor d → d ≠ c → d.rating < c.rating ∨ d.rating = c.rating
          ∧ (c.queueNumber.getD 0).toNat < (d.queueNumber.getD 0).toNat) →
        ∃ u, clipStep s = some u ∧ becomes u .sending)
      ∧ (c.discardPending = false →
          (c.hold = true → ∃ u, boundaryChecks c s = some u ∧ becomes u .held)
          ∧ (c.hold = false → c.urgent = false → (∃ d ∈ s.clipLog.clips, waitsFor d ∧ c.rating < d.rating) →
              ∃ u, boundaryChecks c s = some u ∧ becomes u .queued))
      ∧ (c.hold = false ∨ c.discardPending = true →
          c.urgent = true ∨ c.discardPending = true ∨ (∀ d ∈ s.clipLog.clips, waitsFor d → d.rating ≤ c.rating) →
          boundaryChecks c s = none)
      ∧ (s.sendingClip = some c →
          (aheadOf s c ≠ .waits → waitChecks s = s)
          ∧ (aheadOf s c = .waits → waitChecks s = (boundaryChecks c s).getD s)
          ∧ (∀ lender k, s.sched.loan = some ⟨lender, c.id⟩ → c.cursor = some k → clipNext s c k = .pass →
              clipStep s = some { s with sched := { s.sched with loan := none } })
          ∧ ∀ k after passed, s.sched.loan = none → c.cursor = some k → c.discardPending = false →
              clipNext s c k = .pass → k.position = .boundary after passed →
              ∃ u, clipStep s = some u ∧ (∀ i, i ≠ c.id → u.clip? i = s.clip? i)
                ∧ (c.hold = true → u.clip? c.id = some { c with
                    send := .held
                    cursor := some { k with
                      position := .boundary after (passed || (segmentAfter c.range after).isNone) } })
                ∧ (c.hold = false →
                    c.urgent = true ∨ (∀ d ∈ s.clipLog.clips, waitsFor d → d.rating ≤ c.rating) →
                    u.clip? c.id = some { c with cursor := some { k with
                      position := match segmentAfter c.range after with
                        | some g => .inside g 0
                        | none => .boundary after true } }))
      ∧ ∀ lender, (c ∈ s.clipLog.clips → waitsFor c → aheadOf s c ∉ [.waits, .item .finish] →
            (∀ d ∈ s.clipLog.clips, waitsFor d → d ≠ c → aheadOf s d ∉ [.waits, .item .finish] →
              d.rating < c.rating ∨ d.rating = c.rating
                ∧ (c.queueNumber.getD 0).toNat < (d.queueNumber.getD 0).toNat) →
            (lendTo lender s).sched.loan = some ⟨lender, c.id⟩)
          ∧ ((∀ d ∈ s.clipLog.clips, waitsFor d → aheadOf s d ∈ [.waits, .item .finish]) →
              (lendTo lender s).sched.loan = none))
  ∧ (∀ (s : State) (c : Clip) (k : Cursor),
      (∀ item rest, k.items = item :: rest → clipNext s c k = .item (.queued item))
      ∧ (k.items = [] →
          (k.position = .beforeStart → clipNext s c k = .item .start)
          ∧ (∀ id offset g, k.position = .inside id offset → s.segment? id = some g →
              (g.state = .filling → clipNext s c k = .waits)
              ∧ (g.state = .complete →
                  ((∃ r ∈ s.sched.reads, r.clip = c.id ∧ r.use ≠ .freed) → clipNext s c k = .busy)
                  ∧ ((∀ r ∈ s.sched.reads, r.clip = c.id → r.use = .freed) →
                      (g.damage = none →
                        clipNext s c k = .item (.data id offset (min 488 (g.byteLength - offset))))
                      ∧ (g.damage ≠ none → offset = 0 → clipNext s c k = .item (.replaced id)))))
          ∧ (∀ after, k.position = .boundary after true → c.gaps.length ≤ k.gapsEmitted →
              c.markers.length ≤ c.markersSent → segmentAfter c.range after = none →
              clipNext s c k = if c.record = .closed then .item .finish else .waits)))
  ∧ (∀ (s : State) (p : Fin 4) (start : Pointer) (c : Clip) (k : Cursor), s.clip? c.id = some c → c.cursor = some k →
      (∀ segment offset length g, s.segment? segment = some g →
        let t := emitted p start c k (.data segment offset length) s
        t.clip? c.id = some { c with cursor := some { k with
            sequence := k.sequence + 1, position := .inside segment (offset + length) } }
          ∧ t.sched.reads = s.sched.reads ++ [⟨c.id, some p, start, some segment, g.pages, offset, length, .cursor⟩])
      ∧ (
        let t := emitted p start c k .start s
        t.clip? c.id = some { c with
          started := true
          markersSent := c.markers.length
          cursor := some { k with sequence := k.sequence + 1, position := .boundary none false } })
      ∧ (
        let t := emitted p start c k .finish s
        t.clip? c.id = some { c with
          send := .awaitConfirm
          sendDigest := some (onesSum (k.sent.filterMap fun e =>
            if e.2 then (s.segment? e.1).map fun g => g.digest else none))
          confirmDeadline := some (s.now + s.clipLog.timeout * 1000 * millisecond)
          cursor := some { k with sequence := k.sequence + 1 } }))
  ∧ (∀ (s : State) (c : Clip), s.clip? c.id = some c → c.discardPending = false →
      c.send ∈ [SendState.queued, .sending, .held, .awaitConfirm] →
      (∀ earliest lost, lost = true ∨ earliest = none →
        let t := rewindClip c.id earliest lost s
        t.clip? c.id = some { c with
            cursor := some ⟨.beforeStart, [.resend c.range.head?], 0, 0, 0, []⟩, started := false, markersSent := 0 }
          ∧ t.sched.rewinds = s.sched.rewinds + 1
          ∧ t.control = queueNotice ⟨.rewound c.id true c.range.head?, s.timing.timecode⟩ s.control)
      ∧ (∀ (id : Nat) (k : Cursor), c.cursor = some k → id ∉ c.range ∨ k.position = .beforeStart
          ∨ k.position = .inside id 0 ∧ c.range.head? ≠ some id → rewindClip c.id (some id) false s = s)
      ∧ ∀ (before after : List Nat) (id : Nat) (k : Cursor), c.range = before ++ id :: after →
          id ∉ before → c.cursor = some k → (∃ last, last ∈ id :: after ∧ last ∉ before
            ∧ ((∃ passed, k.position = .boundary (some last) passed)
              ∨ ∃ offset, k.position = .inside last offset ∧ (last ≠ id ∨ 0 < offset ∨ before = []))) →
          let t := rewindClip c.id (some id) false s
          ∃ sent rest, k.sent = sent ++ rest ∧ (∀ e ∈ sent, e.1 ≠ id) ∧ (∀ e ∈ rest.head?, e.1 = id)
            ∧ t.clip? c.id = some { c with cursor := some { k with
                position := if before = [] then .boundary none false else .inside id 0
                items := [.resend (some id)]
                gapsEmitted := if before = [] then 0 else
                  (c.gaps.filter fun gap => gap.follows.all fun f => before.contains f).length
                segmentSum := 0
                sent := sent } }
            ∧ t.sched.rewinds = s.sched.rewinds + 1
            ∧ t.control = queueNotice ⟨.rewound c.id false (some id), s.timing.timecode⟩ s.control)
  ∧ (∀ (segment : Nat) (c : Clip) (k : Cursor) (after : Option Nat), c.cursor = some k →
      k.position = .boundary after true → segmentAfter c.range after = none → c.gaps.length ≤ k.gapsEmitted →
      extendClip segment c = { c with
        range := c.range ++ [segment], cursor := some { k with position := .inside segment 0 } })
  ∧ (∀ (removed : List Nat) (out : Option Nat) (gaps : Nat) (k : Cursor),
      let t := cutCursor removed out gaps k
      (∀ id offset, k.position = .inside id offset →
        t.position = if id ∈ removed then .boundary out true else .inside id offset)
      ∧ (∀ e, e ∈ t.sent ↔ e ∈ k.sent ∧ e.1 ∉ removed) ∧ t.gapsEmitted ≤ gaps
      ∧ (∀ id, .damaged id ∈ t.items → id ∉ removed) ∧ t.sequence = k.sequence)
  ∧ ∀ (s : State) (f : AudioFrame) (rest : List AudioFrame), s.sched.audioQueue = f :: rest →
    ((∀ p : Fin 4, s.paths[p].takes 13 = false) → chooseAudio s = none)
    ∧ ∀ p : Fin 4, s.paths[p].takes 13 = true →
        (∀ q : Fin 4, s.paths[q].takes 13 = true → s.paths[q].allowance < s.paths[p].allowance
          ∨ s.paths[q].allowance = s.paths[p].allowance ∧ p ≤ q) →
        ∃ t, chooseAudio s = some t
          ∧ 13 ≤ s.paths[p].credit ∧ 13 ≤ s.paths[p].allowance
          ∧ t.paths[p].credit = s.paths[p].credit - 13 ∧ t.paths[p].allowance = s.paths[p].allowance - 13
          ∧ t.paths[p].sendPointer = s.paths[p].sendPointer + 13
          ∧ t.paths[p].retry.length = s.paths[p].retry.length + 1
          ∧ (∀ q : Fin 4, q ≠ p → t.paths[q] = s.paths[q])
          ∧ t.sched = { s.sched with audioQueue := rest, audioStarted := s.sched.audioStarted + 1 }
          ∧ t = { s with paths := t.paths, sched := t.sched }

/-- R61, R175, R176, R178: a picture tick at the scheduler refills every path allowance, in every path state, with the stored
rate, each live channel's with its budget, every other channel's with 0 and the clip allowance with K, counts the tick and
takes its expiries, and then choices are made. Audio frames two ticks old and live pictures at their deadline tick leave
their queues and are counted; the drop of a picture sets F to Bv. That the two rows repeat what a picture tick has done is
the model's choice (notes/assumptions/12.md). -/
def Obligations.LateFramesLeaveTheirQueues : Prop :=
  ∀ s : State,
    (let t := schedulerTick s
     (∀ p : Fin 4, t.paths[p] = { s.paths[p] with allowance := s.alloc.pathRate[p] })
      ∧ (∀ c : Fin 6, t.sched.channelAllowance[c] = if s.alloc.live[c] = true then s.alloc.budget[c] else 0)
      ∧ t.sched.clipAllowance = s.alloc.clipAllowance ∧ t.sched.tickCount = s.sched.tickCount + 1
      ∧ t.alloc = s.alloc
      ∧ t.sched.audioQueue = s.sched.audioQueue.filter (fun f => f.created + 2 ≠ s.sched.tickCount + 1)
      ∧ (∀ c : Fin 6, t.coders[c].liveBuffer.map (fun p => (p.timecode, p.sequence)) =
          (s.coders[c].liveBuffer.filter fun p => p.deadlineTick ≠ s.sched.tickCount + 1).map
            (fun p => (p.timecode, p.sequence)))
      ∧ t = { s with paths := t.paths, coders := t.coders, sched := t.sched, control := t.control }
      ∧ ∀ (due : Vector Staged 6) (changes : Nat) (rateTaken : Bool),
          agentTurn due changes rateTaken s .scheduler = serve t)
    ∧ (∃ t, exec .audioFrameLate s = .next t
      ∧ t.sched = { s.sched with
          audioQueue := s.sched.audioQueue.filter fun f => f.created + 2 ≠ s.sched.tickCount
          audioLate := s.sched.audioLate + BitVec.ofNat 32
            (s.sched.audioQueue.filter fun f => f.created + 2 = s.sched.tickCount).length }
      ∧ t = { s with sched := t.sched, control := t.control })
    ∧ ∀ c : Fin 6,
        let due := s.coders[c].liveBuffer.filter fun p => p.deadlineTick = s.sched.tickCount
        ∃ t, exec (.pictureDeadline c) s = .next t
          ∧ t.coders[c].liveBuffer.map (fun p => (p.timecode, p.sequence)) =
              (s.coders[c].liveBuffer.filter fun p => p.deadlineTick ≠ s.sched.tickCount).map
                (fun p => (p.timecode, p.sequence))
          ∧ t.coders[c].lateDrops = s.coders[c].lateDrops + BitVec.ofNat 32 due.length
          ∧ t.coders[c].fullness = (if due = [] then s.coders[c].fullness else s.coders[c].bufferSize)
          ∧ t.sched.picturesLate = s.sched.picturesLate + BitVec.ofNat 32 due.length
          ∧ (∀ other : Fin 6, other ≠ c → t.coders[other] = s.coders[other])
          ∧ t = { s with coders := t.coders, sched := t.sched, control := t.control }

/-! ## Invariants of every step -/

/-- The model's canonical form of memory (notes/assumptions/7.md) is kept by every command. -/
def Obligations.EveryStepKeepsMemoryCanonical : Prop :=
  ∀ s t : State, s.memoryCanonical → step s = .next t → t.memoryCanonical

/-- 09, R195, R200: the control port's queues stay within four requests, eight BUSY replies and 32 notices. -/
def Obligations.EveryStepKeepsThePortWithinLimits : Prop :=
  ∀ s t : State, s.portWithinLimits → step s = .next t → t.portWithinLimits

/-- R153, R156, R157, R162 with Tables 7-2 and 7-3: a path's credit stays within its ceiling, its retry buffer within 511
cells, its pointers agree with the cells held, and nothing is held in DOWN and PROBE. -/
def Obligations.EveryStepKeepsPathsConsistent : Prop :=
  ∀ s t : State, s.pathsConsistent → step s = .next t → t.pathsConsistent

/-- R125, R130, R131: in the configuration in force, in the staged one and in every stored or waiting scene, each FOLLOW bus
refers to a MIX bus. -/
def Obligations.EveryStepKeepsFollowersOnMix : Prop :=
  ∀ s t : State, s.followersOnMix → step s = .next t → t.followersOnMix

/-- R57, R59: the quantiser index of every channel stays within its bounds and the fullness within 0..4 × Bp. -/
def Obligations.EveryStepKeepsCodersWithinBounds : Prop :=
  ∀ s t : State, s.codersWithinBounds → step s = .next t → t.codersWithinBounds

/-- The five invariants hold right after power-on. -/
def Obligations.TheInvariantsHoldAtReset : Prop :=
  State.reset.memoryCanonical ∧ State.reset.portWithinLimits ∧ State.reset.pathsConsistent
    ∧ State.reset.followersOnMix ∧ State.reset.codersWithinBounds
end

