-- ==== Sys2Proof/Laws/State.lean ====
section
/-! SUPPORT. What each update of the state does to each field: one lemma per field per update, so that no later proof
unfolds a record update. -/

namespace Sys2Proof.Machine

variable (s : State)

/-! ### modTiming -/

@[simp] theorem State.modTiming_now (f : Timing → Timing) : (s.modTiming f).now = s.now := rfl
@[simp] theorem State.modTiming_straps (f : Timing → Timing) : (s.modTiming f).straps = s.straps := rfl
@[simp] theorem State.modTiming_timing (f : Timing → Timing) : (s.modTiming f).timing = f s.timing := rfl
@[simp] theorem State.modTiming_ports (f : Timing → Timing) : (s.modTiming f).ports = s.ports := rfl
@[simp] theorem State.modTiming_coders (f : Timing → Timing) : (s.modTiming f).coders = s.coders := rfl
@[simp] theorem State.modTiming_alloc (f : Timing → Timing) : (s.modTiming f).alloc = s.alloc := rfl
@[simp] theorem State.modTiming_store (f : Timing → Timing) : (s.modTiming f).store = s.store := rfl
@[simp] theorem State.modTiming_clipLog (f : Timing → Timing) : (s.modTiming f).clipLog = s.clipLog := rfl
@[simp] theorem State.modTiming_mixer (f : Timing → Timing) : (s.modTiming f).mixer = s.mixer := rfl
@[simp] theorem State.modTiming_paths (f : Timing → Timing) : (s.modTiming f).paths = s.paths := rfl
@[simp] theorem State.modTiming_sched (f : Timing → Timing) : (s.modTiming f).sched = s.sched := rfl
@[simp] theorem State.modTiming_control (f : Timing → Timing) : (s.modTiming f).control = s.control := rfl
@[simp] theorem State.modTiming_freeReads (f : Timing → Timing) : (s.modTiming f).freeReads = s.freeReads := rfl
@[simp] theorem State.modTiming_tickOrders (f : Timing → Timing) : (s.modTiming f).tickOrders = s.tickOrders := rfl
@[simp] theorem State.modTiming_pending (f : Timing → Timing) : (s.modTiming f).pending = s.pending := rfl

/-! ### modAlloc -/

@[simp] theorem State.modAlloc_now (f : Allocation → Allocation) : (s.modAlloc f).now = s.now := rfl
@[simp] theorem State.modAlloc_straps (f : Allocation → Allocation) : (s.modAlloc f).straps = s.straps := rfl
@[simp] theorem State.modAlloc_timing (f : Allocation → Allocation) : (s.modAlloc f).timing = s.timing := rfl
@[simp] theorem State.modAlloc_ports (f : Allocation → Allocation) : (s.modAlloc f).ports = s.ports := rfl
@[simp] theorem State.modAlloc_coders (f : Allocation → Allocation) : (s.modAlloc f).coders = s.coders := rfl
@[simp] theorem State.modAlloc_alloc (f : Allocation → Allocation) : (s.modAlloc f).alloc = f s.alloc := rfl
@[simp] theorem State.modAlloc_store (f : Allocation → Allocation) : (s.modAlloc f).store = s.store := rfl
@[simp] theorem State.modAlloc_clipLog (f : Allocation → Allocation) : (s.modAlloc f).clipLog = s.clipLog := rfl
@[simp] theorem State.modAlloc_mixer (f : Allocation → Allocation) : (s.modAlloc f).mixer = s.mixer := rfl
@[simp] theorem State.modAlloc_paths (f : Allocation → Allocation) : (s.modAlloc f).paths = s.paths := rfl
@[simp] theorem State.modAlloc_sched (f : Allocation → Allocation) : (s.modAlloc f).sched = s.sched := rfl
@[simp] theorem State.modAlloc_control (f : Allocation → Allocation) : (s.modAlloc f).control = s.control := rfl
@[simp] theorem State.modAlloc_freeReads (f : Allocation → Allocation) : (s.modAlloc f).freeReads = s.freeReads := rfl
@[simp] theorem State.modAlloc_tickOrders (f : Allocation → Allocation) : (s.modAlloc f).tickOrders = s.tickOrders := rfl
@[simp] theorem State.modAlloc_pending (f : Allocation → Allocation) : (s.modAlloc f).pending = s.pending := rfl

/-! ### modStore -/

@[simp] theorem State.modStore_now (f : Store → Store) : (s.modStore f).now = s.now := rfl
@[simp] theorem State.modStore_straps (f : Store → Store) : (s.modStore f).straps = s.straps := rfl
@[simp] theorem State.modStore_timing (f : Store → Store) : (s.modStore f).timing = s.timing := rfl
@[simp] theorem State.modStore_ports (f : Store → Store) : (s.modStore f).ports = s.ports := rfl
@[simp] theorem State.modStore_coders (f : Store → Store) : (s.modStore f).coders = s.coders := rfl
@[simp] theorem State.modStore_alloc (f : Store → Store) : (s.modStore f).alloc = s.alloc := rfl
@[simp] theorem State.modStore_store (f : Store → Store) : (s.modStore f).store = f s.store := rfl
@[simp] theorem State.modStore_clipLog (f : Store → Store) : (s.modStore f).clipLog = s.clipLog := rfl
@[simp] theorem State.modStore_mixer (f : Store → Store) : (s.modStore f).mixer = s.mixer := rfl
@[simp] theorem State.modStore_paths (f : Store → Store) : (s.modStore f).paths = s.paths := rfl
@[simp] theorem State.modStore_sched (f : Store → Store) : (s.modStore f).sched = s.sched := rfl
@[simp] theorem State.modStore_control (f : Store → Store) : (s.modStore f).control = s.control := rfl
@[simp] theorem State.modStore_freeReads (f : Store → Store) : (s.modStore f).freeReads = s.freeReads := rfl
@[simp] theorem State.modStore_tickOrders (f : Store → Store) : (s.modStore f).tickOrders = s.tickOrders := rfl
@[simp] theorem State.modStore_pending (f : Store → Store) : (s.modStore f).pending = s.pending := rfl

/-! ### modClipLog -/

@[simp] theorem State.modClipLog_now (f : ClipLog → ClipLog) : (s.modClipLog f).now = s.now := rfl
@[simp] theorem State.modClipLog_straps (f : ClipLog → ClipLog) : (s.modClipLog f).straps = s.straps := rfl
@[simp] theorem State.modClipLog_timing (f : ClipLog → ClipLog) : (s.modClipLog f).timing = s.timing := rfl
@[simp] theorem State.modClipLog_ports (f : ClipLog → ClipLog) : (s.modClipLog f).ports = s.ports := rfl
@[simp] theorem State.modClipLog_coders (f : ClipLog → ClipLog) : (s.modClipLog f).coders = s.coders := rfl
@[simp] theorem State.modClipLog_alloc (f : ClipLog → ClipLog) : (s.modClipLog f).alloc = s.alloc := rfl
@[simp] theorem State.modClipLog_store (f : ClipLog → ClipLog) : (s.modClipLog f).store = s.store := rfl
@[simp] theorem State.modClipLog_clipLog (f : ClipLog → ClipLog) : (s.modClipLog f).clipLog = f s.clipLog := rfl
@[simp] theorem State.modClipLog_mixer (f : ClipLog → ClipLog) : (s.modClipLog f).mixer = s.mixer := rfl
@[simp] theorem State.modClipLog_paths (f : ClipLog → ClipLog) : (s.modClipLog f).paths = s.paths := rfl
@[simp] theorem State.modClipLog_sched (f : ClipLog → ClipLog) : (s.modClipLog f).sched = s.sched := rfl
@[simp] theorem State.modClipLog_control (f : ClipLog → ClipLog) : (s.modClipLog f).control = s.control := rfl
@[simp] theorem State.modClipLog_freeReads (f : ClipLog → ClipLog) : (s.modClipLog f).freeReads = s.freeReads := rfl
@[simp] theorem State.modClipLog_tickOrders (f : ClipLog → ClipLog) : (s.modClipLog f).tickOrders = s.tickOrders := rfl
@[simp] theorem State.modClipLog_pending (f : ClipLog → ClipLog) : (s.modClipLog f).pending = s.pending := rfl

/-! ### modMixer -/

@[simp] theorem State.modMixer_now (f : Mixer → Mixer) : (s.modMixer f).now = s.now := rfl
@[simp] theorem State.modMixer_straps (f : Mixer → Mixer) : (s.modMixer f).straps = s.straps := rfl
@[simp] theorem State.modMixer_timing (f : Mixer → Mixer) : (s.modMixer f).timing = s.timing := rfl
@[simp] theorem State.modMixer_ports (f : Mixer → Mixer) : (s.modMixer f).ports = s.ports := rfl
@[simp] theorem State.modMixer_coders (f : Mixer → Mixer) : (s.modMixer f).coders = s.coders := rfl
@[simp] theorem State.modMixer_alloc (f : Mixer → Mixer) : (s.modMixer f).alloc = s.alloc := rfl
@[simp] theorem State.modMixer_store (f : Mixer → Mixer) : (s.modMixer f).store = s.store := rfl
@[simp] theorem State.modMixer_clipLog (f : Mixer → Mixer) : (s.modMixer f).clipLog = s.clipLog := rfl
@[simp] theorem State.modMixer_mixer (f : Mixer → Mixer) : (s.modMixer f).mixer = f s.mixer := rfl
@[simp] theorem State.modMixer_paths (f : Mixer → Mixer) : (s.modMixer f).paths = s.paths := rfl
@[simp] theorem State.modMixer_sched (f : Mixer → Mixer) : (s.modMixer f).sched = s.sched := rfl
@[simp] theorem State.modMixer_control (f : Mixer → Mixer) : (s.modMixer f).control = s.control := rfl
@[simp] theorem State.modMixer_freeReads (f : Mixer → Mixer) : (s.modMixer f).freeReads = s.freeReads := rfl
@[simp] theorem State.modMixer_tickOrders (f : Mixer → Mixer) : (s.modMixer f).tickOrders = s.tickOrders := rfl
@[simp] theorem State.modMixer_pending (f : Mixer → Mixer) : (s.modMixer f).pending = s.pending := rfl

/-! ### modSched -/

@[simp] theorem State.modSched_now (f : Scheduler → Scheduler) : (s.modSched f).now = s.now := rfl
@[simp] theorem State.modSched_straps (f : Scheduler → Scheduler) : (s.modSched f).straps = s.straps := rfl
@[simp] theorem State.modSched_timing (f : Scheduler → Scheduler) : (s.modSched f).timing = s.timing := rfl
@[simp] theorem State.modSched_ports (f : Scheduler → Scheduler) : (s.modSched f).ports = s.ports := rfl
@[simp] theorem State.modSched_coders (f : Scheduler → Scheduler) : (s.modSched f).coders = s.coders := rfl
@[simp] theorem State.modSched_alloc (f : Scheduler → Scheduler) : (s.modSched f).alloc = s.alloc := rfl
@[simp] theorem State.modSched_store (f : Scheduler → Scheduler) : (s.modSched f).store = s.store := rfl
@[simp] theorem State.modSched_clipLog (f : Scheduler → Scheduler) : (s.modSched f).clipLog = s.clipLog := rfl
@[simp] theorem State.modSched_mixer (f : Scheduler → Scheduler) : (s.modSched f).mixer = s.mixer := rfl
@[simp] theorem State.modSched_paths (f : Scheduler → Scheduler) : (s.modSched f).paths = s.paths := rfl
@[simp] theorem State.modSched_sched (f : Scheduler → Scheduler) : (s.modSched f).sched = f s.sched := rfl
@[simp] theorem State.modSched_control (f : Scheduler → Scheduler) : (s.modSched f).control = s.control := rfl
@[simp] theorem State.modSched_freeReads (f : Scheduler → Scheduler) : (s.modSched f).freeReads = s.freeReads := rfl
@[simp] theorem State.modSched_tickOrders (f : Scheduler → Scheduler) : (s.modSched f).tickOrders = s.tickOrders := rfl
@[simp] theorem State.modSched_pending (f : Scheduler → Scheduler) : (s.modSched f).pending = s.pending := rfl

/-! ### modControl -/

@[simp] theorem State.modControl_now (f : Control → Control) : (s.modControl f).now = s.now := rfl
@[simp] theorem State.modControl_straps (f : Control → Control) : (s.modControl f).straps = s.straps := rfl
@[simp] theorem State.modControl_timing (f : Control → Control) : (s.modControl f).timing = s.timing := rfl
@[simp] theorem State.modControl_ports (f : Control → Control) : (s.modControl f).ports = s.ports := rfl
@[simp] theorem State.modControl_coders (f : Control → Control) : (s.modControl f).coders = s.coders := rfl
@[simp] theorem State.modControl_alloc (f : Control → Control) : (s.modControl f).alloc = s.alloc := rfl
@[simp] theorem State.modControl_store (f : Control → Control) : (s.modControl f).store = s.store := rfl
@[simp] theorem State.modControl_clipLog (f : Control → Control) : (s.modControl f).clipLog = s.clipLog := rfl
@[simp] theorem State.modControl_mixer (f : Control → Control) : (s.modControl f).mixer = s.mixer := rfl
@[simp] theorem State.modControl_paths (f : Control → Control) : (s.modControl f).paths = s.paths := rfl
@[simp] theorem State.modControl_sched (f : Control → Control) : (s.modControl f).sched = s.sched := rfl
@[simp] theorem State.modControl_control (f : Control → Control) : (s.modControl f).control = f s.control := rfl
@[simp] theorem State.modControl_freeReads (f : Control → Control) : (s.modControl f).freeReads = s.freeReads := rfl
@[simp] theorem State.modControl_tickOrders (f : Control → Control) : (s.modControl f).tickOrders = s.tickOrders := rfl
@[simp] theorem State.modControl_pending (f : Control → Control) : (s.modControl f).pending = s.pending := rfl

/-! ### modPort -/

@[simp] theorem State.modPort_now (p : Fin 8) (f : VideoPort → VideoPort) : (s.modPort p f).now = s.now := rfl
@[simp] theorem State.modPort_straps (p : Fin 8) (f : VideoPort → VideoPort) : (s.modPort p f).straps = s.straps := rfl
@[simp] theorem State.modPort_timing (p : Fin 8) (f : VideoPort → VideoPort) : (s.modPort p f).timing = s.timing := rfl
@[simp] theorem State.modPort_ports (p : Fin 8) (f : VideoPort → VideoPort) : (s.modPort p f).ports = vecModify s.ports p f := rfl
@[simp] theorem State.modPort_coders (p : Fin 8) (f : VideoPort → VideoPort) : (s.modPort p f).coders = s.coders := rfl
@[simp] theorem State.modPort_alloc (p : Fin 8) (f : VideoPort → VideoPort) : (s.modPort p f).alloc = s.alloc := rfl
@[simp] theorem State.modPort_store (p : Fin 8) (f : VideoPort → VideoPort) : (s.modPort p f).store = s.store := rfl
@[simp] theorem State.modPort_clipLog (p : Fin 8) (f : VideoPort → VideoPort) : (s.modPort p f).clipLog = s.clipLog := rfl
@[simp] theorem State.modPort_mixer (p : Fin 8) (f : VideoPort → VideoPort) : (s.modPort p f).mixer = s.mixer := rfl
@[simp] theorem State.modPort_paths (p : Fin 8) (f : VideoPort → VideoPort) : (s.modPort p f).paths = s.paths := rfl
@[simp] theorem State.modPort_sched (p : Fin 8) (f : VideoPort → VideoPort) : (s.modPort p f).sched = s.sched := rfl
@[simp] theorem State.modPort_control (p : Fin 8) (f : VideoPort → VideoPort) : (s.modPort p f).control = s.control := rfl
@[simp] theorem State.modPort_freeReads (p : Fin 8) (f : VideoPort → VideoPort) : (s.modPort p f).freeReads = s.freeReads := rfl
@[simp] theorem State.modPort_tickOrders (p : Fin 8) (f : VideoPort → VideoPort) : (s.modPort p f).tickOrders = s.tickOrders := rfl
@[simp] theorem State.modPort_pending (p : Fin 8) (f : VideoPort → VideoPort) : (s.modPort p f).pending = s.pending := rfl

/-! ### modCoder -/

@[simp] theorem State.modCoder_now (c : Fin 6) (f : CoderChannel → CoderChannel) : (s.modCoder c f).now = s.now := rfl
@[simp] theorem State.modCoder_straps (c : Fin 6) (f : CoderChannel → CoderChannel) : (s.modCoder c f).straps = s.straps := rfl
@[simp] theorem State.modCoder_timing (c : Fin 6) (f : CoderChannel → CoderChannel) : (s.modCoder c f).timing = s.timing := rfl
@[simp] theorem State.modCoder_ports (c : Fin 6) (f : CoderChannel → CoderChannel) : (s.modCoder c f).ports = s.ports := rfl
@[simp] theorem State.modCoder_coders (c : Fin 6) (f : CoderChannel → CoderChannel) : (s.modCoder c f).coders = vecModify s.coders c f := rfl
@[simp] theorem State.modCoder_alloc (c : Fin 6) (f : CoderChannel → CoderChannel) : (s.modCoder c f).alloc = s.alloc := rfl
@[simp] theorem State.modCoder_store (c : Fin 6) (f : CoderChannel → CoderChannel) : (s.modCoder c f).store = s.store := rfl
@[simp] theorem State.modCoder_clipLog (c : Fin 6) (f : CoderChannel → CoderChannel) : (s.modCoder c f).clipLog = s.clipLog := rfl
@[simp] theorem State.modCoder_mixer (c : Fin 6) (f : CoderChannel → CoderChannel) : (s.modCoder c f).mixer = s.mixer := rfl
@[simp] theorem State.modCoder_paths (c : Fin 6) (f : CoderChannel → CoderChannel) : (s.modCoder c f).paths = s.paths := rfl
@[simp] theorem State.modCoder_sched (c : Fin 6) (f : CoderChannel → CoderChannel) : (s.modCoder c f).sched = s.sched := rfl
@[simp] theorem State.modCoder_control (c : Fin 6) (f : CoderChannel → CoderChannel) : (s.modCoder c f).control = s.control := rfl
@[simp] theorem State.modCoder_freeReads (c : Fin 6) (f : CoderChannel → CoderChannel) : (s.modCoder c f).freeReads = s.freeReads := rfl
@[simp] theorem State.modCoder_tickOrders (c : Fin 6) (f : CoderChannel → CoderChannel) : (s.modCoder c f).tickOrders = s.tickOrders := rfl
@[simp] theorem State.modCoder_pending (c : Fin 6) (f : CoderChannel → CoderChannel) : (s.modCoder c f).pending = s.pending := rfl

/-! ### modPath -/

@[simp] theorem State.modPath_now (p : Fin 4) (f : Path → Path) : (s.modPath p f).now = s.now := rfl
@[simp] theorem State.modPath_straps (p : Fin 4) (f : Path → Path) : (s.modPath p f).straps = s.straps := rfl
@[simp] theorem State.modPath_timing (p : Fin 4) (f : Path → Path) : (s.modPath p f).timing = s.timing := rfl
@[simp] theorem State.modPath_ports (p : Fin 4) (f : Path → Path) : (s.modPath p f).ports = s.ports := rfl
@[simp] theorem State.modPath_coders (p : Fin 4) (f : Path → Path) : (s.modPath p f).coders = s.coders := rfl
@[simp] theorem State.modPath_alloc (p : Fin 4) (f : Path → Path) : (s.modPath p f).alloc = s.alloc := rfl
@[simp] theorem State.modPath_store (p : Fin 4) (f : Path → Path) : (s.modPath p f).store = s.store := rfl
@[simp] theorem State.modPath_clipLog (p : Fin 4) (f : Path → Path) : (s.modPath p f).clipLog = s.clipLog := rfl
@[simp] theorem State.modPath_mixer (p : Fin 4) (f : Path → Path) : (s.modPath p f).mixer = s.mixer := rfl
@[simp] theorem State.modPath_paths (p : Fin 4) (f : Path → Path) : (s.modPath p f).paths = vecModify s.paths p f := rfl
@[simp] theorem State.modPath_sched (p : Fin 4) (f : Path → Path) : (s.modPath p f).sched = s.sched := rfl
@[simp] theorem State.modPath_control (p : Fin 4) (f : Path → Path) : (s.modPath p f).control = s.control := rfl
@[simp] theorem State.modPath_freeReads (p : Fin 4) (f : Path → Path) : (s.modPath p f).freeReads = s.freeReads := rfl
@[simp] theorem State.modPath_tickOrders (p : Fin 4) (f : Path → Path) : (s.modPath p f).tickOrders = s.tickOrders := rfl
@[simp] theorem State.modPath_pending (p : Fin 4) (f : Path → Path) : (s.modPath p f).pending = s.pending := rfl

/-! ### elapse -/

@[simp] theorem State.elapse_now (d : Time) : (s.elapse d).now = s.now + d := rfl
@[simp] theorem State.elapse_straps (d : Time) : (s.elapse d).straps = s.straps := rfl
@[simp] theorem State.elapse_timing (d : Time) : (s.elapse d).timing = s.timing := rfl
@[simp] theorem State.elapse_ports (d : Time) : (s.elapse d).ports = s.ports := rfl
@[simp] theorem State.elapse_coders (d : Time) : (s.elapse d).coders = s.coders := rfl
@[simp] theorem State.elapse_alloc (d : Time) : (s.elapse d).alloc = s.alloc := rfl
@[simp] theorem State.elapse_store (d : Time) : (s.elapse d).store = s.store := rfl
@[simp] theorem State.elapse_clipLog (d : Time) : (s.elapse d).clipLog = s.clipLog := rfl
@[simp] theorem State.elapse_mixer (d : Time) : (s.elapse d).mixer = s.mixer := rfl
@[simp] theorem State.elapse_paths (d : Time) : (s.elapse d).paths = s.paths := rfl
@[simp] theorem State.elapse_sched (d : Time) : (s.elapse d).sched = s.sched := rfl
@[simp] theorem State.elapse_control (d : Time) : (s.elapse d).control = s.control := rfl
@[simp] theorem State.elapse_freeReads (d : Time) : (s.elapse d).freeReads = s.freeReads := rfl
@[simp] theorem State.elapse_tickOrders (d : Time) : (s.elapse d).tickOrders = s.tickOrders := rfl
@[simp] theorem State.elapse_pending (d : Time) : (s.elapse d).pending = s.pending := rfl

/-! ### passTo -/

@[simp] theorem State.passTo_now (d : Time) : (s.passTo d).now = max s.now d := rfl
@[simp] theorem State.passTo_straps (d : Time) : (s.passTo d).straps = s.straps := rfl
@[simp] theorem State.passTo_timing (d : Time) : (s.passTo d).timing = s.timing := rfl
@[simp] theorem State.passTo_ports (d : Time) : (s.passTo d).ports = s.ports := rfl
@[simp] theorem State.passTo_coders (d : Time) : (s.passTo d).coders = s.coders := rfl
@[simp] theorem State.passTo_alloc (d : Time) : (s.passTo d).alloc = s.alloc := rfl
@[simp] theorem State.passTo_store (d : Time) : (s.passTo d).store = s.store := rfl
@[simp] theorem State.passTo_clipLog (d : Time) : (s.passTo d).clipLog = s.clipLog := rfl
@[simp] theorem State.passTo_mixer (d : Time) : (s.passTo d).mixer = s.mixer := rfl
@[simp] theorem State.passTo_paths (d : Time) : (s.passTo d).paths = s.paths := rfl
@[simp] theorem State.passTo_sched (d : Time) : (s.passTo d).sched = s.sched := rfl
@[simp] theorem State.passTo_control (d : Time) : (s.passTo d).control = s.control := rfl
@[simp] theorem State.passTo_freeReads (d : Time) : (s.passTo d).freeReads = s.freeReads := rfl
@[simp] theorem State.passTo_tickOrders (d : Time) : (s.passTo d).tickOrders = s.tickOrders := rfl
@[simp] theorem State.passTo_pending (d : Time) : (s.passTo d).pending = s.pending := rfl

/-! ### Vectors -/

section vectors

variable {α β : Type} {n : Nat} (v : Vector α n) (i j : Fin n) (f : α → α) (g : α → β) (x : α)

@[simp] theorem vecModify_same_val : (vecModify v i f)[i.val] = f v[i.val] := by simp [vecModify]

@[simp] theorem vecModify_other_val (h : j ≠ i) : (vecModify v i f)[j.val] = v[j.val] := by
  have : i.val ≠ j.val := fun e => h (Fin.ext e.symm)
  simp [vecModify, this]

@[simp] theorem vecSet_same_val : (vecSet v i x)[i.val] = x := by simp [vecSet]

@[simp] theorem vecSet_other_val (h : j ≠ i) : (vecSet v i x)[j.val] = v[j.val] := by
  have : i.val ≠ j.val := fun e => h (Fin.ext e.symm)
  simp [vecSet, this]

@[simp] theorem vecMap_get_val : (vecMap g v)[i.val] = g v[i.val] := by simp [vecMap]

theorem vecModify_same : (vecModify v i f)[i] = f v[i] := by simp

theorem vecModify_other (h : j ≠ i) : (vecModify v i f)[j] = v[j] := by simp [h]

theorem vecSet_same : (vecSet v i x)[i] = x := by simp

theorem vecSet_other (h : j ≠ i) : (vecSet v i x)[j] = v[j] := by simp [h]

theorem vecMap_get : (vecMap g v)[i] = g v[i] := by simp

theorem vecModify_eq_vecSet : vecModify v i f = vecSet v i (f v[i]) := rfl

@[simp] theorem vecSet_vecSet (y : α) : vecSet (vecSet v i x) i y = vecSet v i y := by simp [vecSet]

@[simp] theorem vecModify_vecSet : vecModify (vecSet v i x) i f = vecSet v i (f x) := by simp [vecModify, vecSet]

@[simp] theorem vecModify_vecModify (g : α → α) : vecModify (vecModify v i f) i g = vecModify v i (fun x => g (f x)) := by
  simp [vecModify]

end vectors

/-! ### Notices: a block that raises one changes the control port, and the warnings of a path -/

@[simp] theorem raise_now (body : NoticeBody) : (raise body s).now = s.now := by
  simp only [raise]; split <;> rfl
@[simp] theorem raise_straps (body : NoticeBody) : (raise body s).straps = s.straps := by
  simp only [raise]; split <;> rfl
@[simp] theorem raise_timing (body : NoticeBody) : (raise body s).timing = s.timing := by
  simp only [raise]; split <;> rfl
@[simp] theorem raise_ports (body : NoticeBody) : (raise body s).ports = s.ports := by
  simp only [raise]; split <;> rfl
@[simp] theorem raise_coders (body : NoticeBody) : (raise body s).coders = s.coders := by
  simp only [raise]; split <;> rfl
@[simp] theorem raise_alloc (body : NoticeBody) : (raise body s).alloc = s.alloc := by
  simp only [raise]; split <;> rfl
@[simp] theorem raise_store (body : NoticeBody) : (raise body s).store = s.store := by
  simp only [raise]; split <;> rfl
@[simp] theorem raise_clipLog (body : NoticeBody) : (raise body s).clipLog = s.clipLog := by
  simp only [raise]; split <;> rfl
@[simp] theorem raise_mixer (body : NoticeBody) : (raise body s).mixer = s.mixer := by
  simp only [raise]; split <;> rfl
@[simp] theorem raise_sched (body : NoticeBody) : (raise body s).sched = s.sched := by
  simp only [raise]; split <;> rfl
@[simp] theorem raise_freeReads (body : NoticeBody) : (raise body s).freeReads = s.freeReads := by
  simp only [raise]; split <;> rfl
@[simp] theorem raise_tickOrders (body : NoticeBody) : (raise body s).tickOrders = s.tickOrders := by
  simp only [raise]; split <;> rfl
@[simp] theorem raise_pending (body : NoticeBody) : (raise body s).pending = s.pending := by
  simp only [raise]; split <;> rfl

@[simp] theorem raise_control (body : NoticeBody) :
    (raise body s).control = queueNotice ⟨body, s.timing.timecode⟩ s.control := by
  simp only [raise]; split <;> rfl

/-- A notice that is no PROTOCOL notice changes the control port alone. -/
theorem raise_of_not_protocol {body : NoticeBody} (h : protocolPath body = none) :
    raise body s = { s with control := queueNotice ⟨body, s.timing.timecode⟩ s.control } := by
  simp [raise, h, State.modControl]

/-- A PROTOCOL notice also counts a warning of its path. -/
theorem raise_of_protocol {body : NoticeBody} {p : Fin 4} (h : protocolPath body = some p) :
    raise body s =
      { s with
        control := queueNotice ⟨body, s.timing.timecode⟩ s.control
        paths := vecModify s.paths p fun path => { path with warnings := path.warnings + 1 } } := by
  simp [raise, h, State.modControl, State.modPath]

/-- Joining the notice queue changes only the queue, its flag and its counters. -/
theorem queueNotice_frame (n : Notice) (c : Control) :
    queueNotice n c =
      { c with
        notices := (queueNotice n c).notices
        noticeOverrun := (queueNotice n c).noticeOverrun
        metersDropped := (queueNotice n c).metersDropped
        noticesLost := (queueNotice n c).noticesLost } := by
  unfold queueNotice queueNotice.joinNotices
  repeat' split
  all_goals rfl

/-- A control port with the notice queue, its flag and its counters of another: all that raising notices can change. -/
abbrev Control.noticed (c d : Control) : Control :=
  { c with
    notices := d.notices, noticeOverrun := d.noticeOverrun, metersDropped := d.metersDropped, noticesLost := d.noticesLost }

/-- All that a notice that is no PROTOCOL notice can change. -/
theorem raise_only {body : NoticeBody} (h : protocolPath body = none) :
    raise body s = { s with control := s.control.noticed (raise body s).control } := by
  rw [raise_of_not_protocol s h]
  conv => lhs; rw [queueNotice_frame]

/-- All that a notice of any kind can change. -/
theorem raise_only_any (body : NoticeBody) :
    raise body s =
      { s with paths := (raise body s).paths, control := s.control.noticed (raise body s).control } := by
  cases h : protocolPath body with
  | none => exact (raise_only s h).trans (by rw [raise_of_not_protocol s h])
  | some p =>
    rw [raise_of_protocol s h]
    conv => lhs; rw [queueNotice_frame]

/-- Every outcome of `finish` is a next state that differs in the control port alone. -/
theorem finish_eq : finish s = .next { s with control := chooseLineFrame s.control } := rfl

end Sys2Proof.Machine
end

