-- ==== Sys2Proof/Laws/Memory.lean ====
section
/-! SUPPORT. The attached DRAM: every operation keeps the canonical form, a read after a write gives what was written, and
a write leaves every other address alone. -/

namespace Sys2Proof.Machine

/-! ### The canonical form -/

theorem memSorted_mono {m : Mem} {a b : Nat} (h : a ≤ b) : memSorted b m = true → memSorted a m = true := by
  cases m with
  | nil => simp [memSorted]
  | cons cell rest =>
    obtain ⟨k, x⟩ := cell
    simp only [memSorted, Bool.and_eq_true, decide_eq_true_eq]
    exact fun ⟨⟨hk, hx⟩, hr⟩ => ⟨⟨by omega, hx⟩, hr⟩

theorem memSorted_write {m : Mem} {low a : Nat} {b : Byte} (hl : low ≤ a) :
    memSorted low m = true → memSorted low (memWrite m a b) = true := by
  induction m generalizing low with
  | nil =>
    intro _
    simp only [memWrite]
    split <;> simp_all [memSorted]
  | cons cell rest ih =>
    obtain ⟨k, x⟩ := cell
    simp only [memSorted, Bool.and_eq_true, decide_eq_true_eq]
    rintro ⟨⟨hk, hx⟩, hr⟩
    simp only [memWrite]
    split
    · split <;> simp_all [memSorted]
    · split
      · subst a
        split
        · exact memSorted_mono (by omega) hr
        · simp_all [memSorted]
      · simp only [memSorted, Bool.and_eq_true, decide_eq_true_eq]
        exact ⟨⟨hk, hx⟩, ih (by omega) hr⟩

/-- A write keeps the canonical form. -/
theorem memWrite_wf {m : Mem} (a : Nat) (b : Byte) (h : m.wf = true) : (memWrite m a b).wf = true :=
  memSorted_write (Nat.zero_le a) h

theorem memSorted_filter {m : Mem} {low : Nat} (p : Nat × Byte → Bool) :
    memSorted low m = true → memSorted low (m.filter p) = true := by
  induction m generalizing low with
  | nil => simp [memSorted]
  | cons cell rest ih =>
    obtain ⟨k, x⟩ := cell
    simp only [memSorted, Bool.and_eq_true, decide_eq_true_eq]
    rintro ⟨⟨hk, hx⟩, hr⟩
    rw [List.filter_cons]
    split
    · simp only [memSorted, Bool.and_eq_true, decide_eq_true_eq]
      exact ⟨⟨hk, hx⟩, ih hr⟩
    · exact memSorted_mono (by omega) (ih hr)

/-- Clearing a range keeps the canonical form. -/
theorem memClear_wf {m : Mem} (low high : Nat) (h : m.wf = true) : (memClear m low high).wf = true :=
  memSorted_filter _ h

/-- Writing the bytes of a segment keeps the canonical form. -/
theorem segWrite_wf (pages : List Nat) (bytes : List Byte) {m : Mem} (x : Nat) (h : m.wf = true) :
    (segWrite pages m x bytes).wf = true := by
  induction bytes generalizing m x with
  | nil => exact h
  | cons b rest ih => exact ih (x + 1) (memWrite_wf _ _ h)

/-! ### Reading after writing -/

theorem memRead_below {m : Mem} {low a : Nat} (h : memSorted low m = true) (ha : a < low) : memRead m a = 0 := by
  induction m generalizing low with
  | nil => rfl
  | cons cell rest ih =>
    obtain ⟨k, x⟩ := cell
    simp only [memSorted, Bool.and_eq_true, decide_eq_true_eq] at h
    rw [memRead, if_neg (by omega)]
    exact ih h.2 (by omega)

theorem memRead_memWrite_same_of_sorted {m : Mem} {low : Nat} (a : Nat) (b : Byte) (h : memSorted low m = true) :
    memRead (memWrite m a b) a = b := by
  induction m generalizing low with
  | nil =>
    simp only [memWrite]
    split <;> simp_all [memRead]
  | cons cell rest ih =>
    obtain ⟨k, x⟩ := cell
    simp only [memSorted, Bool.and_eq_true, decide_eq_true_eq] at h
    simp only [memWrite]
    split
    · split
      · rw [memRead, if_neg (by omega), memRead_below h.2 (by omega)]
        simp_all
      · simp [memRead]
    · split
      · subst a
        split
        · rw [memRead_below h.2 (by omega)]
          simp_all
        · simp [memRead]
      · rw [memRead, if_neg (by omega)]
        exact ih h.2

/-- A byte written is read back. -/
theorem memRead_memWrite_same {m : Mem} (a : Nat) (b : Byte) (h : m.wf = true) : memRead (memWrite m a b) a = b :=
  memRead_memWrite_same_of_sorted a b h

/-- A write leaves every other address alone. -/
theorem memRead_memWrite_other (m : Mem) {a c : Nat} (b : Byte) (h : c ≠ a) :
    memRead (memWrite m a b) c = memRead m c := by
  induction m with
  | nil =>
    simp only [memWrite]
    split
    · rfl
    · simp [memRead, Ne.symm h]
  | cons cell rest ih =>
    obtain ⟨k, x⟩ := cell
    simp only [memWrite]
    split
    · split
      · rfl
      · rw [memRead, if_neg (Ne.symm h)]
    · split
      · subst a
        split
        · rw [memRead, if_neg (Ne.symm h)]
        · rw [memRead, memRead, if_neg (Ne.symm h), if_neg (Ne.symm h)]
      · rw [memRead, memRead, ih]

/-- A cleared range reads 0, and every other address as before. -/
theorem memRead_memClear (m : Mem) (low high a : Nat) :
    memRead (memClear m low high) a = if low ≤ a ∧ a < high then 0 else memRead m a := by
  induction m with
  | nil => simp [memClear, memRead]
  | cons cell rest ih =>
    obtain ⟨k, x⟩ := cell
    simp only [memClear] at ih ⊢
    rw [List.filter_cons]
    by_cases hk : k = a
    · subst k
      split
      · rename_i h
        simp only [Bool.or_eq_true, decide_eq_true_eq] at h
        rw [if_neg (by omega), memRead, memRead, if_pos rfl, if_pos rfl]
      · rename_i h
        simp only [Bool.or_eq_true, decide_eq_true_eq] at h
        rw [ih, if_pos (by omega), if_pos (by omega)]
    · split
      · rw [memRead, if_neg hk, ih, memRead, if_neg hk]
      · rw [ih, memRead, if_neg hk]

/-- Writing the bytes of a segment leaves every address outside them alone. -/
theorem memRead_segWrite_other (pages : List Nat) (bytes : List Byte) (m : Mem) (x : Nat) {a : Nat}
    (h : ∀ i < bytes.length, segAddress pages (x + i) ≠ a) : memRead (segWrite pages m x bytes) a = memRead m a := by
  induction bytes generalizing m x with
  | nil => rfl
  | cons b rest ih =>
    rw [segWrite, ih, memRead_memWrite_other]
    · exact fun e => h 0 (by simp) (by simpa using e.symm)
    · intro i hi
      have := h (i + 1) (by simpa using hi)
      rwa [show x + (i + 1) = x + 1 + i by omega] at this

/-! ### Lines -/

/-- Reading a line leaves the stored bytes alone. -/
@[simp] theorem readLine_dram (line : Nat) (s : State) : (readLine line s).2.2.store.dram = s.store.dram := by
  unfold readLine
  split <;> rfl

/-- All that reading a line can change: the line's errors, the count of uncorrectable lines, the free values used. -/
theorem readLine_frame (line : Nat) (s : State) :
    (readLine line s).2.2 =
      { s with
        store := { s.store with
          lineErrors := (readLine line s).2.2.store.lineErrors
          uncorrectable := (readLine line s).2.2.store.uncorrectable }
        freeReads := (readLine line s).2.2.freeReads } := by
  unfold readLine
  split <;> rfl

theorem readLines_frame (pages : List Nat) (n x : Nat) (s : State) :
    (readLines pages n x s).2 =
      { s with
        store := { s.store with
          lineErrors := (readLines pages n x s).2.store.lineErrors
          uncorrectable := (readLines pages n x s).2.store.uncorrectable }
        freeReads := (readLines pages n x s).2.freeReads } := by
  induction n generalizing x s with
  | zero => rfl
  | succ n ih =>
    have hline := readLine_frame (segAddress pages x / lineSize) s
    have hrest := ih (x + lineSize) (readLine (segAddress pages x / lineSize) s).2.2
    simp only [readLines]
    split
    all_goals
      simp only
      rw [hrest, hline]

/-- All that reading a range of a segment can change. -/
theorem readSegment_frame (pages : List Nat) (x length : Nat) (s : State) :
    (readSegment pages x length s).2 =
      { s with
        store := { s.store with
          lineErrors := (readSegment pages x length s).2.store.lineErrors
          uncorrectable := (readSegment pages x length s).2.store.uncorrectable }
        freeReads := (readSegment pages x length s).2.freeReads } :=
  readLines_frame pages _ _ s

/-- Storing bytes of a segment keeps the canonical form. -/
theorem writeSegment_wf (pages : List Nat) (x : Nat) (bytes : List Byte) (s : State) (h : s.store.dram.wf = true) :
    (writeSegment pages x bytes s).store.dram.wf = true := by
  unfold writeSegment
  split
  · exact segWrite_wf _ _ _ h
  · refine segWrite_wf _ _ _ ?_
    exact (readLine_dram _ s).symm ▸ h

/-- Initialising a page keeps the canonical form. -/
theorem initialisePage_wf (s : State) (h : s.store.dram.wf = true) : (initialisePage s).store.dram.wf = true := by
  unfold initialisePage
  split
  · exact h
  · simp only
    split
    · simp only [raise_store, State.modStore_store]
      exact memClear_wf _ _ h
    · exact memClear_wf _ _ h

/-- The reset memory is in canonical form. -/
theorem reset_dram_wf : State.reset.store.dram.wf = true := rfl

end Sys2Proof.Machine
end

