-- ==== Sys2Proof/Laws/Store.lean ====
section
/-! SUPPORT. The store's shared operations: what freeing, reclaim, pins, damage and demand reads can change. -/

namespace Sys2Proof.Machine

/-- The second state is the first but for what reclaim can change: the free pool, the retired pages, the segment table,
the timelines, the completion list, two counters, the reads in progress and the control port. -/
def ReclaimOnly (s t : State) : Prop :=
  t = { s with
    store := { s.store with
      freePool := t.store.freePool
      retired := t.store.retired
      pagesRetired := t.store.pagesRetired
      segments := t.store.segments
      timelines := t.store.timelines
      completion := t.store.completion
      reclaimed := t.store.reclaimed }
    sched := { s.sched with reads := t.sched.reads }
    control := s.control.noticed t.control }

theorem ReclaimOnly.refl (s : State) : ReclaimOnly s s := rfl

theorem ReclaimOnly.trans {s t u : State} (h : ReclaimOnly s t) (h' : ReclaimOnly t u) : ReclaimOnly s u :=
  Eq.trans (id h') (by rw [id h])

theorem ReclaimOnly.dram {s t : State} (h : ReclaimOnly s t) : t.store.dram = s.store.dram := by
  rw [ReclaimOnly] at h; rw [h]

theorem ReclaimOnly.lineErrors {s t : State} (h : ReclaimOnly s t) : t.store.lineErrors = s.store.lineErrors := by
  rw [ReclaimOnly] at h; rw [h]

theorem ReclaimOnly.clipLog {s t : State} (h : ReclaimOnly s t) : t.clipLog = s.clipLog := by
  rw [ReclaimOnly] at h; rw [h]

theorem ReclaimOnly.paths {s t : State} (h : ReclaimOnly s t) : t.paths = s.paths := by
  rw [ReclaimOnly] at h; rw [h]

theorem ReclaimOnly.coders {s t : State} (h : ReclaimOnly s t) : t.coders = s.coders := by
  rw [ReclaimOnly] at h; rw [h]

theorem ReclaimOnly.sched {s t : State} (h : ReclaimOnly s t) :
    t.sched = { s.sched with reads := t.sched.reads } := by
  rw [ReclaimOnly] at h; rw [h]

theorem ReclaimOnly.timing {s t : State} (h : ReclaimOnly s t) : t.timing = s.timing := by
  rw [ReclaimOnly] at h; rw [h]

theorem ReclaimOnly.mixer {s t : State} (h : ReclaimOnly s t) : t.mixer = s.mixer := by
  rw [ReclaimOnly] at h; rw [h]

theorem ReclaimOnly.raise {body : NoticeBody} (s : State) (h : protocolPath body = none) :
    ReclaimOnly s (raise body s) := by
  rw [ReclaimOnly, raise_only s h]

/-! ### Freeing and reclaim -/

theorem releasePages_only (bad pages : List Nat) (s : State) : ReclaimOnly s (releasePages bad pages s) := by
  induction pages generalizing s with
  | nil => exact .refl s
  | cons page rest ih =>
    rw [releasePages]
    split
    · refine .trans ?_ (ih _)
      refine .trans (t := s.modStore _) ?_ (.raise _ rfl)
      rfl
    · refine .trans ?_ (ih _)
      rfl

section modReads

variable (f : DemandRead → DemandRead) (s : State)

@[simp] theorem State.modReads_store : (s.modReads f).store = s.store := rfl
@[simp] theorem State.modReads_clipLog : (s.modReads f).clipLog = s.clipLog := rfl
@[simp] theorem State.modReads_paths : (s.modReads f).paths = s.paths := rfl
@[simp] theorem State.modReads_control : (s.modReads f).control = s.control := rfl
@[simp] theorem State.modReads_sched :
    (s.modReads f).sched = { s.sched with reads := s.sched.reads.map f } := rfl

end modReads

/-- A read that has lost its segment is a read of no segment, and a read of another segment is left as it is. -/
theorem loseSegment_segment (id : Nat) (r : DemandRead) :
    (loseSegment id r).segment = if r.segment = some id then none else r.segment := by
  unfold loseSegment
  split <;> rfl

/-- Losing a segment changes nothing else of a read. -/
theorem loseSegment_only (id : Nat) (r : DemandRead) :
    loseSegment id r = { r with segment := (loseSegment id r).segment } := by
  unfold loseSegment
  split <;> rfl

/-- The pages of a freed segment go to the pool or are retired, and the reads in progress stay as they are. -/
theorem releasePages_reads (bad pages : List Nat) (s : State) :
    (releasePages bad pages s).sched.reads = s.sched.reads := by
  induction pages generalizing s with
  | nil => rfl
  | cons page rest ih =>
    rw [releasePages]
    split <;> simp [ih]

/-- No read in progress is a read of a segment that has been freed (R67, R77). -/
theorem freeSegment_reads {id : Nat} {s : State} {g : Segment} (h : s.segment? id = some g) :
    (freeSegment id s).sched.reads = s.sched.reads.map (loseSegment id)
      ∧ ∀ r ∈ (freeSegment id s).sched.reads, r.segment ≠ some id := by
  have reads : (freeSegment id s).sched.reads = s.sched.reads.map (loseSegment id) := by
    unfold freeSegment
    simp [h, releasePages_reads]
  refine ⟨reads, ?_⟩
  rw [reads]
  intro r hr
  obtain ⟨r', -, rfl⟩ := List.mem_map.mp hr
  rw [loseSegment_segment]
  split <;> simp_all

/-- All that freeing a segment can change (R77). -/
theorem freeSegment_only (id : Nat) (s : State) : ReclaimOnly s (freeSegment id s) := by
  unfold freeSegment
  split
  · exact .refl s
  · exact (releasePages_only _ _ s).trans rfl

/-- All that reclaim can change (R76). -/
theorem reclaimLoop_only (n : Nat) (s : State) : ReclaimOnly s (reclaimLoop n s) := by
  induction n generalizing s with
  | zero => exact .refl s
  | succ n ih =>
    rw [reclaimLoop]
    split
    · split
      · exact (freeSegment_only _ s).trans (ih _)
      · exact .refl s
    · exact .refl s

theorem reclaimPages_only (s : State) : ReclaimOnly s (reclaimPages s) := reclaimLoop_only _ s

theorem reclaimRecord_only (s : State) : ReclaimOnly s (reclaimRecord s) := by
  unfold reclaimRecord
  split
  · exact freeSegment_only _ s
  · exact .refl s

/-- Freeing a segment leaves every other record as it is. -/
theorem segment?_freeSegment_other {id other : Nat} (s : State) (h : other ≠ id) :
    (freeSegment id s).segment? other = s.segment? other := by
  have release : ∀ (bad pages : List Nat) (t : State), (releasePages bad pages t).store.segments = t.store.segments := by
    intro bad pages
    induction pages with
    | nil => exact fun _ => rfl
    | cons page rest ih =>
      intro t
      rw [releasePages]
      split <;> simp [ih]
  unfold freeSegment
  split
  · rfl
  · simp only [State.segment?, State.modStore_store, State.modReads_store, release, List.find?_filter]
    congr 1
    funext g
    by_cases e : g.id = other <;> simp [e, h]

/-- What reclaim frees first has no pin. -/
theorem firstUnpinned_pinCount {s : State} {id : Nat} {g : Segment} (h : s.firstUnpinned = some id)
    (hg : s.segment? id = some g) : g.pinCount = 0 := by
  have := List.find?_some h
  simpa [hg] using this

/-! ### Pins -/

/-- All that unpinning a segment can change (R74). -/
theorem unpin_only (id : Nat) (s : State) : ReclaimOnly s (unpin id s) := by
  have pin : ReclaimOnly s (s.modSegment id fun g => { g with pinCount := g.pinCount - 1 }) := rfl
  unfold unpin
  simp only
  split
  · split
    · exact pin.trans (reclaimPages_only _)
    · exact pin
  · exact pin

/-- All that unpinning segments can change. -/
theorem unpinAll_only (ids : List Nat) (s : State) : ReclaimOnly s (unpinAll ids s) := by
  induction ids generalizing s with
  | nil => exact .refl s
  | cons id rest ih => exact (unpin_only id s).trans (ih _)

/-! ### Obtaining pages -/

/-- All that taking pages from the pool can change (R64, R70). -/
theorem takePages_only (n : Nat) (s : State) : ReclaimOnly s (takePages n s).2 := by
  induction n generalizing s with
  | zero => exact .refl s
  | succ n ih =>
    rw [takePages]
    split
    · exact .refl s
    · refine .trans (.trans ?_ (reclaimPages_only _)) (ih _)
      rfl

/-- All that obtaining pages for a picture can change (R70). -/
theorem obtainPages_only (n : Nat) (s : State) : ReclaimOnly s (obtainPages n s).2 := by
  have first : ReclaimOnly s (if s.store.freePool.length < n then reclaimPages s else s) := by
    split
    · exact reclaimPages_only s
    · exact .refl s
  unfold obtainPages
  generalize (if s.store.freePool.length < n then reclaimPages s else s) = t at first ⊢
  simp only
  split
  · exact first
  · exact first.trans (takePages_only _ _)

/-! ### Damage -/

/-- The second state is the first but for the segment table, the clip log and the control port. -/
def DamageOnly (s t : State) : Prop :=
  t = { s with store := { s.store with segments := t.store.segments }, clipLog := t.clipLog, control := s.control.noticed t.control }

theorem DamageOnly.trans {s t u : State} (h : DamageOnly s t) (h' : DamageOnly t u) : DamageOnly s u :=
  Eq.trans (id h') (by rw [id h])

theorem DamageOnly.raise {body : NoticeBody} (s : State) (h : protocolPath body = none) :
    DamageOnly s (raise body s) := by
  rw [DamageOnly, raise_only s h]

/-- All that marking the clips of a damaged segment can change (R118). -/
theorem damageClips_only (id : Nat) (s : State) : DamageOnly s (damageClips id s) := by
  have fold : ∀ (l : List Clip) (t : State), DamageOnly t (l.foldl (fun s c => Machine.raise (.clipDamaged c.id id) s) t) := by
    intro l
    induction l with
    | nil => exact fun _ => rfl
    | cons c rest ih => exact fun t => .trans (.raise t rfl) (ih _)
  exact .trans (t := s.modClipLog _) rfl (fold _ _)

/-- All that marking a segment damaged can change (R82). -/
theorem markDamaged_only (id first last : Nat) (cause : DamageCause) (s : State) :
    DamageOnly s (markDamaged id first last cause s) := by
  unfold markDamaged
  split
  · rfl
  · split
    · rfl
    · exact .trans (.trans (t := s.modSegment id _) rfl (damageClips_only id _)) (.raise _ rfl)

/-- All that the bad lines of a read can change at the segment read and its clips (R81, R82). -/
theorem markBadLines_only (g : Segment) (cause : DamageCause) (offsets : List Nat) (s : State) :
    DamageOnly s (markBadLines g cause offsets s) := by
  have pages : ∀ (l : List Nat) (t : State),
      DamageOnly t (l.foldl (fun s offset => addBadPage g.id (g.pages[offset / pageSize]?.getD 0) s) t) := by
    intro l
    induction l with
    | nil => exact fun _ => rfl
    | cons offset rest ih => exact fun t => .trans (t := addBadPage g.id _ t) rfl (ih _)
  unfold markBadLines
  split
  · rfl
  · exact (pages _ s).trans (markDamaged_only _ _ _ _ _)

/-! ### Demand reads -/

/-- A demand read reads and counts its lines, whatever is left of its segment, and then marks the segment when it is still
held (R81). -/
theorem demandRead_eq (segment : Option Nat) (pages : List Nat) (x length : Nat) (s : State) :
    demandRead segment pages x length s =
      let counted := demandRead none pages x length s
      match segment.bind counted.2.segment? with
      | none => counted
      | some g => (counted.1, markBadLines g .demand counted.1.badLines counted.2) := rfl

/-- A demand read whose segment was freed while it was in progress reads its lines and counts them, and marks nothing
(R81, R189). -/
theorem demandRead_freed (pages : List Nat) (x length : Nat) (s : State) :
    (demandRead none pages x length s).2 =
      { s with
        store := { s.store with
          lineErrors := (demandRead none pages x length s).2.store.lineErrors
          uncorrectable := (demandRead none pages x length s).2.store.uncorrectable
          demandCorrected := (demandRead none pages x length s).2.store.demandCorrected }
        freeReads := (demandRead none pages x length s).2.freeReads } := by
  have e : (demandRead none pages x length s).2 = (readSegment pages x length s).2.modStore fun st =>
      { st with demandCorrected :=
          st.demandCorrected + BitVec.ofNat 32 (readSegment pages x length s).1.corrected } := rfl
  have kept : (readSegment pages x length s).2.store.demandCorrected = s.store.demandCorrected := by
    rw [readSegment_frame]
  rw [e]
  conv_lhs => rw [readSegment_frame]
  simp only [State.modStore_store, kept]
  rfl

/-- All that a demand read can change (R81): the errors and the counts of its lines, and, when its segment is still held,
what the marking of its bad lines can change. -/
theorem demandRead_only (segment : Option Nat) (pages : List Nat) (x length : Nat) (s : State) :
    DamageOnly (demandRead none pages x length s).2 (demandRead segment pages x length s).2 := by
  rw [demandRead_eq segment]
  simp only
  split
  · rfl
  · exact markBadLines_only _ _ _ _

end Sys2Proof.Machine
end

