-- ==== Sys2Proof/Laws/Clips.lean ====
section
/-! SUPPORT. The allocator's recompute and the clip table: what a change of one record, a change of send state, a free and a
completed close can change. -/

namespace Sys2Proof.Machine

/-! ### The allocator -/

/-- The second state is the first but for the allocation record and the control port. -/
def AllocOnly (s t : State) : Prop := t = { s with alloc := t.alloc, control := s.control.noticed t.control }

theorem AllocOnly.trans {s t u : State} (h : AllocOnly s t) (h' : AllocOnly t u) : AllocOnly s u :=
  Eq.trans (id h') (by rw [id h])

theorem AllocOnly.raise {body : NoticeBody} (s : State) (h : protocolPath body = none) :
    AllocOnly s (raise body s) := by
  rw [AllocOnly, raise_only s h]

/-- All that a recompute can change (R53). -/
theorem recompute_only (cause : AllocCause) (s : State) : AllocOnly s (recompute cause s) := by
  unfold recompute
  simp only
  split
  · exact .trans (t := { s with alloc := _ }) rfl (.raise _ rfl)
  · rfl

/-- All that a report of clip demand can change (R108). -/
theorem updateDemand_only (s : State) : AllocOnly s (updateDemand s) := by
  unfold updateDemand
  split
  · rfl
  · exact .trans (t := s.modAlloc fun a => { a with clipDemand := s.clipDemand }) rfl (recompute_only _ _)

/-- A recompute keeps the inputs of the record. -/
theorem recompute_inputs (cause : AllocCause) (s : State) :
    (recompute cause s).alloc.pathRate = s.alloc.pathRate ∧ (recompute cause s).alloc.carrying = s.alloc.carrying
      ∧ (recompute cause s).alloc.live = s.alloc.live ∧ (recompute cause s).alloc.weight = s.alloc.weight
      ∧ (recompute cause s).alloc.floor = s.alloc.floor ∧ (recompute cause s).alloc.streams = s.alloc.streams
      ∧ (recompute cause s).alloc.share = s.alloc.share ∧ (recompute cause s).alloc.clipDemand = s.alloc.clipDemand := by
  unfold recompute
  simp only
  split
  · simp only [raise_alloc]
    exact ⟨rfl, rfl, rfl, rfl, rfl, rfl, rfl, rfl⟩
  · exact ⟨rfl, rfl, rfl, rfl, rfl, rfl, rfl, rfl⟩

/-- After the report the allocator holds the demand there is. -/
theorem updateDemand_clipDemand (s : State) : (updateDemand s).alloc.clipDemand = s.clipDemand := by
  unfold updateDemand
  split
  · rename_i h
    exact h.symm
  · exact (recompute_inputs _ _).2.2.2.2.2.2.2

/-! ### One record of the clip table -/

section record

variable {s : State} {id other : Nat} {f : Clip → Clip}

theorem find?_map_clip (clips : List Clip) (hf : ∀ k, (f k).id = k.id) :
    ((clips.map fun c => if c.id = id then f c else c).find? fun c => c.id == other) =
      (clips.find? fun c => c.id == other).map fun c => if c.id = id then f c else c := by
  induction clips with
  | nil => rfl
  | cons c rest ih =>
    have hid : (if c.id = id then f c else c).id = c.id := by split <;> simp [hf]
    simp only [List.map_cons, List.find?_cons, hid]
    split
    · rfl
    · exact ih

/-- The record changed. -/
theorem clip?_modClip_same {c : Clip} (hf : ∀ k, (f k).id = k.id) (h : s.clip? id = some c) :
    (s.modClip id f).clip? id = some (f c) := by
  have hc : c.id = id := by simpa using List.find?_some h
  show (List.map _ s.clipLog.clips).find? _ = _
  rw [find?_map_clip _ hf]
  show (s.clip? id).map _ = _
  simp [h, hc]

/-- No record named `id`: the change reaches none. -/
theorem clip?_modClip_none (hf : ∀ k, (f k).id = k.id) (h : s.clip? id = none) : (s.modClip id f).clip? id = none := by
  show (List.map _ s.clipLog.clips).find? _ = _
  rw [find?_map_clip _ hf]
  show (s.clip? id).map _ = _
  simp [h]

/-- Every other record is left as it is. -/
theorem clip?_modClip_other (hf : ∀ k, (f k).id = k.id) (h : other ≠ id) :
    (s.modClip id f).clip? other = s.clip? other := by
  show (List.map _ s.clipLog.clips).find? _ = _
  rw [find?_map_clip _ hf]
  show (s.clip? other).map _ = _
  cases hc : s.clip? other with
  | none => rfl
  | some c =>
    have : c.id = other := by simpa using List.find?_some hc
    simp [this, h]

/-- A record in use with no discard pending is the one a request finds (R92). -/
theorem clipNamed_of_clip? {c : Clip} (h : s.clip? id = some c) (hd : c.discardPending = false) :
    s.clipNamed id = some c := by
  obtain ⟨hc, before, after, e, hb⟩ := List.find?_eq_some_iff_append.mp h
  refine List.find?_eq_some_iff_append.mpr ⟨by simpa [hd] using hc, before, after, e, fun x hx => ?_⟩
  have := hb x hx
  simp_all

/-- The clip table alone decides which record an id finds. -/
theorem clip?_congr {t : State} (h : t.clipLog.clips = s.clipLog.clips) : t.clip? id = s.clip? id := by
  unfold State.clip?
  rw [h]

/-- Two changes of one record are one. -/
theorem modClip_modClip {g : Clip → Clip} (hf : ∀ k, (f k).id = k.id) :
    (s.modClip id f).modClip id g = s.modClip id fun k => g (f k) := by
  simp only [State.modClip, State.modClipLog, List.map_map]
  congr 2
  congr 1
  funext c
  by_cases h : c.id = id <;> simp [h, hf]

end record

/-! ### Send states -/

/-- The second state is the first but for the clip table, the allocation record and the control port. -/
def SendOnly (s t : State) : Prop :=
  t = { s with clipLog := { s.clipLog with clips := t.clipLog.clips }, alloc := t.alloc, control := s.control.noticed t.control }

theorem SendOnly.trans {s t u : State} (h : SendOnly s t) (h' : SendOnly t u) : SendOnly s u :=
  Eq.trans (id h') (by rw [id h])

theorem SendOnly.of_alloc {s t : State} (h : AllocOnly s t) : SendOnly s t :=
  Eq.trans (id h) (by rw [id h])

/-- All that a change of send state can change. -/
theorem setSend_only (id : Nat) (after : SendState) (cause : SendCause) (s : State) :
    SendOnly s (setSend id after cause s) := by
  unfold setSend
  split
  · rfl
  · refine .trans ?_ (.of_alloc (updateDemand_only _))
    exact .trans (t := s.modClip id _) rfl (.of_alloc (.raise _ rfl))

/-- The record after a change of send state. -/
theorem clip?_setSend_same {id : Nat} {after : SendState} {cause : SendCause} {s : State} {c : Clip}
    (h : s.clip? id = some c) : (setSend id after cause s).clip? id = some { c with send := after } := by
  unfold setSend
  rw [h]
  simp only
  have e : (updateDemand (raise (.sendState id c.send after cause)
      (s.modClip id fun c => { c with send := after }))).clipLog.clips
        = (s.modClip id fun c => { c with send := after }).clipLog.clips := by
    have u := updateDemand_only (raise (.sendState id c.send after cause) (s.modClip id fun c => { c with send := after }))
    rw [AllocOnly] at u
    rw [u]
    simp
  rw [clip?_congr e, clip?_modClip_same (by intro _; rfl) h]

theorem clip?_setSend_other {id other : Nat} {after : SendState} {cause : SendCause} {s : State} (h : other ≠ id) :
    (setSend id after cause s).clip? other = s.clip? other := by
  unfold setSend
  split
  · rfl
  · rename_i c hc
    have e : (updateDemand (raise (.sendState id c.send after cause)
        (s.modClip id fun c => { c with send := after }))).clipLog.clips
          = (s.modClip id fun c => { c with send := after }).clipLog.clips := by
      have u := updateDemand_only
        (raise (.sendState id c.send after cause) (s.modClip id fun c => { c with send := after }))
      rw [AllocOnly] at u
      rw [u]
      simp
    rw [clip?_congr e, clip?_modClip_other (by intro _; rfl) h]

/-! ### Freeing a record and completing a close -/

/-- The second state is the first but for what reclaim can change, the clip table, the allocation record and the reads in
progress. -/
def ClipOnly (s t : State) : Prop :=
  t = { s with
    store := { s.store with
      freePool := t.store.freePool
      retired := t.store.retired
      pagesRetired := t.store.pagesRetired
      segments := t.store.segments
      timelines := t.store.timelines
      completion := t.store.completion
      reclaimed := t.store.reclaimed }
    clipLog := { s.clipLog with clips := t.clipLog.clips }
    alloc := t.alloc
    sched := { s.sched with reads := t.sched.reads }
    control := s.control.noticed t.control }

theorem ClipOnly.trans {s t u : State} (h : ClipOnly s t) (h' : ClipOnly t u) : ClipOnly s u :=
  Eq.trans (id h') (by rw [id h])

theorem ClipOnly.of_reclaim {s t : State} (h : ReclaimOnly s t) : ClipOnly s t :=
  Eq.trans (id h) (by rw [id h])

theorem ClipOnly.of_send {s t : State} (h : SendOnly s t) : ClipOnly s t :=
  Eq.trans (id h) (by rw [id h])

theorem ClipOnly.raise {body : NoticeBody} (s : State) (h : protocolPath body = none) : ClipOnly s (raise body s) :=
  .of_reclaim (.raise s h)

theorem modClip_only (id : Nat) (f : Clip → Clip) (s : State) : ClipOnly s (s.modClip id f) := rfl

/-- All that freeing a record can change (R92). -/
theorem freeClip_only (id : Nat) (s : State) : ClipOnly s (freeClip id s) := by
  unfold freeClip
  split
  · rfl
  · refine .trans (.trans (.trans ?_ (.of_reclaim (unpinAll_only _ _))) (.raise _ rfl))
      (.of_send (.of_alloc (updateDemand_only _)))
    rfl

/-- All that the completion of a close can change (R101). -/
theorem completeClose_only (id : Nat) (outSegment : Option Nat) (cause : CloseCause) (s : State) :
    ClipOnly s (completeClose id outSegment cause s) := by
  unfold completeClose
  split
  · rfl
  · refine .trans ?_ (.raise _ rfl)
    refine .trans ?_ (modClip_only _ _ _)
    refine .trans ?_ (.of_reclaim (unpinAll_only _ _))
    rfl

end Sys2Proof.Machine
end

