-- ==== Sys2Proof/Laws/Paths.lean ====
section
/-! SUPPORT. The send side of the paths: what a change of state, a failure, a retry, a replay and a drain can change. -/

namespace Sys2Proof.Machine

/-! ### What sending can reach -/

/-- The second state is the first but for what the paths and the scheduler can reach: paths, allocation record, clip
table, what reclaim can change, the scheduler's record, notices, and of a coder channel its live buffer, its late drops
and F. -/
structure SendSide (s t : State) : Prop where
  state : t = { s with
    coders := t.coders
    alloc := t.alloc
    store := { s.store with
      freePool := t.store.freePool
      retired := t.store.retired
      pagesRetired := t.store.pagesRetired
      segments := t.store.segments
      timelines := t.store.timelines
      completion := t.store.completion
      reclaimed := t.store.reclaimed }
    clipLog := { s.clipLog with clips := t.clipLog.clips, queueCounter := t.clipLog.queueCounter }
    paths := t.paths
    sched := t.sched
    control := s.control.noticed t.control }
  coder : ∀ c : Fin 6, t.coders[c] = { s.coders[c] with
    liveBuffer := t.coders[c].liveBuffer
    lateDrops := t.coders[c].lateDrops
    fullness := t.coders[c].fullness }

namespace SendSide

variable {s t u : State}

theorem refl (s : State) : SendSide s s := ⟨rfl, fun _ => rfl⟩

theorem trans (h : SendSide s t) (h' : SendSide t u) : SendSide s u :=
  ⟨Eq.trans h'.state (by rw [h.state]), fun c => Eq.trans (h'.coder c) (by rw [h.coder c])⟩

theorem of_clip (h : ClipOnly s t) : SendSide s t := by
  have e := h
  rw [ClipOnly] at e
  exact ⟨Eq.trans e (by rw [e]), fun c => by rw [e]⟩

theorem of_alloc (h : AllocOnly s t) : SendSide s t := .of_clip (.of_send (.of_alloc h))

theorem raise (body : NoticeBody) (s : State) : SendSide s (raise body s) := by
  refine ⟨?_, fun c => by simp⟩
  rw [raise_only_any s body]

theorem modPath (p : Fin 4) (f : Path → Path) (s : State) : SendSide s (s.modPath p f) := ⟨rfl, fun _ => rfl⟩

theorem modSched (f : Scheduler → Scheduler) (s : State) : SendSide s (s.modSched f) := ⟨rfl, fun _ => rfl⟩

theorem modClip (id : Nat) (f : Clip → Clip) (s : State) : SendSide s (s.modClip id f) := ⟨rfl, fun _ => rfl⟩

/-- A change of one channel's live buffer, late drops and F. -/
theorem modCoder (c : Fin 6) (f : CoderChannel → CoderChannel) (s : State)
    (h : ∀ k, f k = { k with
      liveBuffer := (f k).liveBuffer, lateDrops := (f k).lateDrops, fullness := (f k).fullness }) :
    SendSide s (s.modCoder c f) := by
  refine ⟨rfl, fun d => ?_⟩
  show (vecModify s.coders c f)[d] = _
  by_cases e : d = c
  · subst e
    simpa [State.modCoder] using h _
  · simp [State.modCoder, e]

/-- A fold of steps that each reach no more. -/
theorem foldl {α : Type} (f : State → α → State) (h : ∀ s a, SendSide s (f s a)) (l : List α) (s : State) :
    SendSide s (l.foldl f s) := by
  induction l generalizing s with
  | nil => exact refl s
  | cons a rest ih => exact (h s a).trans (ih _)

end SendSide

/-! ### States and failure (R146, R162, R163, R179, R190) -/

theorem changeState_only (p : Fin 4) (after : PathState) (cause : PathCause) (failure : Option (Nat × Nat × Nat))
    (s : State) : SendSide s (changeState p after cause failure s) := by
  have report : ∀ u, SendSide u (reportPath p (after == .carry) u) := fun u =>
    .of_alloc (.trans (t := u.modAlloc _) rfl (recompute_only _ _))
  unfold changeState
  exact .trans (.trans (.modPath p _ s) (report _)) (.raise _ _)

theorem lateDrop_only (c : Fin 6) (s : State) : SendSide s (lateDrop c s) :=
  .modCoder c _ s fun _ => rfl

theorem markTruncated_only (c : Fin 6) (place : Nat) (s : State) : SendSide s (markTruncated c place s) := by
  unfold markTruncated
  split
  · exact .modCoder c _ s fun _ => rfl
  · exact .modSched _ s

/-- All that a drop of a live picture can change (R39, R61, R178). -/
theorem dropLive_only (c : Fin 6) (place : Nat) (s : State) : SendSide s (dropLive c place s) :=
  .trans (.trans (.modCoder c _ s fun _ => rfl) (lateDrop_only c _)) (markTruncated_only c place _)

theorem failedPicture_only (c : Fin 6) (sequence : Seq) (t : Timecode) (s : State) :
    SendSide s (failedPicture c sequence t s) := by
  unfold failedPicture
  simp only
  refine .trans (.trans ?_ (.modSched _ _)) (.raise _ _)
  split
  · exact dropLive_only _ _ _
  · exact (lateDrop_only _ _).trans (markTruncated_only _ _ _)

theorem reportRewind_only (id : Nat) (full : Bool) (segment : Option Nat) (s : State) :
    SendSide s (reportRewind id full segment s) := by
  unfold reportRewind
  exact .trans (.trans (.modSched _ s) (.modSched _ _)) (.raise _ _)

theorem rewindClip_only (id : Nat) (earliest : Option Nat) (itemLost : Bool) (s : State) :
    SendSide s (rewindClip id earliest itemLost s) := by
  unfold rewindClip
  repeat' split
  all_goals first
    | exact .refl _
    | exact (SendSide.modClip _ _ _).trans (reportRewind_only _ _ _ _)

theorem setSend_sendSide (id : Nat) (after : SendState) (cause : SendCause) (s : State) :
    SendSide s (setSend id after cause s) :=
  .of_clip (.of_send (setSend_only id after cause s))

theorem freeClip_sendSide (id : Nat) (s : State) : SendSide s (freeClip id s) := .of_clip (freeClip_only id s)

theorem reportFailedClip_only (id : Nat) (s : State) : SendSide s (reportFailedClip id s) := by
  unfold reportFailedClip
  repeat' split
  all_goals first
    | exact .refl _
    | exact (SendSide.modClip _ _ _).trans (setSend_sendSide _ _ _ _)

theorem failedClip_only (entries : List RetryEntry) (s : State) (id : Nat) : SendSide s (failedClip entries s id) :=
  (rewindClip_only _ _ _ s).trans (reportFailedClip_only _ _)

/-- All that going DOWN can change, a path failure included (R162, R163). -/
theorem goDown_only (p : Fin 4) (cause : PathCause) (s : State) : SendSide s (goDown p cause s) := by
  unfold goDown
  simp only
  split
  · exact (SendSide.modPath _ _ _).trans (changeState_only _ _ _ _ _)
  · refine .trans (.trans (.trans (.trans (.modPath _ _ _) (.modSched _ _)) (.foldl _ ?_ _ _)) (.foldl _ ?_ _ _))
      (changeState_only _ _ _ _ _)
    · exact fun s a => failedPicture_only _ _ _ s
    · exact fun s a => failedClip_only _ s a

/-! ### Replay, drain, retry and the transmitter's choice (R152, R158 to R161) -/

theorem queueControl_only (p : Fin 4) (f : ControlFrame) (s : State) : SendSide s (queueControl p f s) := .modPath _ _ _

theorem endReplay_only (p : Fin 4) (s : State) : SendSide s (endReplay p s) := by
  unfold endReplay
  simp only
  split
  · split
    · exact .trans (.trans (.trans (.modPath _ _ _) (changeState_only _ _ _ _ _)) (.modPath _ _ _)) (queueControl_only _ _ _)
    · exact .trans (.modPath _ _ _) (changeState_only _ _ _ _ _)
  · exact .trans (.modPath _ _ _) (changeState_only _ _ _ _ _)

theorem settleStates_only (p : Fin 4) (s : State) : SendSide s (settleStates p s) := by
  have first : SendSide s (if s.paths[p].replayDone then endReplay p s else s) := by
    split
    · exact endReplay_only p s
    · exact .refl s
  unfold settleStates
  generalize (if s.paths[p].replayDone then endReplay p s else s) = t at first ⊢
  simp only
  split
  · exact first.trans (goDown_only _ _ _)
  · exact first

theorem pathChoice_only (p : Fin 4) (s : State) : SendSide s (pathChoice p s) := by
  unfold pathChoice
  simp only
  repeat' split
  all_goals first
    | exact .refl _
    | exact .modPath _ _ _
    | exact SendSide.trans (t := s.modPath p _) (.modPath _ _ _) (.modPath _ _ _)

theorem settlePath_only (s : State) (p : Fin 4) : SendSide s (settlePath s p) :=
  .trans (.trans (settleStates_only p s) (pathChoice_only p _)) (settleStates_only p _)

/-- All that a retry can change (R159). -/
theorem triggerRetry_only (p : Fin 4) (cause : PathCause) (s : State) : SendSide s (triggerRetry p cause s) := by
  unfold triggerRetry
  simp only
  split
  · exact (SendSide.modPath _ _ _).trans (goDown_only _ _ _)
  · exact .trans (.trans (.trans (.modPath _ _ _) (.modPath _ _ _)) (changeState_only _ _ _ _ _)) (settleStates_only _ _)

theorem ackExpired_only (p : Fin 4) (s : State) : SendSide s (ackExpired p s) := by
  unfold ackExpired
  split
  · exact triggerRetry_only _ _ _
  · exact goDown_only _ _ _
  all_goals exact .refl s

theorem queueHello_only (p : Fin 4) (count : Nat) (s : State) : SendSide s (queueHello p count s) :=
  (SendSide.modPath _ _ _).trans (queueControl_only _ _ _)

theorem enterProbe_only (p : Fin 4) (s : State) : SendSide s (enterProbe p s) :=
  .trans (.trans (.modPath _ _ _) (changeState_only _ _ _ _ _)) (queueHello_only _ _ _)

theorem helloExpired_only (p : Fin 4) (s : State) : SendSide s (helloExpired p s) := by
  unfold helloExpired
  split
  · exact queueHello_only _ _ _
  · exact goDown_only _ _ _

/-! ### Other paths stay as they are -/

theorem recompute_paths (cause : AllocCause) (s : State) : (recompute cause s).paths = s.paths := by
  have h := recompute_only cause s
  rw [AllocOnly] at h
  rw [h]

theorem setSend_paths (id : Nat) (after : SendState) (cause : SendCause) (s : State) :
    (setSend id after cause s).paths = s.paths := by
  have h := setSend_only id after cause s
  rw [SendOnly] at h
  rw [h]

/-- A change of state changes the state of its path alone. -/
theorem changeState_paths (p : Fin 4) (after : PathState) (cause : PathCause) (failure : Option (Nat × Nat × Nat))
    (s : State) :
    (changeState p after cause failure s).paths = vecModify s.paths p fun path => { path with state := after } := by
  unfold changeState
  simp only
  rw [raise_of_not_protocol _ rfl]
  exact recompute_paths _ _

theorem failedPicture_paths (c : Fin 6) (sequence : Seq) (t : Timecode) (s : State) :
    (failedPicture c sequence t s).paths = s.paths := by
  unfold failedPicture
  simp only
  rw [raise_of_not_protocol _ rfl]
  show (ite _ _ _ : State).paths = _
  split
  · unfold dropLive markTruncated
    split <;> rfl
  · unfold markTruncated
    split <;> rfl

theorem rewindClip_paths (id : Nat) (earliest : Option Nat) (itemLost : Bool) (s : State) :
    (rewindClip id earliest itemLost s).paths = s.paths := by
  unfold rewindClip
  repeat' split
  all_goals rfl

theorem reportFailedClip_paths (id : Nat) (s : State) : (reportFailedClip id s).paths = s.paths := by
  unfold reportFailedClip
  repeat' split
  all_goals first
    | rfl
    | exact setSend_paths _ _ _ _

theorem failedClip_paths (entries : List RetryEntry) (s : State) (id : Nat) : (failedClip entries s id).paths = s.paths :=
  (reportFailedClip_paths _ _).trans (rewindClip_paths _ _ _ s)

/-- Going DOWN changes its own path alone: emptied, and in DOWN (R152, R159, R162). -/
theorem goDown_paths (p : Fin 4) (cause : PathCause) (s : State) :
    (goDown p cause s).paths = vecModify s.paths p fun path =>
      { (if path.retry.isEmpty && cause != .retryLimit then quietPath path else failPath path) with state := .down } := by
  have fold : ∀ {α : Type} (f : State → α → State), (∀ s a, (f s a).paths = s.paths) → ∀ (l : List α) (t : State),
      (l.foldl f t).paths = t.paths := by
    intro α f h l
    induction l with
    | nil => exact fun _ => rfl
    | cons a rest ih => exact fun t => (ih _).trans (h t a)
  unfold goDown
  simp only
  split
  · rename_i h
    rw [changeState_paths, State.modPath_paths, vecModify_vecModify, vecModify_eq_vecSet, vecModify_eq_vecSet, if_pos h]
  · rename_i h
    rw [changeState_paths, fold _ (failedClip_paths _), fold _ (fun s a => failedPicture_paths _ _ _ s),
      State.modSched_paths, State.modPath_paths, vecModify_vecModify, vecModify_eq_vecSet, vecModify_eq_vecSet, if_neg h]

end Sys2Proof.Machine
end

