-- ==== Sys2Proof/Laws/Writer.lean ====
section
/-! SUPPORT. The segment writer and what it tells the Clip Log: what storing, opening, closing and pausing can change. -/

namespace Sys2Proof.Machine

/-! ### What the writer tells the Clip Log (05) -/

namespace ClipOnly

variable {s t : State}

theorem refl (s : State) : ClipOnly s s := rfl

theorem modClipLog (f : List Clip → List Clip) (s : State) :
    ClipOnly s (s.modClipLog fun log => { log with clips := f log.clips }) := rfl

theorem modSegment (id : Nat) (f : Segment → Segment) (s : State) : ClipOnly s (s.modSegment id f) := rfl

theorem foldl {α : Type} (f : State → α → State) (h : ∀ s a, ClipOnly s (f s a)) (l : List α) (s : State) :
    ClipOnly s (l.foldl f s) := by
  induction l generalizing s with
  | nil => exact refl s
  | cons a rest ih => exact (h s a).trans (ih _)

end ClipOnly

theorem closeAtEnd_only (id : Nat) (cause : CloseCause) (s : State) : ClipOnly s (closeAtEnd id cause s) := by
  unfold closeAtEnd
  split
  · exact .refl s
  · exact (modClip_only _ _ _).trans (completeClose_only _ _ _ _)

/-- All that a close in a segment can change (R100, cases 2 and 3). -/
theorem closeInSegment_only (id segment : Nat) (cause : CloseCause) (s : State) :
    ClipOnly s (closeInSegment id segment cause s) := by
  unfold closeInSegment
  repeat' split
  · exact completeClose_only _ _ _ _
  · exact completeClose_only _ _ _ _
  · exact modClip_only _ _ _

/-- All that the opening of a segment can change at clips (R75, R97). -/
theorem extendClips_only (c : Fin 6) (segment : Nat) (s : State) : ClipOnly s (extendClips c segment s) :=
  (ClipOnly.modClipLog _ s).trans (.modSegment _ _ _)

theorem completeCloses_only (segment : Nat) (s : State) : ClipOnly s (completeCloses segment s) :=
  .foldl _ (fun s _ => completeClose_only _ _ _ s) _ s

theorem settleInStored_only (segment : Nat) (s : State) (id : Nat) : ClipOnly s (settleInStored segment s id) := by
  unfold settleInStored
  split
  · exact .refl s
  · exact (modClip_only _ _ _).trans (.of_reclaim (unpinAll_only _ _))

theorem settleOutStored_only (segment : Nat) (s : State) (id : Nat) : ClipOnly s (settleOutStored segment s id) := by
  unfold settleOutStored
  split
  · exact .refl s
  · exact closeInSegment_only _ _ _ _

/-- All that a stored picture can change at clips (R96, R100). -/
theorem pictureStored_only (c : Fin 6) (segment : Nat) (s : State) : ClipOnly s (pictureStored c segment s) :=
  (ClipOnly.foldl _ (settleInStored_only segment) _ s).trans (.foldl _ (settleOutStored_only segment) _ _)

theorem settleInUnstored_only (alreadyPaused : Bool) (s : State) (id : Nat) :
    ClipOnly s (settleInUnstored alreadyPaused s id) := by
  unfold settleInUnstored
  split
  · exact .refl s
  · exact (modClip_only _ _ _).trans (.of_reclaim (unpinAll_only _ _))

theorem settleOutUnstored_only (s : State) (id : Nat) : ClipOnly s (settleOutUnstored s id) := by
  unfold settleOutUnstored
  split
  · exact .refl s
  · simp only
    split
    · exact (modClip_only _ _ _).trans (closeInSegment_only _ _ _ _)
    · exact completeClose_only _ _ _ _

theorem addGap_only (start : Timecode) (s : State) (id : Nat) : ClipOnly s (addGap start s id) := by
  unfold addGap
  repeat' split
  · exact .refl s
  · exact closeAtEnd_only _ _ _
  · exact (modClip_only _ _ _).trans (.raise _ rfl)

/-- All that a picture that was not stored can change at clips (R96, R97, R100). -/
theorem pictureUnstored_only (c : Fin 6) (pauseStart : Option Timecode) (s : State) :
    ClipOnly s (pictureUnstored c pauseStart s) := by
  unfold pictureUnstored
  cases pauseStart with
  | none => exact (ClipOnly.foldl _ (settleInUnstored_only _) _ s).trans (.foldl _ settleOutUnstored_only _ _)
  | some start =>
    exact .trans (.trans (.foldl _ (settleInUnstored_only _) _ s) (.foldl _ (addGap_only start) _ _))
      (.foldl _ settleOutUnstored_only _ _)

theorem closeGaps_only (c : Fin 6) (stop : Timecode) (s : State) : ClipOnly s (closeGaps c stop s) :=
  .modClipLog _ s

theorem closeOpenClips_only (c : Fin 6) (s : State) : ClipOnly s (closeOpenClips c s) :=
  .foldl _ (fun s _ => closeAtEnd_only _ _ s) _ s

/-! ### What the writer can reach (04) -/

/-- The second state is the first but for what a channel's recording can reach: the store's contents, the clip table,
notices and the channel's filling segment; and memory in canonical form stays in it. -/
structure RecordSide (s t : State) : Prop where
  state : t = { s with
    coders := t.coders
    alloc := t.alloc
    store := { s.store with
      dram := t.store.dram
      lineErrors := t.store.lineErrors
      freePool := t.store.freePool
      retired := t.store.retired
      pagesRetired := t.store.pagesRetired
      segments := t.store.segments
      timelines := t.store.timelines
      completion := t.store.completion
      writers := t.store.writers
      uncorrectable := t.store.uncorrectable
      reclaimed := t.store.reclaimed
      unstored := t.store.unstored }
    clipLog := { s.clipLog with clips := t.clipLog.clips }
    sched := { s.sched with reads := t.sched.reads }
    control := s.control.noticed t.control
    freeReads := t.freeReads }
  coder : ∀ c : Fin 6, t.coders[c] = { s.coders[c] with filling := t.coders[c].filling }
  dram : s.store.dram.wf = true → t.store.dram.wf = true
  lines : List.Sublist t.store.lineErrors s.store.lineErrors

namespace RecordSide

variable {s t u : State}

theorem refl (s : State) : RecordSide s s := ⟨rfl, fun _ => rfl, id, .refl _⟩

theorem trans (h : RecordSide s t) (h' : RecordSide t u) : RecordSide s u :=
  ⟨Eq.trans h'.state (by rw [h.state]), fun c => Eq.trans (h'.coder c) (by rw [h.coder c]), fun w => h'.dram (h.dram w),
    h'.lines.trans h.lines⟩

theorem of_clip (h : ClipOnly s t) : RecordSide s t := by
  have e := h
  rw [ClipOnly] at e
  refine ⟨Eq.trans e (by rw [e]), fun c => by rw [e], fun w => ?_, ?_⟩
  · rw [e]
    exact w
  · rw [e]

theorem of_reclaim (h : ReclaimOnly s t) : RecordSide s t := .of_clip (.of_reclaim h)

theorem raise {body : NoticeBody} (s : State) (h : protocolPath body = none) : RecordSide s (Machine.raise body s) :=
  .of_clip (.raise s h)

theorem modSegment (id : Nat) (f : Segment → Segment) (s : State) : RecordSide s (s.modSegment id f) :=
  ⟨rfl, fun _ => rfl, fun w => w, .refl _⟩

theorem modWriter (c : Fin 6) (f : Writer → Writer) (s : State) : RecordSide s (s.modWriter c f) :=
  ⟨rfl, fun _ => rfl, fun w => w, .refl _⟩

/-- A change of the segment table, the timelines, the completion list or the count of unstored pictures. -/
theorem modStore (f : Store → Store) (s : State)
    (h : ∀ st, f st = { st with
      segments := (f st).segments, timelines := (f st).timelines, completion := (f st).completion
      unstored := (f st).unstored }) : RecordSide s (s.modStore f) := by
  have e := h s.store
  refine ⟨?_, fun _ => rfl, fun w => ?_, ?_⟩
  · rw [State.modStore, e]
  · rw [State.modStore_store, e]
    exact w
  · rw [State.modStore_store, e]

/-- A change of a channel's filling segment alone. -/
theorem filling (c : Fin 6) (id : Option Nat) (s : State) :
    RecordSide s (s.modCoder c fun k => { k with filling := id }) := by
  refine ⟨rfl, fun d => ?_, fun w => w, .refl _⟩
  show (vecModify s.coders c _)[d] = _
  by_cases e : d = c
  · subst e
    simp [State.modCoder]
  · simp [State.modCoder, e]

end RecordSide

theorem readLine_lineErrors (line : Nat) (s : State) :
    List.Sublist (readLine line s).2.2.store.lineErrors s.store.lineErrors := by
  unfold readLine
  split
  · exact .refl _
  · exact List.filter_sublist
  · exact .refl _

theorem readLine_only (line : Nat) (s : State) : RecordSide s (readLine line s).2.2 := by
  refine ⟨?_, fun c => ?_, fun w => by rw [readLine_dram]; exact w, readLine_lineErrors line s⟩ <;>
    rw [readLine_frame]

/-- All that writing bytes of a segment can change (R70). -/
theorem writeSegment_only (pages : List Nat) (x : Nat) (bytes : List Byte) (s : State) :
    RecordSide s (writeSegment pages x bytes s) := by
  have w := writeSegment_wf pages x bytes s
  revert w
  unfold writeSegment
  split
  · exact fun w => ⟨rfl, fun _ => rfl, w, List.filter_sublist⟩
  · intro w
    have r := readLine_only (segAddress pages (x - x % lineSize) / lineSize) s
    refine r.trans ⟨rfl, fun _ => rfl, fun _ => ?_, List.filter_sublist⟩
    exact segWrite_wf _ _ _ (by assumption)

theorem padSegment_only (g : Segment) (s : State) : RecordSide s (padSegment g s) := by
  unfold padSegment
  split
  · exact .refl s
  · exact (writeSegment_only _ _ _ s).trans (.modSegment _ _ _)

/-- All that the close of a segment can change (R71, R72). -/
theorem closeSegment_only (c : Fin 6) (reason : CloseReason) (s : State) : RecordSide s (closeSegment c reason s) := by
  unfold closeSegment
  split
  · exact .refl s
  · simp only
    split
    · refine .trans ?_ (.of_reclaim (reclaimPages_only _))
      exact closes _ _
    · exact closes _ _
where
  /-- The close up to the closes that wait on it. -/
  closes (g : Segment) (s : State) : RecordSide s (completeCloses g.id
      ((((padSegment g s).modSegment g.id fun g => { g with state := .complete, closeReason := some reason }).modStore
        fun st => { st with completion := st.completion ++ [g.id] }).modCoder c fun k => { k with filling := none })) := by
    refine .trans ?_ (.of_clip (completeCloses_only _ _))
    refine .trans ?_ (.filling c none _)
    refine .trans ?_ (.modStore _ _ fun _ => rfl)
    exact (padSegment_only g s).trans (.modSegment _ _ _)

/-- All that the opening of a segment can change (R69, step 4). -/
theorem openSegment_only (c : Fin 6) (t : Timecode) (bytes : Nat) (s : State) :
    RecordSide s (openSegment c t bytes s).2 := by
  have first : RecordSide s (if s.lowestFreeRecord.isNone then reclaimRecord s else s) := by
    split
    · exact .of_reclaim (reclaimRecord_only s)
    · exact .refl s
  unfold openSegment
  generalize (if s.lowestFreeRecord.isNone then reclaimRecord s else s) = v at first ⊢
  simp only
  split
  · exact first
  · have pages := obtainPages_only (pagesFor bytes) v
    split
    · rename_i e
      rw [e] at pages
      exact first.trans (.of_reclaim pages)
    · rename_i e
      rw [e] at pages
      refine .trans ?_ (.of_clip (extendClips_only _ _ _))
      refine .trans ?_ (.filling c (some _) _)
      refine .trans ?_ (.modStore _ _ fun _ => rfl)
      exact first.trans (.of_reclaim pages)

theorem appendPicture_only (g : Segment) (bytes : List Byte) (s : State) : RecordSide s (appendPicture g bytes s) :=
  (writeSegment_only _ _ _ s).trans (.modSegment _ _ _)

/-- All that storing a picture can change (R69 to R71). -/
theorem storePicture_only (c : Fin 6) (bytes : List Byte) (s : State) : RecordSide s (storePicture c bytes s).2 := by
  unfold storePicture
  split
  · exact .refl s
  · rename_i g _
    have pages := obtainPages_only (pagesFor (g.byteLength + bytes.length) - g.pages.length) s
    split
    · rename_i e
      rw [e] at pages
      exact .of_reclaim pages
    · rename_i e
      rw [e] at pages
      simp only
      split
      · refine .trans ?_ (closeSegment_only _ _ _)
        refine .trans ?_ (.of_clip (pictureStored_only _ _ _))
        refine .trans ?_ (appendPicture_only _ _ _)
        exact .trans (.of_reclaim pages) (.modSegment _ _ _)
      · refine .trans ?_ (.of_clip (pictureStored_only _ _ _))
        refine .trans ?_ (appendPicture_only _ _ _)
        exact .trans (.of_reclaim pages) (.modSegment _ _ _)

theorem pauseWriter_only (c : Fin 6) (t : Timecode) (s : State) : RecordSide s (pauseWriter c t s) := by
  unfold pauseWriter
  refine .trans ?_ (.raise _ rfl)
  refine .trans ?_ (.of_clip (pictureUnstored_only _ _ _))
  exact .trans (.modWriter c _ s) (.modStore _ _ fun _ => rfl)

theorem endPause_only (c : Fin 6) (stored : Option Timecode) (s : State) : RecordSide s (endPause c stored s) := by
  unfold endPause
  exact .trans (.raise s rfl) (.modWriter c _ _)

theorem resumeWriter_only (c : Fin 6) (t : Timecode) (bytes : List Byte) (s : State) :
    RecordSide s (resumeWriter c t bytes s) := by
  have opened := openSegment_only c t bytes.length s
  unfold resumeWriter
  split
  · rename_i e
    rw [e] at opened
    refine .trans ?_ (endPause_only _ _ _)
    refine .trans ?_ (.of_clip (closeGaps_only _ _ _))
    refine .trans ?_ (.modWriter c _ _)
    exact opened.trans (storePicture_only c bytes _)
  · rename_i e
    rw [e] at opened
    refine .trans ?_ (.of_clip (pictureUnstored_only _ _ _))
    refine .trans ?_ (.modStore _ _ fun _ => rfl)
    exact opened.trans (.modWriter c _ _)

theorem closeBefore_only (c : Fin 6) (t : Timecode) (bytes : Nat) (s : State) :
    RecordSide s (closeBefore c t bytes s) := by
  unfold closeBefore
  repeat' split
  all_goals first
    | exact .refl s
    | exact closeSegment_only _ _ _

/-- All that the handover of a picture to the writer can change (R69, R78, R79). -/
theorem handOver_only (c : Fin 6) (t : Timecode) (bytes : List Byte) (s : State) :
    RecordSide s (handOver c t bytes s) := by
  unfold handOver
  split
  · exact resumeWriter_only _ _ _ _
  · have before := closeBefore_only c t bytes.length s
    have opened : RecordSide s (if (closeBefore c t bytes.length s).coders[c].filling.isNone then
        openSegment c t bytes.length (closeBefore c t bytes.length s) else (true, closeBefore c t bytes.length s)).2 := by
      split
      · exact before.trans (openSegment_only _ _ _ _)
      · exact before
    exact opened.trans (tail _)
where
  /-- What follows the opening of a segment, or the finding of one. -/
  tail (v : Bool × State) : RecordSide v.2 (if !v.1 then pauseWriter c t v.2 else
      match storePicture c bytes v.2 with
      | (true, s) => s
      | (false, s) => pauseWriter c t (closeSegment c .pause s)) := by
    split
    · exact pauseWriter_only _ _ _
    · have stored := storePicture_only c bytes v.2
      split
      · rename_i e
        rw [e] at stored
        exact stored
      · rename_i e
        rw [e] at stored
        exact .trans (stored.trans (closeSegment_only _ _ _)) (pauseWriter_only _ _ _)

/-- All that leaving recording can change (R73, R98). -/
theorem leaveRecording_only (c : Fin 6) (s : State) : RecordSide s (leaveRecording c s) := by
  have closed := closeSegment_only c .leave s
  unfold leaveRecording
  simp only
  split
  · refine .trans ?_ (.of_clip (closeOpenClips_only _ _))
    refine .trans ?_ (.modWriter _ _ _)
    exact .trans (closed.trans (.of_clip (closeGaps_only _ _ _))) (endPause_only _ _ _)
  · exact .trans (closed.trans (.modWriter _ _ _)) (.of_clip (closeOpenClips_only _ _))

end Sys2Proof.Machine
end

