-- ==== Sys2Proof/Laws/Coder.lean ====
section
/-! SUPPORT. The coder channels: the arithmetic of rate control, and what a picture start, a coded picture and a take can
change. -/

namespace Sys2Proof.Machine

/-! ### Indices and fullness (R57 to R59) -/

theorem clampIndex_low (low high : Nat) (q : Int) : low ≤ clampIndex low high q := by
  unfold clampIndex
  omega

theorem clampIndex_high {low high : Nat} (h : low ≤ high) (q : Int) : clampIndex low high q ≤ high := by
  unfold clampIndex
  omega

/-- An index within the bounds is left as it is. -/
theorem clampIndex_of_within {low high q : Nat} (h : low ≤ q) (h' : q ≤ high) : clampIndex low high q = q := by
  unfold clampIndex
  omega

theorem nextIndex_low (fullness bufferSize qMin qMax qStart : Nat) :
    qMin ≤ nextIndex fullness bufferSize qMin qMax qStart := clampIndex_low _ _ _

theorem nextIndex_high {qMin qMax : Nat} (h : qMin ≤ qMax) (fullness bufferSize qStart : Nat) :
    nextIndex fullness bufferSize qMin qMax qStart ≤ qMax := clampIndex_high h _

/-- With every field merged in, a field given last stands (R18). -/
theorem mergeStaged_empty (st : Staged) : mergeStaged Staged.empty st = st := by
  cases st
  rfl

/-! ### What a channel's work can reach -/

/-- The second state is the first but for what the work of channel `c` can reach: its own record, the filling segments,
what recording can reach, the allocation record, the truncate marks and notices; and memory in canonical form stays in
it. -/
structure CoderSide (c : Fin 6) (s t : State) : Prop where
  state : t = { s with
    coders := t.coders
    alloc := t.alloc
    store := { s.store with
      dram := t.store.dram
      lineErrors := t.store.lineErrors
      freePool := t.store.freePool
      retired := t.store.retired
      pagesRetired := t.store.pagesRetired
      segments := t.store.segments
      timelines := t.store.timelines
      completion := t.store.completion
      writers := t.store.writers
      uncorrectable := t.store.uncorrectable
      reclaimed := t.store.reclaimed
      unstored := t.store.unstored }
    clipLog := { s.clipLog with clips := t.clipLog.clips }
    sched := { s.sched with reads := t.sched.reads, truncatePending := t.sched.truncatePending }
    control := s.control.noticed t.control
    freeReads := t.freeReads }
  others : ∀ d : Fin 6, d ≠ c → t.coders[d] = { s.coders[d] with filling := t.coders[d].filling }
  dram : s.store.dram.wf = true → t.store.dram.wf = true
  lines : List.Sublist t.store.lineErrors s.store.lineErrors

namespace CoderSide

variable {c : Fin 6} {s t u : State}

theorem refl (s : State) : CoderSide c s s := ⟨rfl, fun _ _ => rfl, fun w => w, .refl _⟩

theorem trans (h : CoderSide c s t) (h' : CoderSide c t u) : CoderSide c s u :=
  ⟨Eq.trans h'.state (by rw [h.state]), fun d hd => Eq.trans (h'.others d hd) (by rw [h.others d hd]),
    fun w => h'.dram (h.dram w), h'.lines.trans h.lines⟩

theorem of_record (h : RecordSide s t) : CoderSide c s t := by
  refine ⟨?_, fun d _ => h.coder d, h.dram, h.lines⟩
  have e := h.state
  exact Eq.trans e (by rw [e])

theorem raise {body : NoticeBody} (s : State) (h : protocolPath body = none) : CoderSide c s (Machine.raise body s) :=
  .of_record (.raise s h)

theorem of_alloc (h : AllocOnly s t) : CoderSide c s t := .of_record (.of_clip (.of_send (.of_alloc h)))

/-- A change of the channel's own record. -/
theorem modCoder (f : CoderChannel → CoderChannel) (s : State) : CoderSide c s (s.modCoder c f) := by
  refine ⟨rfl, fun d hd => ?_, fun w => w, .refl _⟩
  show (vecModify s.coders c f)[d] = { s.coders[d] with filling := (vecModify s.coders c f)[d].filling }
  simp [hd]

theorem truncate (v : Vector Bool 6) (s : State) :
    CoderSide c s (s.modSched fun sc => { sc with truncatePending := v }) :=
  ⟨rfl, fun _ _ => rfl, fun w => w, .refl _⟩

end CoderSide

theorem dropLive_coderSide (c : Fin 6) (place : Nat) (s : State) : CoderSide c s (dropLive c place s) := by
  unfold dropLive markTruncated lateDrop
  split
  · exact .trans (.trans (.modCoder _ s) (.modCoder _ _)) (.modCoder _ _)
  · exact .trans (.trans (.modCoder _ s) (.modCoder _ _)) (.truncate _ _)

theorem makeRoom_only (c : Fin 6) (bytes n : Nat) (s : State) : CoderSide c s (makeRoom c bytes n s) := by
  induction n generalizing s with
  | zero => exact .refl s
  | succ n ih =>
    rw [makeRoom]
    simp only
    repeat' split
    all_goals first
      | exact .refl s
      | exact .trans (.trans (dropLive_coderSide _ _ _) (.raise _ rfl)) (ih _)

/-- All that the joining of a picture to the live buffer can change (R39, R177). -/
theorem joinLive_only (c : Fin 6) (p : LivePicture) (s : State) : CoderSide c s (joinLive c p s) := by
  unfold joinLive
  exact .trans (.trans (makeRoom_only _ _ _ s) (.modCoder _ _)) (.truncate _ _)

/-- All that a picture start can change (R34). -/
theorem pictureStart_only (c : Fin 6) (s : State) : CoderSide c s (pictureStart c s) := by
  unfold pictureStart
  exact .modCoder _ _

/-- All that rate control can change (R58, R59). -/
theorem rateControl_only (c : Fin 6) (f : InFlight) (sequence : Seq) (bytes : Nat) (s : State) :
    CoderSide c s (rateControl c f sequence bytes s) := by
  unfold rateControl
  simp only
  split
  · exact .trans (.trans (.modCoder _ s) (.raise _ rfl)) (.modCoder _ _)
  · exact .trans (.modCoder _ s) (.modCoder _ _)

/-- All that picture coded can change (R35). -/
theorem pictureCodedEvent_only (c : Fin 6) (s : State) : CoderSide c s (pictureCodedEvent c s) := by
  unfold pictureCodedEvent
  split
  · exact .refl s
  · rename_i f _
    simp only
    refine .trans ?_ (rateControl_only _ _ _ _ _)
    refine .trans ?_ (stored _ _ _)
    refine .trans ?_ (live _ _)
    refine .trans ?_ (.modCoder _ _)
    split
    · exact .trans (.modCoder _ s) (.raise _ rfl)
    · exact .refl s
where
  /-- The handover to the writer of a channel that records. -/
  stored (t : Timecode) (bytes : List Byte) (s : State) {p : Prop} [Decidable p] :
      CoderSide c s (if p then handOver c t bytes s else s) := by
    split
    · exact .of_record (handOver_only _ _ _ _)
    · exact .refl s
  /-- The joining of the live buffer of a channel that is live. -/
  live (p : LivePicture) (s : State) {q : Prop} [Decidable q] : CoderSide c s (if q then joinLive c p s else s) := by
    split
    · exact joinLive_only _ _ _
    · exact .refl s

/-! ### Takes (R17, R20 to R23) -/

theorem reportTake_only (c : Fin 6) (s : State) : AllocOnly s (reportTake c s) :=
  .trans (t := s.modAlloc _) rfl (recompute_only _ _)

theorem enterActive_only (c : Fin 6) (s : State) : CoderSide c s (enterActive c s) := by
  unfold enterActive
  simp only
  split
  · exact .trans (.modCoder _ s) (.of_record (.modWriter _ _ _))
  · exact .modCoder _ s

/-- All that leaving recording, live working or both can change (R22, R73). -/
theorem leaveWork_only (c : Fin 6) (before after : CoderMode) (s : State) : CoderSide c s (leaveWork c before after s) := by
  have first : CoderSide c s (if before.isRecording && !after.isRecording then
      (leaveRecording c s).modCoder c fun k => { k with filling := none } else s) := by
    split
    · exact .trans (.of_record (leaveRecording_only _ s)) (.modCoder _ _)
    · exact .refl s
  unfold leaveWork
  generalize (if before.isRecording && !after.isRecording then
    (leaveRecording c s).modCoder c fun k => { k with filling := none } else s) = t at first ⊢
  simp only
  split
  · exact first.trans (.modCoder _ _)
  · exact first

theorem leaveActive_only (c : Fin 6) (before after : CoderMode) (s : State) :
    CoderSide c s (leaveActive c before after s) :=
  (leaveWork_only c before after s).trans (.modCoder _ _)

theorem changeWork_only (c : Fin 6) (before after : CoderMode) (s : State) :
    CoderSide c s (changeWork c before after s) := by
  unfold changeWork
  simp only
  split
  · exact .trans (leaveWork_only _ _ _ s) (.of_record (.modWriter _ _ _))
  · exact leaveWork_only _ _ _ s

/-- All that a take does at a change of mode (R21, R22). -/
theorem takeMode_only (c : Fin 6) (before after : CoderMode) (s : State) : CoderSide c s (takeMode c before after s) := by
  unfold takeMode
  split
  · exact enterActive_only _ s
  · exact leaveActive_only _ _ _ s
  · exact changeWork_only _ _ _ s
  · exact .refl s

theorem takeSource_only (c : Fin 6) (before : CoderMode) (s : State) : CoderSide c s (takeSource c before s) := by
  have input : ∀ p state, protocolPath (inputNotice c p state) = none := by
    intro p state
    cases state <;> rfl
  unfold takeSource
  simp only
  split
  · exact .trans (.modCoder _ s) (.raise _ (input _ _))
  · exact .modCoder _ s

/-- All that the take of a staged change can change (R20 to R22). -/
theorem takeStaged_only (c : Fin 6) (st : Staged) (s : State) : CoderSide c s (takeStaged c st s) := by
  unfold takeStaged
  simp only
  refine .trans ?_ (back _)
  refine .trans ?_ (.raise _ rfl)
  refine .trans ?_ (.of_alloc (reportTake_only _ _))
  refine .trans ?_ (takeMode_only _ _ _ _)
  refine .trans ?_ (source _ _)
  exact .modCoder _ s
where
  /-- INPUT_BACK of a channel that leaves OFF. -/
  back (s : State) {p : Prop} [Decidable p] {q : Fin 8} :
      CoderSide c s (if p then raise (.inputBack c q) s else s) := by
    split
    · exact .raise _ rfl
    · exact .refl s
  /-- The take of a source. -/
  source (before : CoderMode) (s : State) {p : Prop} [Decidable p] :
      CoderSide c s (if p then takeSource c before s else s) := by
    split
    · exact takeSource_only _ _ _
    · exact .refl s

/-- All that a channel's work at a picture tick can change (R19, R34). -/
theorem coderTick_only (c : Fin 6) (due : Staged) (s : State) : CoderSide c s (coderTick c due s) := by
  have first : CoderSide c s (if due = Staged.empty then s else takeStaged c due s) := by
    split
    · exact .refl s
    · exact takeStaged_only _ _ _
  unfold coderTick
  generalize (if due = Staged.empty then s else takeStaged c due s) = t at first ⊢
  simp only
  split
  · exact first.trans (pictureStart_only _ _)
  · exact first

/-- All that a channel's work at a rate take can change (R23). -/
theorem coderRateTake_only (c : Fin 6) (due : Staged) (s : State) : CoderSide c s (coderRateTake c due s) := by
  have first : CoderSide c s (if due = Staged.empty then s else raise (.discarded c due) s) := by
    split
    · exact .refl s
    · exact .raise _ rfl
  unfold coderRateTake
  generalize (if due = Staged.empty then s else raise (.discarded c due) s) = t at first ⊢
  simp only
  split
  · refine first.trans (.trans ?_ (.raise _ rfl))
    refine .trans ?_ (.of_alloc (reportTake_only _ _))
    exact .trans (.modCoder _ t) (leaveActive_only _ _ _ _)
  · exact first

end Sys2Proof.Machine
end

