-- ==== Sys2Proof/Laws/Requests.lean ====
section
/-! SUPPORT. The queued requests: what the shared execution of a request does, once for every owner. -/

namespace Sys2Proof.Machine

variable {s : State} {kind : RequestKind} {body : List Byte} {owner : List Byte → State → Reply × State}

/-- A request of a right length is answered as its owner answers it. -/
theorem runRequest_eq (h : s.asks kind body) (hl : lengthOk kind body = true) :
    runRequest kind owner s = answered (owner body s).1 (owner body s).2 := by
  obtain ⟨e, he, hk, rfl⟩ := h
  simp only [runRequest, he, hk, hl, if_true]
  rfl

/-- A request of a wrong length is answered BAD_LENGTH. -/
theorem runRequest_badLength (h : s.asks kind body) (hl : lengthOk kind body = false) :
    runRequest kind owner s = refusedWith .badLength s := by
  obtain ⟨e, he, hk, rfl⟩ := h
  simp only [runRequest, he, hk, hl, if_true]
  rfl

/-- A request of another kind is left waiting. -/
theorem runRequest_other {other : RequestKind} (h : s.asks other body) (hne : other ≠ kind) :
    runRequest kind owner s = finish s := by
  obtain ⟨e, he, hk, rfl⟩ := h
  simp [runRequest, he, hk, hne]

/-- A refusal answers the code and leaves the state. -/
@[simp] theorem answered_refuse (code : ResultCode) : answered (refuse code s).1 (refuse code s).2 = refusedWith code s :=
  rfl

@[simp] theorem answerOk_fst (contents : ReplyContents) : (answerOk contents s).1 = ⟨.ok, contents⟩ := rfl
@[simp] theorem answerOk_snd (contents : ReplyContents) : (answerOk contents s).2 = s := rfl
@[simp] theorem answerAccepted_fst (contents : ReplyContents) : (answerAccepted contents s).1 = ⟨.accepted, contents⟩ := rfl
@[simp] theorem answerAccepted_snd (contents : ReplyContents) : (answerAccepted contents s).2 = s := rfl
@[simp] theorem refuse_fst (code : ResultCode) : (refuse code s).1 = ⟨code, .none⟩ := rfl
@[simp] theorem refuse_snd (code : ResultCode) : (refuse code s).2 = s := rfl

/-- The scheduler goes on after a request that was carried out, and not after a refusal. -/
theorem thenServe_ok {t : State} {contents : ReplyContents} (h : owner body s = answerOk contents t) :
    thenServe owner body s = answerOk contents (serve t) := by
  simp [thenServe, h, answerOk]

theorem thenServe_accepted {t : State} {contents : ReplyContents} (h : owner body s = answerAccepted contents t) :
    thenServe owner body s = answerAccepted contents (serve t) := by
  simp [thenServe, h, answerAccepted]

theorem thenCheck_ok {t : State} {contents : ReplyContents} (h : owner body s = answerOk contents t) :
    thenCheck owner body s = answerOk contents (serve (waitChecks t)) := by
  simp [thenCheck, h, answerOk]

/-- The number of a byte is itself below 256. -/
@[simp] theorem field_zero_one (b : Byte) (rest : List Byte) : field (b :: rest) 0 1 = b.toNat := by
  simp [field, numberOf]

@[simp] theorem field_zero_two (a b : Byte) (rest : List Byte) :
    field (a :: b :: rest) 0 2 = a.toNat * 256 + b.toNat := by
  simp [field, numberOf]

@[simp] theorem field_succ (b : Byte) (rest : List Byte) (offset size : Nat) :
    field (b :: rest) (offset + 1) size = field rest offset size := by
  simp [field]

/-- A number that names an item of so many. -/
theorem finOf_of_lt {n k : Nat} (h : k < n) : finOf n k = some ⟨k, h⟩ := by simp [finOf, h]

theorem finOf_of_le {n k : Nat} (h : n ≤ k) : finOf n k = none := by simp [finOf, Nat.not_lt.mpr h]

@[simp] theorem finOf_val {n : Nat} (i : Fin n) : finOf n i.val = some i := by simp [finOf]

/-- The answer goes to the WAITING entry nearest the front. -/
theorem answerFirst_append (reply : Reply) (done behind : List Entry) (e : Entry)
    (hd : ∀ d ∈ done, d.status ≠ .waiting) (he : e.status = .waiting) :
    answerFirst reply (done ++ e :: behind) = done ++ { e with status := .ready reply } :: behind := by
  induction done with
  | nil => simp [answerFirst, he]
  | cons d rest ih =>
    have hne : d.status ≠ .waiting := hd d (by simp)
    simp [answerFirst, hne, ih fun x hx => hd x (by simp [hx])]

theorem firstWaiting_append (done behind : List Entry) (e : Entry)
    (hd : ∀ d ∈ done, d.status ≠ .waiting) (he : e.status = .waiting) :
    firstWaiting (done ++ e :: behind) = some e := by
  induction done with
  | nil => simp [firstWaiting, he]
  | cons d rest ih =>
    have hne : d.status ≠ .waiting := hd d (by simp)
    simp [firstWaiting, hne, ih fun x hx => hd x (by simp [hx])]

theorem splitWaiting_append (done behind : List Entry) (e : Entry)
    (hd : ∀ d ∈ done, d.status ≠ .waiting) (he : e.status = .waiting) :
    splitWaiting (done ++ e :: behind) = (done ++ [e], behind) := by
  induction done with
  | nil => simp [splitWaiting, he]
  | cons d rest ih =>
    have hne : d.status ≠ .waiting := hd d (by simp)
    simp [splitWaiting, hne, ih fun x hx => hd x (by simp [hx])]

/-- The answers keep the number of entries. -/
@[simp] theorem answerFirst_length (reply : Reply) (queue : List Entry) :
    (answerFirst reply queue).length = queue.length := by
  induction queue with
  | nil => rfl
  | cons e rest ih =>
    simp only [answerFirst]
    split <;> simp [ih]

end Sys2Proof.Machine
end

