-- ==== Sys2Proof/Laws/Control.lean ====
section
/-! SUPPORT. The control port: what a notice, the bytes of the line and the transmitter's choice do to the lengths of the
port's queues, and what the bytes of the line can change. -/

namespace Sys2Proof.Machine

/-! ### Notices (R199, R200) -/

/-- A notice never takes the queue beyond 32 (R200). -/
theorem queueNotice_length {c : Control} (h : c.notices.length ≤ 32) (n : Notice) :
    (queueNotice n c).notices.length ≤ 32 := by
  have join : (queueNotice.joinNotices n c).notices.length ≤ 32 := by
    unfold queueNotice.joinNotices
    split
    · simp only [List.length_append, List.length_singleton]
      omega
    · split
      · rename_i hm
        obtain ⟨m, mem, hm⟩ := List.any_eq_true.mp hm
        have shorter := List.length_eraseP_of_mem (p := fun n : Notice => isMeter n.body) mem hm
        have pos := List.length_pos_of_mem mem
        simp only [List.length_append, List.length_singleton]
        omega
      · exact h
  unfold queueNotice
  repeat' split
  · exact h
  · simpa [replaceMeter] using h
  · exact join
  · exact join

/-! ### The transmitter's choice (R197) -/

/-- The choice never lengthens a queue, and keeps the entries of the request queue. -/
theorem chooseLineFrame_lengths (c : Control) :
    (chooseLineFrame c).queue.length = c.queue.length ∧ (chooseLineFrame c).busy.length ≤ c.busy.length
      ∧ (chooseLineFrame c).notices.length ≤ c.notices.length := by
  unfold chooseLineFrame
  split
  · exact ⟨rfl, le_rfl, le_rfl⟩
  · split
    · rename_i e
      simp [e]
    · split
      · rename_i e
        simp [e]
      · split
        · rename_i e
          simp [e]
        · exact ⟨rfl, le_rfl, le_rfl⟩

/-- All that the choice can change. -/
theorem chooseLineFrame_frame (c : Control) :
    chooseLineFrame c = { c with
      queue := (chooseLineFrame c).queue
      busy := (chooseLineFrame c).busy
      transmitter := (chooseLineFrame c).transmitter
      notices := (chooseLineFrame c).notices } := by
  unfold chooseLineFrame
  repeat' split
  all_goals rfl

/-! ### Bytes from the line (R194, R195) -/

/-- All that an arrival can change: the request queue, the BUSY list, and the flag and count of lost requests. -/
theorem arrive_frame (kind tag : Byte) (body : List Byte) (c : Control) :
    arrive kind tag body c = { c with
      queue := (arrive kind tag body c).queue
      busy := (arrive kind tag body c).busy
      requestLost := (arrive kind tag body c).requestLost
      requestsLost := (arrive kind tag body c).requestsLost } := by
  unfold arrive arrive.busyReply
  repeat' split
  all_goals rfl

/-- An arrival never takes the queue beyond four, nor the BUSY list beyond eight (R195). -/
theorem arrive_lengths {c : Control} (hq : c.queue.length ≤ 4) (hb : c.busy.length ≤ 8) (kind tag : Byte)
    (body : List Byte) :
    (arrive kind tag body c).queue.length ≤ 4 ∧ (arrive kind tag body c).busy.length ≤ 8 := by
  unfold arrive arrive.busyReply
  repeat' split
  · exact ⟨hq, hb⟩
  · simp only [List.length_append, List.length_singleton]
    omega
  · simp only [List.length_append, List.length_singleton]
    omega
  · exact ⟨hq, hb⟩

/-- All that bytes from the line can change. -/
theorem receiveBytes_frame (n : Nat) (bytes : List Byte) (c : Control) :
    receiveBytes n bytes c = { c with
      receiver := (receiveBytes n bytes c).receiver
      queue := (receiveBytes n bytes c).queue
      busy := (receiveBytes n bytes c).busy
      frameError := (receiveBytes n bytes c).frameError
      requestLost := (receiveBytes n bytes c).requestLost
      framesDiscarded := (receiveBytes n bytes c).framesDiscarded
      requestsLost := (receiveBytes n bytes c).requestsLost } := by
  induction n generalizing bytes c with
  | zero => rfl
  | succ n ih =>
    unfold receiveBytes
    split
    · rfl
    · simp only
      repeat' split
      all_goals first
        | rfl
        | exact Eq.trans (ih _ _) rfl
        | (refine Eq.trans (ih _ _) ?_; rw [arrive_frame])

/-- Bytes from the line never take the queue beyond four, nor the BUSY list beyond eight. -/
theorem receiveBytes_lengths {n : Nat} {bytes : List Byte} {c : Control} (hq : c.queue.length ≤ 4)
    (hb : c.busy.length ≤ 8) :
    (receiveBytes n bytes c).queue.length ≤ 4 ∧ (receiveBytes n bytes c).busy.length ≤ 8 := by
  induction n generalizing bytes c with
  | zero => exact ⟨hq, hb⟩
  | succ n ih =>
    unfold receiveBytes
    split
    · exact ⟨hq, hb⟩
    · simp only
      repeat' split
      all_goals first
        | exact ⟨hq, hb⟩
        | exact ih hq hb
        | exact ih (arrive_lengths hq hb _ _ _).1 (arrive_lengths hq hb _ _ _).2

end Sys2Proof.Machine
end

