-- ==== Sys2Proof/Laws/Events.lean ====
section
/-! SUPPORT. The picture a port holds when one has arrived whole (R14). -/

namespace Sys2Proof.Machine

theorem planeOf_size (lines columns : Nat) (sample : Nat → Nat → Pixel) :
    planeHasSize (planeOf lines columns sample) lines columns = true := by
  simp [planeHasSize, planeOf]

@[simp] theorem receivedPicture_of_wellFormed {picture : Picture} (h : picture.wellFormed = true) (now : Time)
    (port : Fin 8) : receivedPicture now port picture = picture := by
  simp [receivedPicture, h]

@[simp] theorem receivedPicture_format (now : Time) (port : Fin 8) (picture : Picture) :
    (receivedPicture now port picture).format = picture.format := by
  unfold receivedPicture
  split <;> rfl

/-- The planes of the picture a port holds have the size of its format. -/
theorem receivedPicture_wellFormed (now : Time) (port : Fin 8) (picture : Picture) :
    (receivedPicture now port picture).wellFormed = true := by
  unfold receivedPicture
  split
  · assumption
  · simp [Picture.wellFormed, planeOf_size]

end Sys2Proof.Machine
end

