-- ==== Sys2Proof/Laws/Mixer.lean ====
section
/-! SUPPORT. The Audio Mixer: the limits of its arithmetic, and what each stage of an audio block tick can change. -/

namespace Sys2Proof.Machine

/-! ### Arithmetic (R127) -/

theorem sat24_low (x : Int) : -8388608 ≤ sat24 x := by
  unfold sat24
  omega

theorem sat24_high (x : Int) : sat24 x ≤ 8388607 := by
  unfold sat24
  omega

/-- A value within 24 bits is left as it is. -/
theorem sat24_of_within {x : Int} (h : -8388608 ≤ x) (h' : x ≤ 8388607) : sat24 x = x := by
  unfold sat24
  omega

/-- The rounding as R127 writes it, with an arithmetic shift right. -/
theorem round14_eq_shift (x : Int) : round14 x = (x + 8192) >>> (14 : Nat) := by
  rw [Int.shiftRight_eq_div_pow]
  rfl

/-- The whole level 16384 leaves a value as it is. -/
theorem round14_unity (x : Int) : round14 (x * 16384) = x := by
  unfold round14
  omega

/-- A sample holds a saturated value without loss. -/
theorem toInt_ofInt_sat24 (x : Int) : (BitVec.ofInt 24 (sat24 x)).toInt = sat24 x := by
  rw [BitVec.toInt_ofInt]
  have low := sat24_low x
  have high := sat24_high x
  rw [Int.bmod_def]
  omega

/-! ### What a block tick can reach -/

/-- The second state is the first but for what an audio block tick can reach: the block number and its time, the mixer,
the allocation record, the audio queue with its count of late frames, and notices. -/
def MixSide (s t : State) : Prop :=
  t = { s with
    timing := { s.timing with blockNumber := t.timing.blockNumber, lastBlock := t.timing.lastBlock }
    mixer := t.mixer
    alloc := t.alloc
    sched := { s.sched with audioQueue := t.sched.audioQueue, audioLate := t.sched.audioLate }
    control := s.control.noticed t.control }

namespace MixSide

variable {s t u : State}

theorem refl (s : State) : MixSide s s := rfl

theorem trans (h : MixSide s t) (h' : MixSide t u) : MixSide s u :=
  Eq.trans (id h') (by rw [id h])

theorem of_alloc (h : AllocOnly s t) : MixSide s t :=
  Eq.trans (id h) (by rw [id h])

theorem raise {body : NoticeBody} (s : State) (h : protocolPath body = none) : MixSide s (Machine.raise body s) :=
  .of_alloc (.raise s h)

theorem modMixer (f : Mixer → Mixer) (s : State) : MixSide s (s.modMixer f) := rfl

theorem foldl {α : Type} (f : State → α → State) (h : ∀ s a, MixSide s (f s a)) (l : List α) (s : State) :
    MixSide s (l.foldl f s) := by
  induction l generalizing s with
  | nil => exact refl s
  | cons a rest ih => exact (h s a).trans (ih _)

end MixSide

theorem takeScene_only (slot : Fin 16) (length : Nat) (scene : Scene) (s : State) :
    MixSide s (takeScene slot length scene s) := by
  unfold takeScene
  exact .trans (.modMixer _ s) (.raise _ rfl)

/-- All that one change of the change list can change (R129). -/
theorem applyChange_only (s : State) (change : Change) : MixSide s (applyChange s change) := by
  cases change with
  | recallScene slot length scene => exact takeScene_only _ _ _ _
  | _ => rfl

theorem applyChanges_only (due : Nat) (s : State) : MixSide s (applyChanges due s) :=
  .trans (.modMixer _ s) (.foldl _ applyChange_only _ _)

theorem finishRecall_only (s : State) : MixSide s (finishRecall s) := by
  unfold finishRecall
  repeat' split
  · exact .trans (.modMixer _ s) (.raise _ rfl)
  all_goals exact .refl s

theorem stepRamps_only (s : State) : MixSide s (stepRamps s) :=
  .trans (.modMixer _ s) (finishRecall_only _)

theorem reportStreams_only (count : Nat) (s : State) : AllocOnly s (reportStreams count s) :=
  .trans (t := s.modAlloc _) rfl (recompute_only _ _)

/-- All that the take of a stream's setting can change (R142). -/
theorem takeStream_only (s : State) (i : Fin 4) : MixSide s (takeStream s i) := by
  unfold takeStream
  simp only
  split
  · exact .refl s
  · split
    · exact .refl s
    · split
      · exact .trans (.modMixer _ s) (.raise _ rfl)
      · refine .trans ?_ (.of_alloc (reportStreams_only _ _))
        exact .trans (.modMixer _ s) (.raise _ rfl)

theorem emptySilent_only (s : State) : MixSide s (emptySilent s) := .modMixer _ s

theorem drainQueues_only (s : State) : MixSide s (drainQueues s) := .modMixer _ s

theorem tickReturn_only (s : State) (i : Fin 2) : MixSide s (tickReturn s i) := by
  unfold tickReturn
  simp only
  split
  · exact .trans (.modMixer _ s) (.raise _ rfl)
  · exact .modMixer _ s

/-- All that the end of a meter period can change (R135). -/
theorem endMeterPeriod_only (s : State) : MixSide s (endMeterPeriod s) := by
  unfold endMeterPeriod
  split
  · exact .refl s
  · exact .trans (.foldl _ (fun _ _ => .raise _ rfl) _ s) (.modMixer _ _)

theorem reportAudioLate_only (f : AudioFrame) (s : State) : MixSide s (reportAudioLate f s) :=
  .trans (t := s.modSched fun sc => { sc with audioLate := sc.audioLate + 1 }) rfl (.raise _ rfl)

/-- All that the joining of the audio queue can change (R176). -/
theorem joinAudio_only (f : AudioFrame) (s : State) : MixSide s (joinAudio f s) := by
  unfold joinAudio
  repeat' split
  · rename_i rest _ _
    exact .trans (t := s.modSched fun sc => { sc with audioQueue := rest ++ [f] }) rfl (reportAudioLate_only _ _)
  · rfl
  · rfl

theorem feedStream_only (outputs : Vector (List Sample) 12) (s : State) (i : Fin 4) :
    MixSide s (feedStream outputs s i) := by
  unfold feedStream
  split
  · exact .refl s
  · simp only
    split
    · exact .trans (.modMixer _ s) (joinAudio_only _ _)
    · exact .modMixer _ s

theorem mixBlock_only (inputs : Vector (List Int) 32) (s : State) : MixSide s (mixBlock inputs s) := by
  unfold mixBlock
  refine .trans ?_ (.foldl _ (feedStream_only _) _ _)
  refine .trans ?_ (.modMixer _ _)
  exact .trans (.modMixer _ s) (endMeterPeriod_only _)

/-- All that an audio block tick can change at the mixer (R4, R128). -/
theorem blockTick_only (due : Nat) (s : State) : MixSide s (blockTick due s) := by
  unfold blockTick
  refine .trans ?_ (mixBlock_only _ _)
  refine .trans ?_ (.foldl _ tickReturn_only _ _)
  refine .trans ?_ (drainQueues_only _)
  refine .trans ?_ (emptySilent_only _)
  refine .trans ?_ (.foldl _ takeStream_only _ _)
  refine .trans ?_ (stepRamps_only _)
  refine .trans ?_ (applyChanges_only _ _)
  rfl

/-! ### Return frames (R137, R138) -/

/-- The second state is the first but for the return buffers, notices, and the warnings of paths. -/
def ReturnSide (s t : State) : Prop :=
  t = { s with
    mixer := { s.mixer with returns := t.mixer.returns }
    paths := t.paths
    control := s.control.noticed t.control }

namespace ReturnSide

variable {s t u : State}

theorem refl (s : State) : ReturnSide s s := rfl

theorem trans (h : ReturnSide s t) (h' : ReturnSide t u) : ReturnSide s u :=
  Eq.trans (id h') (by rw [id h])

theorem raise (body : NoticeBody) (s : State) : ReturnSide s (Machine.raise body s) := by
  rw [ReturnSide, raise_only_any s body]

theorem modReturn (i : Fin 2) (f : ReturnBuffer → ReturnBuffer) (s : State) : ReturnSide s (s.modReturn i f) := rfl

end ReturnSide

theorem primeReturn_only (i : Fin 2) (s : State) : ReturnSide s (primeReturn i s) := by
  unfold primeReturn
  simp only
  split
  · exact .trans (.modReturn i _ s) (.raise _ _)
  · exact .refl s

theorem checkReturnSequence_only (i : Fin 2) (sequence : Seq) (firstBlock : Counter) (head : Timecode) (s : State) :
    ReturnSide s (checkReturnSequence i sequence firstBlock head s) := by
  unfold checkReturnSequence
  simp only
  repeat' split
  · exact .modReturn i _ s
  · exact .modReturn i _ s
  · exact .trans (.trans (.modReturn i _ s) (.modReturn i _ _)) (.raise _ _)

theorem makeReturnRoom_only (i : Fin 2) (s : State) : ReturnSide s (makeReturnRoom i s) := by
  unfold makeReturnRoom
  simp only
  split
  · exact .refl s
  · exact .trans (.modReturn i _ s) (.raise _ _)

/-- All that a return frame can change. -/
theorem returnFrame_only (path : Fin 4) (stream : Byte) (sequence : Seq) (payload : List Byte) (s : State) :
    ReturnSide s (returnFrame path stream sequence payload s) := by
  unfold returnFrame
  repeat' split
  · exact .raise _ s
  · exact .raise _ s
  · refine .trans ?_ (primeReturn_only _ _)
    refine .trans ?_ (.modReturn _ _ _)
    exact .trans (checkReturnSequence_only _ _ _ _ s) (makeReturnRoom_only _ _)

end Sys2Proof.Machine
end

