-- ==== Sys2Proof/Laws/Scheduler.lean ====
section
/-! SUPPORT. The Send Scheduler: what the start of a frame does to its path, and what each step of the clip class and each
choice can change. -/

namespace Sys2Proof.Machine

/-! ### A new frame on a path (R153, R154) -/

section newFrame

variable (contents : FrameContents) (owner : Owner) (now : Time) (path : Path)

/-- All that a tail can change of its path: the transmitter and the credit it returns (R154, R172). -/
theorem fillTail_frame (sendPointer : Pointer) (poisoned : Bool) (entry : Option Pointer) :
    fillTail contents sendPointer poisoned entry now path =
      { path with
        transmitter := (fillTail contents sendPointer poisoned entry now path).transmitter
        unreturned := (fillTail contents sendPointer poisoned entry now path).unreturned
        creditTimer := (fillTail contents sendPointer poisoned entry now path).creditTimer
        creditFired := false } := rfl

theorem startNew_credit : (startNew contents owner now path).credit = path.credit - contents.cells := rfl
theorem startNew_allowance : (startNew contents owner now path).allowance = path.allowance - contents.cells := rfl
theorem startNew_state : (startNew contents owner now path).state = path.state := rfl
theorem startNew_ceiling : (startNew contents owner now path).ceiling = path.ceiling := rfl
theorem startNew_acked : (startNew contents owner now path).acked = path.acked := rfl
theorem startNew_sendPointer :
    (startNew contents owner now path).sendPointer = path.sendPointer + BitVec.ofNat 9 contents.cells := rfl
theorem startNew_retry : (startNew contents owner now path).retry =
    path.retry ++ [⟨path.sendPointer, owner, false, now, contents⟩] := rfl
theorem startNew_transmitter : ∃ tail,
    (startNew contents owner now path).transmitter = some ⟨contents, tail, some path.sendPointer⟩ := ⟨_, rfl⟩

theorem cellsHeld_append (a b : List RetryEntry) : cellsHeld (a ++ b) = cellsHeld a + cellsHeld b := by
  simp [cellsHeld]

theorem cellsHeld_startNew : cellsHeld (startNew contents owner now path).retry = cellsHeld path.retry + contents.cells := by
  rw [startNew_retry, cellsHeld_append]
  simp [cellsHeld]

/-- What it is for a path to take a new frame (R152, R153). -/
theorem takes_iff {cells : Nat} : path.takes cells = true ↔
    path.state = .carry ∧ path.transmitter = none ∧ path.control = [] ∧ cells ≤ path.credit
      ∧ cellsHeld path.retry + cells ≤ 511 ∧ cells ≤ path.allowance := by
  simp [Path.takes, Path.free, and_assoc]

end newFrame

/-- The path that is chosen takes the frame (R181). -/
theorem bestPath_takes {s : State} {cells : Nat} {p : Fin 4} (h : s.bestPath cells = some p) :
    s.paths[p].takes cells = true := by
  have fold : ∀ (l : List (Fin 4)) (start : Option (Fin 4)), (∀ q ∈ l, s.paths[q].takes cells = true) →
      (∀ q, start = some q → s.paths[q].takes cells = true) → ∀ q,
      l.foldl (fun best p => match best with
        | none => some p
        | some q => if s.paths[q].allowance < s.paths[p].allowance then some p else some q) start = some q →
      s.paths[q].takes cells = true := by
    intro l
    induction l with
    | nil => exact fun start _ hs q hq => hs q hq
    | cons a rest ih =>
      intro start hl hs q hq
      refine ih _ (fun q hq => hl q (List.mem_cons_of_mem _ hq)) ?_ q hq
      intro r hr
      have ha := hl a (List.mem_cons_self ..)
      simp only at hr
      split at hr
      · cases hr
        exact ha
      · split at hr
        · cases hr
          exact ha
        · cases hr
          exact hs _ rfl
  refine fold _ none ?_ (fun _ h => nomatch h) p h
  intro q hq
  exact (List.mem_filter.mp hq).2

/-! ### The clip class (R182 to R189) -/

theorem modCursor_only (id : Nat) (f : Cursor → Cursor) (s : State) : SendSide s (s.modCursor id f) := .modClip _ _ _

theorem setWaiting_only (waiting : Bool) (s : State) : SendSide s (setWaiting waiting s) := .modSched _ _

theorem lendTo_only (lender : Nat) (s : State) : SendSide s (lendTo lender s) := by
  unfold lendTo
  exact .modSched _ _

theorem boundaryChecks_only {c : Clip} {s t : State} (h : boundaryChecks c s = some t) : SendSide s t := by
  unfold boundaryChecks at h
  repeat' split at h
  all_goals cases h
  all_goals exact setSend_sendSide _ _ _ _

theorem boundaryChecks_getD_only (c : Clip) {s t : State} (h : SendSide s t) (u : State) (hu : SendSide s u) :
    SendSide s ((boundaryChecks c t).getD u) := by
  cases e : boundaryChecks c t with
  | none => exact hu
  | some v => exact h.trans (boundaryChecks_only e)

theorem passBoundary_only (id : Nat) (s : State) : SendSide s (passBoundary id s) := by
  unfold passBoundary
  split
  · exact .refl s
  · exact modCursor_only _ _ _

theorem reachEnd_only (c : Clip) (k : Cursor) (s : State) : SendSide s (reachEnd c k s) := by
  unfold reachEnd
  repeat' split
  · exact passBoundary_only _ _
  all_goals exact .refl s

theorem endLoan_only (s : State) : SendSide s (endLoan s) := .modSched _ _

theorem reviewLoan_only (l : Loan) (b : Clip) (s : State) : SendSide s (reviewLoan l b s) := by
  unfold reviewLoan
  repeat' split
  · exact .modSched _ _
  · exact lendTo_only _ _
  · exact passBoundary_only _ _

theorem loanStep_only {l : Loan} {s t : State} (h : loanStep l s = some t) : SendSide s t := by
  unfold loanStep at h
  repeat' split at h
  all_goals cases h
  all_goals first
    | exact lendTo_only _ _
    | exact (reachEnd_only _ _ _).trans (reviewLoan_only _ _ _)
    | exact reviewLoan_only _ _ _
    | exact modCursor_only _ _ _
    | exact endLoan_only _

theorem sendingStep_only {c : Clip} {s t : State} (h : sendingStep c s = some t) : SendSide s t := by
  unfold sendingStep at h
  simp only at h
  repeat' split at h
  all_goals cases h
  all_goals first
    | exact setWaiting_only _ _
    | exact modCursor_only _ _ _
    | exact lendTo_only _ _
    | exact boundaryChecks_getD_only _ ((setWaiting_only _ _).trans (reachEnd_only _ _ _)) _
        (((setWaiting_only _ _).trans (reachEnd_only _ _ _)).trans (passBoundary_only _ _))
    | exact boundaryChecks_getD_only _ (.refl _) _ (setWaiting_only _ _)

/-- All that one step of the clip class can change. -/
theorem clipStep_only {s t : State} (h : clipStep s = some t) : SendSide s t := by
  unfold clipStep at h
  split at h
  · split at h
    · cases h
      exact (setWaiting_only _ _).trans (setSend_sendSide _ _ _ _)
    · cases e : s.sched.loan with
      | none => simp [e] at h
      | some l => exact loanStep_only (l := l) (by simpa [e] using h)
  · split at h
    · exact loanStep_only h
    · exact sendingStep_only h

/-! ### Choices (R180, R181) -/

theorem startAudio_only (p : Fin 4) (f : AudioFrame) (s : State) : SendSide s (startAudio p f s) :=
  (SendSide.modPath _ _ s).trans (.modSched _ _)

theorem startVideo_only (p : Fin 4) (c : Fin 6) (picture : LivePicture) (f : FrameContents) (s : State) :
    SendSide s (startVideo p c picture f s) := by
  unfold startVideo
  exact .trans (.trans (.modPath _ _ s) (.modCoder c _ _ fun _ => rfl)) (.modSched _ _)

/-- All that the start of an item changes at its clip. -/
theorem emitted_only (p : Fin 4) (start : Pointer) (c : Clip) (k : Cursor) (offer : ClipOffer) (s : State) :
    SendSide s (emitted p start c k offer s) := by
  unfold emitted
  simp only
  split
  · exact (modCursor_only _ _ s).trans (freeClip_sendSide _ _)
  · exact (modCursor_only _ _ s).trans (modCursor_only _ _ _)
  · exact (modCursor_only _ _ s).trans (modCursor_only _ _ _)
  · exact .trans (.trans (modCursor_only _ _ s) (.modClip _ _ _)) (modCursor_only _ _ _)
  · exact (modCursor_only _ _ s).trans (modCursor_only _ _ _)
  · exact .trans (.trans (modCursor_only _ _ s) (.modClip _ _ _)) (modCursor_only _ _ _)
  · exact .trans (.trans (modCursor_only _ _ s) (modCursor_only _ _ _)) (.modSched _ _)
  · exact (modCursor_only _ _ s).trans (modCursor_only _ _ _)
  · exact .trans (.trans (modCursor_only _ _ s) (.modClip _ _ _)) (setSend_sendSide _ _ _ _)

theorem startClip_only (p : Fin 4) (c : Clip) (k : Cursor) (offer : ClipOffer) (s : State) :
    SendSide s (startClip p c k offer s) :=
  .trans (.trans (.modPath _ _ s) (.modSched _ _)) (emitted_only _ _ _ _ _ _)

theorem chooseAudio_only {s t : State} (h : chooseAudio s = some t) : SendSide s t := by
  unfold chooseAudio at h
  split at h
  · exact nomatch h
  · obtain ⟨p, -, rfl⟩ := Option.map_eq_some_iff.mp h
    exact startAudio_only _ _ _

theorem chooseVideo_only {within : Bool} {s t : State} {c : Fin 6} (h : chooseVideo within s c = some t) :
    SendSide s t := by
  unfold chooseVideo at h
  split at h
  · cases h
  · split at h
    · cases h
    · obtain ⟨p, -, rfl⟩ := Option.map_eq_some_iff.mp h
      exact startVideo_only _ _ _ _ _

theorem chooseClip_only {within : Bool} {s t : State} (h : chooseClip within s = some t) : SendSide s t := by
  unfold chooseClip at h
  split at h
  · cases h
  · simp only at h
    split at h
    · cases h
    · obtain ⟨p, -, rfl⟩ := Option.map_eq_some_iff.mp h
      exact startClip_only _ _ _ _ _

/-- All that one choice can change (R180). -/
theorem chooseFrame_only {s t : State} (h : chooseFrame s = some t) : SendSide s t := by
  have video : ∀ within, (List.finRange 6).findSome? (chooseVideo within s) = some t → SendSide s t := by
    intro within h
    obtain ⟨c, -, hc⟩ := List.exists_of_findSome?_eq_some h
    exact chooseVideo_only hc
  simp only [chooseFrame, Option.orElse_eq_orElse, Option.orElse_eq_or, Option.or_eq_some_iff] at h
  rcases h with h | ⟨-, h | ⟨-, h | ⟨-, h | ⟨-, h⟩⟩⟩⟩
  · exact chooseAudio_only h
  · exact video _ h
  · exact chooseClip_only h
  · exact video _ h
  · exact chooseClip_only h

/-! ### The tick (R175, R176, R178) -/

/-- All that the drop of pictures at their deadline can change (R178). -/
theorem pictureExpiry_only (c : Fin 6) (s : State) : SendSide s (pictureExpiry c s) := by
  have loop : ∀ n (s : State), SendSide s (expirePictures c n s) := by
    intro n
    induction n with
    | zero => exact fun s => .refl s
    | succ n ih =>
      intro s
      rw [expirePictures]
      simp only
      split
      · exact .refl s
      · exact .trans (.trans (.trans (dropLive_only _ _ _) (.modSched _ _)) (.raise _ _)) (ih _)
  exact loop _ _

end Sys2Proof.Machine
end

