-- ==== Sys2Proof/Laws/Receive.lean ====
section
/-! SUPPORT. The Path Controller's receive side: what each check and each field of a frame from home can change. -/

namespace Sys2Proof.Machine

/-- The mixer takes no part in what sending can reach. -/
theorem SendSide.with_mixer {s t : State} (h : SendSide s t) (m : Mixer) :
    SendSide { s with mixer := m } { t with mixer := m } :=
  ⟨congrArg (fun u : State => { u with mixer := m }) h.state, h.coder⟩

/-- The second state is the first but for what sending can reach and the return buffers of the mixer. -/
structure HomeSide (s t : State) : Prop where
  send : SendSide s { t with mixer := s.mixer }
  mixer : t.mixer = { s.mixer with returns := t.mixer.returns }

namespace HomeSide

variable {s t u : State}

theorem of_send (h : SendSide s t) : HomeSide s t := by
  have m : t.mixer = s.mixer := by
    rw [h.state]
  refine ⟨?_, by rw [m]⟩
  rw [← m]
  exact h

theorem of_return (h : ReturnSide s t) : HomeSide s t := by
  rw [ReturnSide] at h
  refine ⟨⟨?_, fun c => ?_⟩, ?_⟩ <;> rw [h]

theorem refl (s : State) : HomeSide s s := .of_send (.refl s)

theorem trans (h : HomeSide s t) (h' : HomeSide t u) : HomeSide s u :=
  ⟨h.send.trans (h'.send.with_mixer s.mixer), Eq.trans h'.mixer (by rw [h.mixer])⟩

end HomeSide

/-! ### Credit, acknowledgement and retry requests (R156, R157, R159) -/

theorem takeCredit_only (p : Fin 4) (returned : Nat) (s : State) : SendSide s (takeCredit p returned s) := by
  unfold takeCredit
  simp only
  split
  · exact .trans (.modPath _ _ s) (.raise _ _)
  · exact .modPath _ _ s

/-- A credit return never lifts the credit above the ceiling. -/
theorem takeCredit_credit (p : Fin 4) (returned : Nat) (s : State) :
    ((takeCredit p returned s).paths[p]).credit ≤ (s.paths[p]).ceiling := by
  unfold takeCredit
  simp only
  split
  · rw [raise_of_protocol (p := p) _ rfl]
    simp
  · rename_i h
    simpa using h

theorem takeAck_only (p : Fin 4) (pointer : Nat) (s : State) : SendSide s (takeAck p pointer s) := by
  unfold takeAck
  simp only
  repeat' split
  · exact .raise _ s
  · exact .refl s
  · exact .raise _ s
  · exact .trans (.modPath _ _ s) (settleStates_only _ _)

theorem testRetry_only (p : Fin 4) (requested : Bool) (s : State) : SendSide s (testRetry p requested s) := by
  unfold testRetry
  refine .trans ?_ (.modPath _ _ _)
  split
  · exact triggerRetry_only _ _ _
  · exact .refl s

theorem takeCells_only (p : Fin 4) (cells : Nat) (s : State) : SendSide s (takeCells p cells s) := by
  unfold takeCells
  simp only
  split
  · exact .trans (.modPath _ _ s) (queueControl_only _ _ _)
  · exact .modPath _ _ s

/-- All that the fields of a frame can change (R169, steps 1 to 3). -/
theorem takeFields_only (p : Fin 4) (f : HomeFrame) (s : State) : SendSide s (takeFields p f s) :=
  .trans (.trans (takeCredit_only _ _ s) (takeAck_only _ _ _)) (testRetry_only _ _ _)

/-- The entries that a pointer frees make up its cells exactly (R157). -/
theorem cellsHeld_take_entriesFor {cells count : Nat} {retry : List RetryEntry} (h : entriesFor cells retry = some count) :
    cellsHeld (retry.take count) = cells := by
  induction cells, retry using entriesFor.induct generalizing count with
  | case1 _ =>
    simp only [entriesFor, Option.some.injEq] at h
    subst h
    rfl
  | case2 n => simp [entriesFor] at h
  | case3 n e rest hlt => simp [entriesFor, hlt] at h
  | case4 n e rest hlt ih =>
    simp only [entriesFor, hlt, if_false, Option.map_eq_some_iff] at h
    obtain ⟨k, hk, rfl⟩ := h
    have := ih hk
    simp only [cellsHeld, List.take_succ_cons, List.map_cons, List.sum_cons] at this ⊢
    omega

/-! ### Bad frames (R166, R167) -/

theorem rejectFrame_only (p : Fin 4) (s : State) : SendSide s (rejectFrame p s) := .modPath _ _ s

theorem askRetry_only (p : Fin 4) (s : State) : SendSide s (askRetry p s) :=
  .trans (.modPath _ _ s) (queueControl_only _ _ _)

/-- All that a bad frame can change (R166). -/
theorem badFrame_only (p : Fin 4) (cause : ReceiveCause) (s : State) : SendSide s (badFrame p cause s) := by
  unfold badFrame
  refine .trans ?_ (.raise _ _)
  refine .trans ?_ (askRetry_only _ _)
  exact .trans (rejectFrame_only _ s) (.modPath _ _ _)

/-- All that a frame can change while the receive-error flag is set (R167). -/
theorem receiveInError_only (p : Fin 4) (f : HomeFrame) (s : State) : SendSide s (receiveInError p f s) := by
  unfold receiveInError
  simp only
  split
  · exact rejectFrame_only _ _
  · split
    · exact .trans (.trans (.trans (.modPath _ _ s) (takeCredit_only _ _ _)) (takeAck_only _ _ _)) (testRetry_only _ _ _)
    · refine .trans (.trans ?_ (takeAck_only _ _ _)) (testRetry_only _ _ _)
      split
      · exact .trans (rejectFrame_only _ s) (takeCredit_only _ _ _)
      · exact rejectFrame_only _ s

/-! ### Dispatch (R170, R171) -/

theorem takeQueueNumber_only (id : Nat) (s : State) : SendSide s (takeQueueNumber id s) := ⟨rfl, fun _ => rfl⟩

theorem endWait_only (id : Nat) (cause : SendCause) (s : State) : SendSide s (endWait id cause s) := by
  unfold endWait
  split
  · exact .refl s
  · split
    · exact .trans (.modClip _ _ s) (setSend_sendSide _ _ _ _)
    · refine .trans ?_ (setSend_sendSide _ _ _ _)
      refine .trans ?_ (takeQueueNumber_only _ _)
      exact .modClip _ _ s

/-- All that a confirm from home can change (R114). -/
theorem confirmClip_only (path : Fin 4) (id : Nat) (digest : Digest) (s : State) :
    SendSide s (confirmClip path id digest s) := by
  unfold confirmClip
  repeat' split
  · exact .raise _ s
  · exact .raise _ s
  · exact .trans (.modClip _ _ s) (setSend_sendSide _ _ _ _)
  · exact endWait_only _ _ _

theorem dispatchSequenced_only (p : Fin 4) (f : HomeFrame) (s : State) : HomeSide s (dispatchSequenced p f s) := by
  unfold dispatchSequenced
  repeat' split
  · exact .of_return (returnFrame_only _ _ _ _ _)
  · exact .of_send (confirmClip_only _ _ _ _)
  · exact .of_send (.raise _ _)
  · exact .of_send (.raise _ _)

theorem homeClose_only (p : Fin 4) (s : State) : SendSide s (homeClose p s) := by
  unfold homeClose
  split
  · exact changeState_only _ _ _ _ _
  · exact .modPath _ _ _
  all_goals exact .refl s

theorem dispatchControl_only (p : Fin 4) (f : HomeFrame) (s : State) : SendSide s (dispatchControl p f s) := by
  unfold dispatchControl
  repeat' split
  · exact homeClose_only _ _
  all_goals first
    | exact .raise _ _
    | exact .refl s

/-! ### Frames (R151, R164, R165) -/

theorem receiveInProbe_only (p : Fin 4) (f : HomeFrame) (s : State) : SendSide s (receiveInProbe p f s) := by
  unfold receiveInProbe
  simp only
  repeat' split
  · exact .refl s
  · exact .raise _ s
  · exact .trans (.modPath _ _ s) (changeState_only _ _ _ _ _)

/-- All that a frame can change with the receive-error flag clear (R165, R169). -/
theorem receiveChecked_only (p : Fin 4) (f : HomeFrame) (s : State) : HomeSide s (receiveChecked p f s) := by
  unfold receiveChecked
  simp only
  repeat' split
  all_goals first
    | exact .of_send (badFrame_only _ _ _)
    | exact .of_send (.trans (takeFields_only _ _ s) (dispatchControl_only _ _ _))
    | exact .of_send (.trans (.trans (takeFields_only _ _ s) (takeCells_only _ _ _)) (.raise _ _))
    | exact .trans (.of_send (.trans (takeFields_only _ _ s) (takeCells_only _ _ _))) (dispatchSequenced_only _ _ _)

/-- All that a frame from home can change. -/
theorem receiveFrame_only (p : Fin 4) (f : HomeFrame) (s : State) : HomeSide s (receiveFrame p f s) := by
  have counted : ∀ u, HomeSide u (if u.paths[p].receiveError then receiveInError p f u else receiveChecked p f u) := by
    intro u
    split
    · exact .of_send (receiveInError_only _ _ _)
    · exact receiveChecked_only _ _ _
  unfold receiveFrame
  split
  · exact .refl s
  · exact .of_send (receiveInProbe_only _ _ _)
  all_goals exact .trans (.of_send (.modPath _ _ s)) (counted _)

/-- All that cells from home can change (R164, R165). -/
theorem receiveCells_only (p : Fin 4) (cells : List Byte) (s : State) : HomeSide s (receiveCells p cells s) := by
  have loop : ∀ n (s : State), HomeSide s (receiveLoop p n s) := by
    intro n
    induction n with
    | zero => exact fun s => .refl s
    | succ n ih =>
      intro s
      rw [receiveLoop]
      simp only
      generalize (if lengthsAgree s.paths[p].arriving = true then 32 * headCells s.paths[p].arriving else 32) = size
      split
      · exact .refl s
      · exact .trans (.trans (.of_send (.modPath _ _ _)) (receiveFrame_only _ _ _)) (ih _)
  unfold receiveCells
  split
  · exact .refl s
  · exact .trans (.of_send (.modPath _ _ _)) (loop _ _)

end Sys2Proof.Machine
end

