-- ==== Sys2Proof/Laws/Ticks.lean ====
section
/-! SUPPORT. The cue list and the picture tick: the order of cues, what the actions of cues can change, and what each agent
of a tick can change. -/

namespace Sys2Proof.Machine

/-! ### Sorting by a key (01, section 1.5) -/

theorem insertByKey_perm {α : Type} (key : α → Nat) (x : α) (l : List α) : (insertByKey key x l).Perm (x :: l) := by
  induction l with
  | nil => exact .refl _
  | cons y rest ih =>
    unfold insertByKey
    split
    · exact .refl _
    · exact (ih.cons y).trans (.swap x y rest)

theorem sortByKey_perm {α : Type} (key : α → Nat) (l : List α) : (sortByKey key l).Perm l := by
  induction l with
  | nil => exact .refl _
  | cons x rest ih => exact (insertByKey_perm key x _).trans (ih.cons x)

theorem mem_sortByKey {α : Type} (key : α → Nat) (l : List α) (x : α) : x ∈ sortByKey key l ↔ x ∈ l :=
  (sortByKey_perm key l).mem_iff

theorem insertByKey_sorted {α : Type} (key : α → Nat) (x : α) {l : List α}
    (h : l.Pairwise fun a b => key a ≤ key b) : (insertByKey key x l).Pairwise fun a b => key a ≤ key b := by
  induction l with
  | nil => exact List.pairwise_singleton _ _
  | cons y rest ih =>
    rw [List.pairwise_cons] at h
    unfold insertByKey
    split
    · rename_i hxy
      refine List.pairwise_cons.mpr ⟨fun z hz => ?_, List.pairwise_cons.mpr h⟩
      rcases List.mem_cons.mp hz with rfl | hz
      · exact hxy
      · exact hxy.trans (h.1 z hz)
    · rename_i hxy
      refine List.pairwise_cons.mpr ⟨fun z hz => ?_, ih h.2⟩
      rcases List.mem_cons.mp ((insertByKey_perm key x rest).mem_iff.mp hz) with rfl | hz
      · omega
      · exact h.1 z hz

/-- The items come in ascending order of keys. -/
theorem sortByKey_sorted {α : Type} (key : α → Nat) (l : List α) :
    (sortByKey key l).Pairwise fun a b => key a ≤ key b := by
  induction l with
  | nil => exact List.Pairwise.nil
  | cons x rest ih => exact insertByKey_sorted key x ih

/-! ### Actions of cues (R11) -/

/-- All that CODER_SET can change (R18). -/
theorem coderSet_only (due : Vector Staged 6) (body : List Byte) (s : State) :
    (coderSet due body s).2 = s
      ∨ ∃ (c : Fin 6) (staged : Staged), (coderSet due body s).2 = s.modCoder c fun k => { k with staged := staged } := by
  unfold coderSet
  split
  · exact .inl rfl
  · simp only
    repeat' split
    all_goals first
      | exact .inl rfl
      | exact .inr ⟨_, _, rfl⟩

/-- All that the joining of the change list can change (R129). -/
theorem joinChange_only (change : Change) (answer : State → Reply × State) (h : ∀ u, (answer u).2 = u) (s : State) :
    (joinChange change answer s).2 = s
      ∨ s.mixer.changes.length < 64
        ∧ (joinChange change answer s).2 = s.modMixer fun m => { m with changes := m.changes ++ [change] } := by
  unfold joinChange
  split
  · exact .inl rfl
  · exact .inr ⟨by omega, h _⟩

/-- All that SCENE_RECALL can change (R131). -/
theorem sceneRecall_only (body : List Byte) (s : State) :
    (sceneRecall body s).2 = s
      ∨ ∃ slot length scene, s.mixer.scenes[slot] = some scene
        ∧ (sceneRecall body s).2 =
          s.modMixer fun m => { m with changes := m.changes ++ [.recallScene slot length scene] } := by
  unfold sceneRecall
  split
  · exact .inl rfl
  · split
    · exact .inl rfl
    · rename_i slot _ _ scene e
      rcases joinChange_only (.recallScene slot (min 255 (field body 1 2)) scene) (answerAccepted .none) (fun _ => rfl) s with
        h | ⟨-, h⟩
      · exact .inl h
      · exact .inr ⟨slot, _, scene, e, h⟩

/-- The second state is the first but for what a change of the clip table can reach and the next clip id. -/
def OpenSide (s t : State) : Prop := ClipOnly { s with clipLog := { s.clipLog with nextId := t.clipLog.nextId } } t

namespace OpenSide

variable {s t u : State}

theorem of_clip (h : ClipOnly s t) : OpenSide s t := by
  rw [ClipOnly] at h
  rw [OpenSide, ClipOnly, h]

theorem refl (s : State) : OpenSide s s := .of_clip rfl

theorem trans (h : OpenSide s t) (h' : OpenSide t u) : OpenSide s u := by
  rw [OpenSide, ClipOnly] at *
  exact Eq.trans (id h') (by rw [id h])

end OpenSide

theorem createClip_only (slot : Nat) (c : Fin 6) (placed : PlacedIn) (origin : Origin) (s : State) :
    OpenSide s (createClip slot c placed origin s).2 := by
  unfold createClip answerOk
  simp only
  split
  · refine .trans ?_ (.of_clip (.raise _ rfl))
    refine .trans ?_ (.of_clip (.raise _ rfl))
    rfl
  · refine .trans ?_ (.of_clip (.raise _ rfl))
    rfl

/-- All that CLIP_OPEN can change (R94). -/
theorem clipOpen_only (origin : Origin) (body : List Byte) (s : State) : OpenSide s (clipOpen origin body s).2 := by
  unfold clipOpen
  simp only
  repeat' split
  all_goals first
    | exact .refl s
    | exact createClip_only _ _ _ _ _

theorem beginClose_only (c : Clip) (out : Timecode) (origin : Origin) (s : State) :
    ClipOnly s (beginClose c out origin s).2 := by
  unfold beginClose
  simp only
  split
  · exact .trans (modClip_only _ _ s) (modClip_only _ _ _)
  · exact .trans (modClip_only _ _ s) (closeInSegment_only _ _ _ _)
  · exact .trans (.trans (modClip_only _ _ s) (modClip_only _ _ _)) (closeInSegment_only _ _ _ _)
  · exact .trans (modClip_only _ _ s) (completeClose_only _ _ _ _)

/-- All that CLIP_CLOSE can change (R99). -/
theorem clipClose_only (origin : Origin) (body : List Byte) (s : State) : ClipOnly s (clipClose origin body s).2 := by
  unfold clipClose
  simp only
  repeat' split
  all_goals first
    | exact .refl s
    | exact beginClose_only _ _ _ _

/-- All that CLIP_MARK can change (R103). -/
theorem clipMark_only (body : List Byte) (s : State) : ClipOnly s (clipMark body s).2 := by
  unfold clipMark
  simp only
  repeat' split
  all_goals first
    | exact .refl s
    | exact modClip_only _ _ _

/-! ### The agents of a tick (R3, R6, R19) -/

/-- All that fixing the timecode can change (R3, R5, R6). -/
theorem takeTimecode_only (s : State) :
    takeTimecode s =
      { s with
        timing := { s.timing with
          timecode := (takeTimecode s).timing.timecode
          rate := s.timing.stagedRate.getD s.timing.rate
          stagedTimecode := none
          stagedRate := none
          lastTick := s.now }
        control := s.control.noticed (takeTimecode s).control } := by
  unfold takeTimecode
  simp only
  split
  · rw [raise_only _ rfl]
    rfl
  · rfl

/-- All that the take of a rate can change at the cue list (R6). -/
theorem takeRate_only (old : PictureRate) (s : State) :
    takeRate old s =
      { s with timing := { s.timing with cues := [] }, control := s.control.noticed (takeRate old s).control } := by
  unfold takeRate
  simp only
  rw [raise_only _ rfl, raise_only _ rfl]
  rfl

/-- A picture in progress at the scheduler's tick: all that the refill can change (R175). -/
theorem refill_only (s : State) : SendSide s (refill s) := ⟨rfl, fun _ => rfl⟩

theorem audioExpiry_only (s : State) : SendSide s (audioExpiry s) := by
  unfold audioExpiry
  refine .trans (.modSched _ s) (.foldl _ (fun u f => ?_) _ _)
  exact .trans (.modSched _ u) (.raise _ _)

/-- All that the scheduler's tick can change (R175, R176, R178). -/
theorem schedulerTick_only (s : State) : SendSide s (schedulerTick s) :=
  .trans (.trans (refill_only s) (audioExpiry_only _)) (.foldl _ (fun u c => pictureExpiry_only c u) _ _)

end Sys2Proof.Machine
end

