-- ==== Sys2Proof/Tests/Slice0.lean ====
section
/-! SUPPORT. Tests: terms that are not well formed, the worked examples of the spec, single steps of commands on small
states, and for each obligation with hypotheses a witness that they can be met. -/

namespace Sys2Proof.Machine.Tests

open Sys2Proof Sys2Proof.Machine

-- One theorem after the other: each kernel evaluation would else hold a thread of its own.
set_option Elab.async false

/-! ## Helpers -/

/-- A state with one request waiting. -/
def asking (s : State) (kind : RequestKind) (body : List Byte) : State :=
  { s with control := { s.control with queue := [⟨kindOfRequest kind, 1, body, .waiting⟩] } }

theorem kind_named (kind : RequestKind) : requestOfKind (kindOfRequest kind) = some kind := by cases kind <;> decide

theorem asking_asks (s : State) (kind : RequestKind) (body : List Byte) : (asking s kind body).asks kind body := by
  exact ⟨⟨kindOfRequest kind, 1, body, .waiting⟩, rfl, kind_named kind, rfl⟩

/-- A command answers a next state with a property. -/
def leaves (c : Instr) (s : State) (p : State → Bool) : Bool :=
  match exec c s with
  | .next t => p t
  | .fault _ | .refused _ => false

/-- The reply that the control port's transmitter takes at a request's execution. -/
def reply (c : Instr) (s : State) (r : Reply) : Bool :=
  leaves c s fun t => match t.control.transmitter with
    | some (.reply _ _ given) => given == r
    | _ => false

/-- The result code of that reply. -/
def code (c : Instr) (s : State) (r : ResultCode) : Bool :=
  leaves c s fun t => match t.control.transmitter with
    | some (.reply _ _ given) => given.code == r
    | _ => false

/-! ## Well-formed commands -/

theorem test_wf_picture : (Instr.videoPictureComplete 0 0 ⟨.f720, [], [], []⟩).wellFormed = false := by decide
theorem test_wf_planeLines : planeHasSize [[0]] 2 1 = false := by decide
theorem test_wf_planeColumns : planeHasSize [[0], [0, 0]] 2 1 = false := by decide
theorem test_wf_plane : planeHasSize [[0], [0]] 2 1 = true := by decide
theorem test_wf_demandRead : (Instr.demandReadEnd 0 0).wellFormed = false := by decide
theorem test_wf_confirm : (Instr.confirmTimeout 65536).wellFormed = false := by decide
theorem test_wf_cells : (Instr.homeFrameReceived 0 0 [1, 2]).wellFormed = false := by decide
theorem test_wf_noCells : (Instr.homeFrameReceived 0 0 []).wellFormed = false := by decide
theorem test_wf_request : (Instr.requestArrival 0 []).wellFormed = false := by decide
theorem test_wf_badFrame : (Instr.badControlFrame 0 []).wellFormed = false := by decide
theorem test_wf_line : (Instr.memoryError 0 0 1024 [3]).wellFormed = false := by decide
theorem test_wf_bits : (Instr.memoryError 0 0 0 []).wellFormed = false := by decide
theorem test_wf_ok : (Instr.memoryError 0 0 1023 [3]).wellFormed = true := by decide

/-! ## Formats (10) -/

/-- "123456789". -/
def nineBytes : List Byte := [0x31, 0x32, 0x33, 0x34, 0x35, 0x36, 0x37, 0x38, 0x39]

/-- R206: "Over the nine bytes 31H to 39H this CRC is 29B1H". -/
theorem test_crc16 : crc16 nineBytes = 0x29B1 := by decide +kernel

/-- R207: "Over the nine bytes 31H to 39H this CRC is FC891918H". -/
theorem test_crc32 : crc32 nineBytes = 0xFC891918 := by decide +kernel

/-- The END frame of section 10, its bytes 0 to 27. -/
theorem test_endFrame :
    (frameBytes ⟨⟨kindOfItem .finish, 1, 3, false, false, 41,
        [0x00, 0x11, 0x13, 0x1F, 0x01, 0x0A, 0x0F, 0xA2]⟩, ⟨false, 7, 300, 18, false⟩, none⟩).take 28 =
      [0x26, 0x00, 0x03, 0x00, 0x00, 0x29, 0x00, 0x08, 0x00, 0x11, 0x13, 0x1F, 0x01, 0x0A, 0x0F, 0xA2,
        0, 0, 0, 0, 0, 0, 0, 0, 0x07, 0x12, 0xC0, 0x12] := by decide +kernel

/-! ## Timing (01) -/

/-- R6's example: 10:00:00:55 at P = 60 with rate 50 staged gives a tick of 10:00:00:49. -/
theorem test_rateTake :
    leaves .oscillatorTick { State.reset with timing := { State.reset.timing with
        rate := .p60, timecode := ⟨10, 0, 0, 55⟩, stagedRate := some .p50 } }
      (fun t => t.timing.timecode == ⟨10, 0, 0, 49⟩ && t.timing.rate == .p50) = true := by decide +kernel

/-- The tick after it carries 10:00:01:00. -/
theorem test_nextTimecode : nextTimecode .p50 ⟨10, 0, 0, 49⟩ = ⟨10, 0, 1, 0⟩ := by decide

/-- The day's last picture is followed by 00:00:00:00 (R3). -/
theorem test_dayWraps : nextTimecode .p25 ⟨23, 59, 59, 24⟩ = ⟨0, 0, 0, 0⟩ := by decide

/-- Table 1-5 and the three CUE_ADD requests below it: distances 5, 10, 510, and 2,115,010 below D/2. -/
theorem test_cueDistances :
    distance .p50 ⟨20, 14, 59, 40⟩ ⟨20, 14, 59, 45⟩ = 5 ∧ distance .p50 ⟨20, 14, 59, 40⟩ ⟨20, 15, 0, 0⟩ = 10
      ∧ distance .p50 ⟨20, 14, 59, 40⟩ ⟨20, 15, 10, 0⟩ = 510
      ∧ distance .p50 ⟨20, 14, 59, 40⟩ ⟨8, 0, 0, 0⟩ = 2115010
      ∧ distance .p50 ⟨20, 14, 59, 40⟩ ⟨9, 0, 0, 0⟩ = 2295010 := by decide

/-- The part at 20:14:59:40. -/
def evening : State := { State.reset with timing := { State.reset.timing with timecode := ⟨20, 14, 59, 40⟩ } }

theorem test_cueAdd : reply .cueAdd (asking evening .cueAdd [8, 0, 0, 0, 2, 3, 0, 4]) ⟨.ok, .cueId 0⟩ = true := by
  decide +kernel
theorem test_cueAddPast : reply .cueAdd (asking evening .cueAdd [9, 0, 0, 0, 2, 3, 0, 4]) ⟨.badValue, .none⟩ = true := by
  decide +kernel

/-- Section 1.9: a pulse 10 ms after the last tick at P = 25 locks and raises no tick. -/
theorem test_relock :
    leaves (.referencePulse (10 * millisecond)) { State.reset with timing := { State.reset.timing with
        rate := .p25, refState := .holdover, timecode := ⟨11, 0, 0, 13⟩ } }
      (fun t => t.timing.refState == .locked && t.timing.timecode == ⟨11, 0, 0, 13⟩) = true := by decide +kernel

/-- Section 1.9: 60 ms after the last accepted pulse the expiry raises a tick and leaves HOLDOVER. -/
theorem test_lossWindow :
    leaves .lossWindowExpiry { State.reset with timing := { State.reset.timing with
        rate := .p25, refState := .locked, lastPulse := some 0, timecode := ⟨11, 0, 0, 10⟩ } }
      (fun t => t.timing.refState == .holdover && t.timing.timecode == ⟨11, 0, 0, 11⟩
        && t.now == 60 * millisecond) = true := by decide +kernel

theorem test_setTimecode :
    reply .setTimecode (asking State.reset .setTimecode [23, 59, 59, 49]) ⟨.accepted, .none⟩ = true := by decide +kernel
theorem test_setTimecodeOut :
    reply .setTimecode (asking State.reset .setTimecode [23, 59, 59, 50]) ⟨.badValue, .none⟩ = true := by decide +kernel
theorem test_setReference : reply .setReference (asking State.reset .setReference [25]) ⟨.accepted, .none⟩ = true := by
  decide +kernel
theorem test_setReferenceInForce : reply .setReference (asking State.reset .setReference [50]) ⟨.ok, .none⟩ = true := by
  decide +kernel

/-! ## Picture coding (02) -/

/-- The worked block of section 2.7. -/
def workedBlock : List (List Pixel) :=
  [[600, 600, 520, 520], [600, 600, 520, 520], [560, 560, 480, 480], [560, 560, 480, 480]]

theorem test_coefficients :
    coefficients workedBlock = [[448, 640, 0, 0], [320, 0, 0, 0], [0, 0, 0, 0], [0, 0, 0, 0]] := by decide +kernel
theorem test_levels : blockLevels 14 workedBlock = [11, 16, 0, 0, 8] ++ List.replicate 11 0 := by decide +kernel
theorem test_blockBits : (sliceBits 14 ⟨9, 0, 0⟩ 0 [(.luma, workedBlock)]).length = 39 := by decide +kernel
theorem test_blockBits26 : (sliceBits 26 ⟨9, 0, 0⟩ 0 [(.luma, workedBlock)]).length = 33 := by decide +kernel
theorem test_blockBits51 : (sliceBits 51 ⟨9, 0, 0⟩ 0 [(.luma, workedBlock)]).length = 15 := by decide +kernel
theorem test_skipToken : packBits (skipToken 640) = [0x67, 0xF0] := by decide +kernel

/-! ## The uplink budget (03, section 3.7) -/

/-- The record of the example. -/
def threePaths : Allocation :=
  { resetAllocation with
    pathRate := #v[900, 700, 0, 0]
    carrying := #v[true, true, false, false]
    live := #v[true, true, true, false, false, false]
    weight := #v[8, 4, 4, 8, 8, 8]
    floor := #v[200, 150, 150, 0, 0, 0]
    streams := 2
    share := 3
    clipDemand := true }

theorem test_surplus :
    let a := computeFigures .p50 threePaths
    a.capacity = 1600 ∧ a.audioRes = 390 ∧ a.clipRes = 300 ∧ a.available = 910
      ∧ a.budget = #v[405, 252, 252, 0, 0, 0] ∧ a.leftover = 1 ∧ a.clipAllowance = 301 := by decide +kernel

theorem test_belowFloors :
    let a := computeFigures .p50 { threePaths with carrying := #v[true, false, false, false] }
    a.available = 342 ∧ a.budget = #v[136, 102, 102, 0, 0, 0]
      ∧ a.rateState = #v[.halfRate, .halfRate, .halfRate, .full, .full, .full]
      ∧ a.leftover = 2 ∧ a.clipAllowance = 170 := by decide +kernel

theorem test_nextQuantiser :
    nextIndex 23445 50220 0 51 26 = 26 ∧ nextIndex 40890 50220 0 51 26 = 29 ∧ nextIndex 50220 50220 0 51 26 = 29 := by
  decide

/-! ## The store (04) -/

/-- Section 4.10: five bytes padded with a zero byte have the digest B725H. -/
theorem test_digest : onesAddBytes 0 0 [0x12, 0x34, 0xFF, 0xF0, 0xA5, 0x00] = 0xB725 := by decide

theorem test_initPage :
    leaves (.initPage 5) State.reset (fun t => t.store.freePool == [0] && t.store.initPosition == 1) = true := by
  decide +kernel
theorem test_memoryError :
    leaves (.memoryError 0 7 1023 [5]) State.reset (fun t => t.store.lineErrors == [(8191, [5])]) = true := by
  decide +kernel
theorem test_memoryErrorBeyond :
    exec (.memoryError 0 131072 0 [5]) State.reset = .fault (.noSuchLine 131072 0) := by rfl
theorem test_storeSetClamps : reply .storeSet (asking State.reset .storeSet [0, 0]) ⟨.ok, .value 1⟩ = true := by
  decide +kernel

/-! ## The mixer (06) -/

/-- Section 6.4's example: gained values, terms and the two outputs of bus B4. -/
theorem test_sample :
    round14 (1000000 * 16384) = 1000000 ∧ round14 (-3000000 * 24576) = -4500000
      ∧ round14 (1000000 * 8192) = 500000 ∧ sat24 (round14 (-4000000 * 32768)) = -8000000
      ∧ round14 (-4000000 * 40000) = -9765625 ∧ sat24 (-9765625) = -8388608 := by decide

/-- Section 6.6's example: 0 to 10000 in four steps, interrupted at 5000 by a ramp of two steps to 2000; and a downward
ramp of three steps. -/
theorem test_ramp :
    (stepLevel (startRamp 4 (restingLevel 0) 10000)).value = 2500
      ∧ (stepLevel (startRamp 2 (restingLevel 5000) 2000)).value = 3500
      ∧ (stepLevel (startRamp 3 (restingLevel 16384) 0)).value = 10923
      ∧ (stepLevel (stepLevel (startRamp 3 (restingLevel 16384) 0))).value = 5462 := by decide

theorem test_channelSet :
    leaves .channelSet (asking State.reset .channelSet [31, 0xC0, 0x00])
      (fun t => t.mixer.changes == [.gain 31 (-16384)]) = true := by decide +kernel
theorem test_sceneRecallEmpty :
    reply .sceneRecall (asking State.reset .sceneRecall [3, 0, 4]) ⟨.badState, .none⟩ = true := by decide +kernel
theorem test_busFollowOff :
    reply .busSet (asking State.reset .busSet [1, 1, 2, 0, 7]) ⟨.badValue, .none⟩ = true := by decide +kernel
theorem test_meterSet :
    leaves .meterSet (asking State.reset .meterSet [0]) (fun t => t.mixer.meterPeriod == 1) = true := by decide +kernel

/-! ## Paths, clips and the control port (05, 07, 09) -/

/-- R150: PATH_OPEN in DOWN enters PROBE, and the first HELLO starts at once. -/
theorem test_pathOpen :
    leaves .pathOpen (asking State.reset .pathOpen [2]) (fun t =>
      t.paths[2].state == .probe && t.paths[2].transmitter.isSome) = true := by decide +kernel
theorem test_pathSetClamps :
    reply .pathSet (asking State.reset .pathSet [0, 0, 9, 0]) ⟨.ok, .pathValues 10 1⟩ = true := by decide +kernel
theorem test_clipOpenOff : reply .clipOpen (asking State.reset .clipOpen [0, 0]) ⟨.badState, .none⟩ = true := by
  decide +kernel
theorem test_clipOpenFlags : reply .clipOpen (asking State.reset .clipOpen [0, 2]) ⟨.badValue, .none⟩ = true := by
  decide +kernel
theorem test_clipTimeoutClamps : reply .clipTimeout (asking State.reset .clipTimeout [61]) ⟨.ok, .value 60⟩ = true := by
  decide +kernel
theorem test_clipUnknown : code .clipSend (asking State.reset .clipSend [0, 1]) .notFound = true := by decide +kernel
theorem test_coderSetNotReady :
    reply .coderSet (asking State.reset .coderSet [0, 0, 1, 3]) ⟨.notReady, .none⟩ = true := by decide +kernel
theorem test_coderSetLength :
    reply .coderSet (asking State.reset .coderSet [0, 0, 1]) ⟨.badLength, .none⟩ = true := by decide +kernel
theorem test_noticeSetBeyond : reply .noticeSet (asking State.reset .noticeSet [8, 0]) ⟨.badValue, .none⟩ = true := by
  decide +kernel
theorem test_statusLength : reply .status (asking State.reset .status [0]) ⟨.badLength, .none⟩ = true := by
  decide +kernel
theorem test_unknownKind :
    leaves .unknownRequestKind { State.reset with control := { State.reset.control with
        queue := [⟨0xEE, 9, [], .waiting⟩] } }
      (fun t => t.control.transmitter == some (.reply 9 0xEE ⟨.badKind, .none⟩)) = true := by decide +kernel
theorem test_strayByte :
    leaves (.badControlFrame 0 [0x00]) State.reset (fun t => t.control.frameError) = true := by decide +kernel

/-- A RESET FULL acts at the end of its reply (R203). -/
theorem test_resetFull :
    leaves (.controlFrameEnd 0) { evening with control := { evening.control with
        transmitter := some (.reply 1 46 ⟨.ok, .scope .full⟩) } }
      (fun t => t.timing.timecode == ⟨0, 0, 0, 0⟩ && t.control.lastReset == .full) = true := by decide +kernel

/-- The queue of commands: a step takes its front. -/
theorem test_stepTakesTheFront :
    (match step { State.reset with pending := [.initPage 5, .patrolRead] } with
      | .next t => t.pending == [.patrolRead] && t.store.initPosition == 1
      | _ => false) = true := by decide +kernel

/-- On an empty queue the part idles. -/
theorem test_idle : step State.reset = .next State.reset := by rfl

/-! ## Witnesses: each obligation's hypotheses can be met -/

/-- A state whose control port holds so many waiting requests and BUSY replies. -/
def crowded (requests busy : Nat) : State :=
  { State.reset with control := { State.reset.control with
    queue := List.replicate requests ⟨kindOfRequest .status, 1, [], .waiting⟩
    busy := List.replicate busy (1, kindOfRequest .status) } }

/-- A state whose control port sends a frame. -/
def sending (f : LineFrame) : State := { State.reset with control := { State.reset.control with transmitter := some f } }

/-- An entry whose reply waits. -/
def readyEntry : Entry := ⟨kindOfRequest .status, 2, [], .ready ⟨.ok, .none⟩⟩

/-- A request that waits. -/
def waitingEntry (kind : RequestKind) (body : List Byte) : Entry := ⟨kindOfRequest kind, 1, body, .waiting⟩

/-- A notice of no bus, and a METER notice. -/
def plainNotice : Notice := ⟨.refLost, ⟨0, 0, 0, 0⟩⟩
def meterNotice (bus : Fin 12) : Notice := ⟨.meter bus 60 0 0 0, ⟨0, 0, 0, 0⟩⟩

theorem witness_ARequestIsCheckedBeforeItsOwner :
    (requestOf .storeSet = some .storeSet ∧ (asking State.reset .storeSet [0]).asks .storeSet [0]
        ∧ lengthOk .storeSet [0] = false)
      ∧ (∃ e, firstWaiting [(⟨0xEE, 1, [], .waiting⟩ : Entry)] = some e ∧ requestOfKind e.kind = none)
      ∧ (asking State.reset .status []).asks .status [] ∧ RequestKind.status ≠ .storeSet :=
  ⟨⟨rfl, asking_asks .., rfl⟩, ⟨_, rfl, rfl⟩, asking_asks .., by decide⟩

theorem witness_ARequestFrameIsQueued :
    (crowded 3 0).control.receiver = [] ∧ (crowded 3 0).control.resetPending = none
      ∧ (crowded 3 0).control.queue.length < 4
      ∧ 4 ≤ (crowded 4 7).control.queue.length ∧ (crowded 4 7).control.busy.length < 8
      ∧ 4 ≤ (crowded 4 8).control.queue.length ∧ 8 ≤ (crowded 4 8).control.busy.length
      ∧ (List.replicate 1020 (0 : Byte)).length ≤ 1020
      ∧ { State.reset.control with resetPending := some .full }.resetPending ≠ none := by decide +kernel

theorem witness_ABadControlFrameIsDiscarded :
    State.reset.control.receiver = [] ∧ (0 : Byte) ≠ 0xC5 ∧ (0xC5 : Byte) ∉ [(0 : Byte), 1, 3, 255, 9]
      ∧ (0 : Byte).toNat * 256 + (1 : Byte).toNat < 2 ∧ 1022 < (3 : Byte).toNat * 256 + (255 : Byte).toNat
      ∧ (let length := (0 : Byte).toNat * 256 + (2 : Byte).toNat
         2 ≤ length ∧ length ≤ 1022 ∧ ([9, 9, 0] : List Byte).length < length + 2
           ∧ ([9, 9, 0, 0] : List Byte).length = length + 2
           ∧ crc16 ((0 : Byte) :: 2 :: ([9, 9, 0, 0] : List Byte).take length)
              ≠ BitVec.ofNat 16 (numberOf (([9, 9, 0, 0] : List Byte).drop length))) := by decide +kernel

theorem witness_TheEndOfACommandTakesALineFrame :
    ((∀ d ∈ [readyEntry], d.status ≠ .waiting) ∧ (waitingEntry .status []).status = .waiting)
      ∧ (sending (.busy 1 1)).control.transmitter ≠ none
      ∧ (crowded 1 1).control.transmitter = none ∧ (crowded 1 1).control.busy = (1, kindOfRequest .status) :: []
      ∧ (crowded 1 0).control.busy = []
      ∧ [readyEntry] = readyEntry :: [] ∧ readyEntry.status = .ready ⟨.ok, .none⟩
      ∧ (∀ e ∈ (crowded 1 0).control.queue.head?, ∀ r, e.status ≠ .ready r)
      ∧ [plainNotice] = plainNotice :: [] ∧ State.reset.control.notices = [] := by
  refine ⟨by decide +kernel, by decide +kernel, rfl, rfl, rfl, rfl, rfl, ?_, rfl, rfl⟩
  intro e he r
  cases he
  simp

theorem witness_ANoticeJoinsTheQueue :
    noticeEnabled 0 plainNotice.body = false ∧ noticeEnabled 0x7FF plainNotice.body = true
      ∧ noticeEnabled 0x7FF (meterNotice 3).body = true ∧ meterBus (meterNotice 3).body = some 3
      ∧ (∃ m ∈ [plainNotice, meterNotice 3], meterBus m.body = some 3)
      ∧ (∀ bus, meterBus plainNotice.body = some bus → ∀ m ∈ [meterNotice 3], meterBus m.body ≠ some bus)
      ∧ (List.replicate 31 plainNotice).length < 32 ∧ 32 ≤ (List.replicate 31 plainNotice ++ [meterNotice 3]).length
      ∧ isMeter (meterNotice 3).body = true ∧ (∀ k ∈ List.replicate 31 plainNotice, isMeter k.body = false)
      ∧ (∀ m ∈ List.replicate 32 plainNotice, isMeter m.body = false) := by decide +kernel

theorem witness_NoticeSetRemovesDisabledNotices :
    (asking State.reset .noticeSet [7]).asks .noticeSet [7] ∧ ([7] : List Byte).length ≠ 2
      ∧ (asking State.reset .noticeSet [8, 0]).asks .noticeSet [8, 0] ∧ 8 ≤ (8 : Byte).toNat
      ∧ (asking State.reset .noticeSet [7, 255]).asks .noticeSet [7, 255] ∧ (7 : Byte).toNat < 8 :=
  ⟨asking_asks .., by decide, asking_asks .., by decide, asking_asks .., by decide⟩

theorem witness_RequestsForAReport :
    (asking State.reset .status []).asks .status [] ∧ (asking State.reset .budgetInfo []).asks .budgetInfo []
      ∧ (asking State.reset .storeInfo []).asks .storeInfo [] ∧ (asking State.reset .sendInfo []).asks .sendInfo [] :=
  ⟨asking_asks .., asking_asks .., asking_asks .., asking_asks ..⟩

theorem witness_ARequestFrameIsQueued_pieces :
    let s := { State.reset with control := { State.reset.control with receiver := [0xC5, 0, 3] } }
    let bytes := (controlFrameBytes 46 7 [1] ++ [0xC5, 9]).drop 3
    s.control.receiver ++ bytes = controlFrameBytes 46 7 [1] ++ [0xC5, 9] ∧ ([1] : List Byte).length ≤ 1020
      ∧ s.control.resetPending = none ∧ s.control.queue.length < 4 := by decide +kernel

/-- A start byte inside a bad frame begins the next frame (R194). -/
theorem witness_ABadControlFrameIsDiscarded_again :
    let good := controlFrameBytes 46 7 [1]
    let s := { State.reset with control := { State.reset.control with receiver := [0xC5] } }
    (s.control.receiver ++ 0 :: 2 :: good = 0xC5 :: 0 :: 2 :: good ∧ 2 + 2 ≤ good.length)
      ∧ crc16 ((0 : Byte) :: 2 :: good.take 2) ≠ BitVec.ofNat 16 (field good 2 2)
      ∧ (let whole := good.drop 3
        crc16 ((0 : Byte) :: 3 :: whole.take 3) = BitVec.ofNat 16 (field whole 3 2) ∧ whole.length = 5)
      ∧ (State.reset.control.receiver ++ ([] : List Byte) = [] ∧ s.control.receiver ++ [] = [0xC5]
        ∧ s.control.receiver ++ [3] = [0xC5, 3])
      ∧ leaves (.badControlFrame 0 (0 :: 2 :: good)) s
        (fun t => t.control.queue.length == 1 && t.control.framesDiscarded == 1) = true := by decide +kernel

theorem witness_AResetActsWhenItsReplyHasLeft :
    (∀ d ∈ [readyEntry], d.status ≠ .waiting) ∧ (waitingEntry .reset [1]).status = .waiting
      ∧ requestOfKind (waitingEntry .reset [1]).kind = some .reset ∧ (waitingEntry .reset [1]).body = [1]
      ∧ ((0 : Byte).toNat ≠ 1 ∧ (0 : Byte).toNat ≠ 2) ∧ (1 : Byte).toNat = 1 ∧ (2 : Byte).toNat = 2
      ∧ (crowded 0 6).control.busy.length + [waitingEntry .status [], waitingEntry .status []].length ≤ 8
      ∧ State.reset.control.transmitter = none
      ∧ (sending (.busy 1 1)).control.transmitter = some (.busy 1 1)
      ∧ (sending (.notice plainNotice)).control.transmitter = some (.notice plainNotice)
      ∧ (sending (.reply 1 1 ⟨.ok, .none⟩)).control.transmitter = some (.reply 1 1 ⟨.ok, .none⟩)
      ∧ (∀ scope : Scope, (⟨.ok, .none⟩ : Reply) ≠ ⟨.ok, .scope scope⟩) := by
  refine ⟨by decide +kernel, by decide +kernel, by decide +kernel, by decide +kernel, by decide, by decide, by decide,
    by decide +kernel, rfl, rfl, rfl, rfl, fun scope => ?_⟩
  simp

/-! ### A rig: a part that records, sends and holds clips -/

/-- A picture of one luma sample (its size does not matter here). -/
def dot : Picture := ⟨.f720, [[0]], [], []⟩

/-- A COMPLETE segment of 50 pictures and a FILLING one of 51, 8 bytes a picture. -/
def oldSegment : Segment :=
  ⟨0, .complete, 0, 50, .p50, ⟨0, 0, 8, 0⟩, 50, (List.range 50).map (8 * ·), 400, [0], 7, some .length, 1, none, []⟩
def newSegment : Segment :=
  ⟨1, .filling, 0, 60, .p50, ⟨0, 0, 9, 0⟩, 51, (List.range 51).map (8 * ·), 408, [1, 2], 9, none, 1, none, []⟩

/-- A clip from 00:00:08:00 on over both segments. -/
def openClip : Clip := newClip 0 1 0 ⟨⟨0, 0, 8, 0⟩, false, false, some 0, false⟩ [0, 1] false

/-- A channel that records, with its picture handed over. -/
def recorder : CoderChannel :=
  { resetCoder 0 with mode := .record, input := .present, filling := some 1, handed := true }

/-- The rig at 00:00:10:00: C0 records into segment 1, and clip 1 holds both segments. -/
def rig : State :=
  { State.reset with
    timing := { State.reset.timing with timecode := ⟨0, 0, 10, 0⟩ }
    coders := vecSet State.reset.coders 0 recorder
    store := { State.reset.store with
      initPosition := 8
      freePool := [3, 4, 6, 7]
      retired := [5]
      completion := [0]
      segments := [oldSegment, newSegment]
      timelines := #v[[0, 1], [], [], [], [], []]
      lineErrors := [(3 * 1024 + 5, [7]), (4 * 1024, [7, 8])] }
    clipLog := { State.reset.clipLog with clips := [openClip], nextId := 2 } }

/-- The rig with its clip changed. -/
def rigClip (f : Clip → Clip) : State := rig.modClip 1 f

/-- The rig with its first path changed. -/
def rigPath (f : Path → Path) : State := rig.modPath 0 f

theorem witness_KeepStoreKeepsWhatClipsHold :
    (keepStoreReset rig).clipLog.clips.length = 1 ∧ (keepStoreReset rig).store.segments.length = 1
      ∧ ((keepStoreReset (rigClip fun c => { c with record := .closed })).clipLog.clips.map fun k => k.range) =
        [[0, 1]] := by decide +kernel

theorem witness_TimingRequestsStageTheirValue :
    (asking State.reset .setTimecode [23, 59, 59, 49]).asks .setTimecode [23, 59, 59, 49]
      ∧ (asking State.reset .setReference [60]).asks .setReference [60]
      ∧ (60 : Byte).toNat = perSecond .p60 ∧ (50 : Byte).toNat = perSecond State.reset.timing.rate
      ∧ (∀ p : PictureRate, (0 : Byte).toNat ≠ perSecond p) := by
  refine ⟨asking_asks .., asking_asks .., by decide, by decide, fun p => ?_⟩
  cases p <;> decide

/-- Sixteen cues, one in each slot. -/
def sixteenCues : List Cue := (List.finRange 16).map fun id => ⟨id, ⟨1, 0, 0, 0⟩, .sceneRecall, [0, 0, 4]⟩

theorem witness_CuesAreAddedCancelledAndListed :
    (asking evening .cueAdd [20, 14, 59, 41, 2, 0, 0, 4]).asks .cueAdd [20, 14, 59, 41, 2, 0, 0, 4]
      ∧ actionOf (2 : Byte).toNat = some .sceneRecall ∧ actionLengthOk .sceneRecall [0, 0, 4] = true
      ∧ validTimecode .p50 ⟨20, 14, 59, 41⟩ = true
      ∧ distance .p50 ⟨20, 14, 59, 40⟩ ⟨20, 14, 59, 41⟩ = 1
      ∧ distance .p50 ⟨20, 14, 59, 40⟩ ⟨20, 14, 59, 40⟩ = 0
      ∧ distance .p50 ⟨20, 14, 59, 40⟩ ⟨8, 14, 59, 39⟩ + 1 = dayLength .p50 / 2
      ∧ dayLength .p50 / 2 ≤ distance .p50 ⟨20, 14, 59, 40⟩ ⟨8, 14, 59, 40⟩
      ∧ (∀ id : Fin 16, ∃ c ∈ sixteenCues, c.id = id)
      ∧ (∀ c ∈ sixteenCues.take 15, c.id ≠ 15) ∧ (∀ j < (15 : Fin 16), ∃ c ∈ sixteenCues.take 15, c.id = j)
      ∧ (asking evening .cueCancel [15]).asks .cueCancel [15] ∧ 16 ≤ (16 : Byte).toNat
      ∧ (15 : Byte).toNat = (15 : Fin 16).val ∧ (∃ c ∈ sixteenCues, c.id = 15)
      ∧ (asking evening .cueList []).asks .cueList [] := by
  refine ⟨asking_asks .., ?_⟩
  refine ⟨by decide, by decide, by decide, by decide, by decide, by decide, by decide, by decide, by decide, by decide,
    asking_asks .., by decide, by decide, by decide, asking_asks ..⟩

theorem witness_OscillatorTicksOutsideLocked :
    State.reset.timing.refState ≠ .locked
      ∧ { State.reset.timing with refState := .locked }.refState = .locked := by decide +kernel

theorem witness_TheReferenceLocksAndIsLost :
    State.reset.timing.refState ≠ .locked
      ∧ 2 * (State.reset.now + 122879 - State.reset.timing.lastTick) < period State.reset.timing.rate
      ∧ period State.reset.timing.rate ≤ 2 * (State.reset.now + 122880 - State.reset.timing.lastTick)
      ∧ { State.reset.timing with refState := .locked, lastPulse := some 0 }.lastPulse = some 0
      ∧ 8 * (State.reset.now + 215039 - 0) < 7 * period State.reset.timing.rate
      ∧ 7 * period State.reset.timing.rate ≤ 8 * (State.reset.now + 215040 - 0)
      ∧ 2 * (State.reset.now + 368640 - 0) ≤ 3 * period State.reset.timing.rate := by decide +kernel

theorem witness_CuesThatFireLeaveTheList :
    evening.timing.refState ≠ .locked ∧ (sixteenCues.map fun c => c.id).Nodup
      ∧ leaves .oscillatorTick { evening with timing := { evening.timing with
          cues := [⟨0, ⟨20, 14, 59, 41⟩, .sceneRecall, [0, 0, 4]⟩, ⟨1, ⟨20, 14, 59, 42⟩, .sceneRecall, [0, 0, 4]⟩] } }
        (fun t => (t.timing.cues.map fun c => c.id) == [1]) = true := by decide +kernel

theorem witness_APictureStartMakesThePortPresent :
    (719 ≠ 1080 ∧ 719 ≠ 720) ∧ Format.f1080.lines = 1080 ∧ Format.f720.lines = 720
      ∧ State.reset.ports[(0 : Fin 8)].input = .lost ∧ { resetPort with input := .present }.input = .present := by
  decide +kernel

/-- A plane of zeros, and the whole picture of such planes. -/
def zeroPlane (lines columns : Nat) : List (List Pixel) := List.replicate lines (List.replicate columns 0)
def wholePicture : Picture := ⟨.f720, zeroPlane 720 1280, zeroPlane 720 640, zeroPlane 720 640⟩

/-- A picture of 720 lines of four samples, with no chroma. -/
def narrowPicture : Picture := ⟨.f720, zeroPlane 720 4, [], []⟩

theorem zeroPlane_size (lines columns : Nat) : planeHasSize (zeroPlane lines columns) lines columns = true := by
  simp [zeroPlane, planeHasSize, List.all_replicate]

theorem witness_APictureIsHeldUntilTheLoss :
    dot.wellFormed = false ∧ wholePicture.wellFormed = true ∧ State.reset.ports[(7 : Fin 8)].arriving = none
      ∧ (⟨.f720, Vector.replicate 4 true, false⟩ : Arriving).complete = false
      ∧ (⟨.f720, Vector.replicate 4 true, false⟩ : Arriving).format = wholePicture.format
      ∧ { resetPort with lastStart := some 5 }.lastStart = some 5
      ∧ dot.luma.length ≠ dot.format.lines
      ∧ (⟨.f720, Vector.replicate 4 true, true⟩ : Arriving).complete = true
      ∧ (⟨.f1080, Vector.replicate 4 true, false⟩ : Arriving).format ≠ dot.format
      ∧ narrowPicture.luma.length = narrowPicture.format.lines ∧ narrowPicture.wellFormed = false := by
  refine ⟨by decide, ?_, rfl, rfl, rfl, rfl, by decide, rfl, by decide, List.length_replicate ..,
    by decide +kernel⟩
  have luma := zeroPlane_size 720 1280
  have chroma := zeroPlane_size 720 640
  show (planeHasSize _ _ _ && planeHasSize _ _ _ && planeHasSize _ _ _) = true
  exact Bool.and_eq_true_iff.mpr ⟨Bool.and_eq_true_iff.mpr ⟨luma, chroma⟩, chroma⟩

theorem witness_CoderSetStagesAllowedFields :
    (newBounds State.reset.coders[(5 : Fin 6)] State.reset.coders[(5 : Fin 6)].staged).1
        ≤ (newBounds State.reset.coders[(5 : Fin 6)] State.reset.coders[(5 : Fin 6)].staged).2
      ∧ (asking State.reset .coderSet [byteOf 5, 0, 4, 15]).asks .coderSet [byteOf 5, 0, 4, 15]
      ∧ (asking State.reset .coderSet [byteOf 5, 0, 8, 255, 255]).asks .coderSet [byteOf 5, 0, 8, 255, 255]
      ∧ (asking State.reset .coderSet [byteOf 5, 0, 0]).asks .coderSet [byteOf 5, 0, 0]
      ∧ (asking State.reset .coderSet [byteOf 5, 0, 1, 4]).asks .coderSet [byteOf 5, 0, 1, 4]
      ∧ modeOf (4 : Byte).toNat = some .both :=
  ⟨by decide, asking_asks .., asking_asks .., asking_asks .., asking_asks .., rfl⟩

theorem witness_ATakeWritesTheStagedFields :
    let t := takeStaged 3 { Staged.empty with mode := some .live } State.reset
    State.reset.coders[(3 : Fin 6)].mode = .off ∧ t.coders[(3 : Fin 6)].mode = .live
      ∧ t.coders[(3 : Fin 6)].qMin ≤ t.coders[(3 : Fin 6)].qMax := by decide +kernel

theorem witness_PictureCodedCountsThePicture :
    State.reset.coders[(0 : Fin 6)].inFlight = none
      ∧ { recorder with inFlight := some ⟨.repeated .input, none, 26, 0, ⟨0, 0, 0, 0⟩⟩ }.inFlight
        = some ⟨.repeated .input, none, 26, 0, ⟨0, 0, 0, 0⟩⟩ := by decide +kernel

theorem witness_APictureStartChoosesKindAndBudget :
    let port := { resetPort with input := .present, held := some dot, heldNew := true }
    recorder.input = .present ∧ port.held ≠ none ∧ port.heldNew = true ∧ recorder.forcedRepeat = false
      ∧ { recorder with forcedRepeat := true }.forcedRepeat = true ∧ resetPort.held = none
      ∧ recorder.mode ∉ [CoderMode.live, .both] ∧ { recorder with mode := .both }.mode ∈ [CoderMode.live, .both]
      ∧ rateStateOf 0 10 = .starved ∧ rateStateOf 9 10 = .halfRate ∧ rateStateOf 10 10 = .full := by decide +kernel

theorem witness_TheNextQuantiserFollowsTheFullness :
    (160 ≤ 160 ∧ 0 ≤ 51) ∧ 16 * 9 < 160 ∧ (160 ≤ 16 * 10 ∧ 16 * 39 < 4 * 160) ∧ (4 * 160 ≤ 16 * 40 ∧ 16 * 79 < 8 * 160)
      ∧ (8 * 160 ≤ 16 * 80 ∧ 16 * 119 < 12 * 160) ∧ 12 * 160 ≤ 16 * 120 := by decide

theorem witness_TheFiguresOfARecompute :
    let a := computeFigures .p50 threePaths
    let low := computeFigures .p50 { threePaths with carrying := #v[true, false, false, false] }
    a.live[(3 : Fin 6)] = false ∧ a.live[(0 : Fin 6)] = true ∧ a.floorSum ≤ a.available
      ∧ a.audioRes + a.clipRes ≤ a.capacity ∧ low.available < low.floorSum
      ∧ resetAllocation.capacity < (computeFigures .p50 { resetAllocation with streams := 1 }).audioRes := by
  decide +kernel

theorem witness_TheRateStateFollowsTheBudget :
    let a := computeFigures .p50 threePaths
    let low := computeFigures .p50 { threePaths with carrying := #v[true, false, false, false] }
    threePaths.live[(3 : Fin 6)] = false ∧ threePaths.live[(0 : Fin 6)] = true
      ∧ (a.floorSum ≤ a.available ∧ threePaths.floor[(0 : Fin 6)] ≤ a.budget[(0 : Fin 6)])
      ∧ (low.available < low.floorSum ∧ 0 < low.budget[(0 : Fin 6)]
          ∧ low.budget[(0 : Fin 6)] < threePaths.floor[(0 : Fin 6)])
      ∧ (computeFigures .p50 { threePaths with carrying := #v[false, false, false, false] }).budget[(0 : Fin 6)] = 0 := by
  decide +kernel

theorem witness_ARecomputePublishesTheFigures :
    (asking State.reset .pathRate [3, 16, 0]).asks .pathRate [3, 16, 0] ∧ (3 : Byte).toNat = (3 : Fin 4).val
      ∧ 4 ≤ (4 : Byte).toNat ∧ (asking State.reset .clipShare [8]).asks .clipShare [8]
      ∧ (computeFigures .p50 State.reset.alloc).budget = State.reset.alloc.budget
      ∧ (computeFigures .p50 threePaths).budget ≠ threePaths.budget :=
  ⟨asking_asks .., rfl, by decide, asking_asks .., by decide +kernel, by decide +kernel⟩

theorem witness_RequestsForAnItem :
    (asking rig .inputInfo [7]).asks .inputInfo [7] ∧ 8 ≤ (8 : Byte).toNat ∧ (7 : Byte).toNat = (7 : Fin 8).val
      ∧ (asking rig .coderInfo [5]).asks .coderInfo [5] ∧ (5 : Byte).toNat = (5 : Fin 6).val
      ∧ (asking rig .pathInfo [3]).asks .pathInfo [3] ∧ (3 : Byte).toNat = (3 : Fin 4).val
      ∧ (asking rig .mixerInfo [1, 31]).asks .mixerInfo [1, 31] ∧ (31 : Byte).toNat = (31 : Fin 32).val
      ∧ (11 : Byte).toNat = (11 : Fin 12).val ∧ (15 : Byte).toNat = (15 : Fin 16).val :=
  ⟨asking_asks .., by decide, rfl, asking_asks .., rfl, asking_asks .., rfl, asking_asks .., rfl, rfl, rfl⟩

theorem witness_RequestsForAListing :
    (asking rig .segmentInfo [32, 0]).asks .segmentInfo [32, 0] ∧ 8192 ≤ (32 : Byte).toNat * 256 + (0 : Byte).toNat
      ∧ rig.segment? 8191 = none ∧ rig.segment? 1 = some newSegment
      ∧ (asking rig .timelineInfo [0, 0, 1]).asks .timelineInfo [0, 0, 1] ∧ 6 ≤ (6 : Byte).toNat
      ∧ (asking rig .clipInfo [0, 1]).asks .clipInfo [0, 1] ∧ rig.clipNamed 0 = none ∧ rig.clipNamed 1 = some openClip
      ∧ (asking rig .clipList [3, 5, 0, 255]).asks .clipList [3, 5, 0, 255] ∧ (3 : Byte).toNat < 4
      ∧ (5 : Byte).toNat < 6 ∧ (0 : Byte).toNat * 256 + (255 : Byte).toNat < 256 :=
  ⟨asking_asks .., by decide, by decide +kernel, by decide +kernel, asking_asks .., by decide, asking_asks ..,
    by decide +kernel, by decide +kernel, asking_asks .., by decide, by decide, by decide⟩

theorem witness_TimersAreStoredClamped :
    (asking State.reset .storeSet [0]).asks .storeSet [0] ∧ ([0] : List Byte).length ≠ 2
      ∧ (asking State.reset .storeSet [3, 233]).asks .storeSet [3, 233]
      ∧ (asking State.reset .clipTimeout []).asks .clipTimeout [] ∧ ([] : List Byte).length ≠ 1
      ∧ (asking State.reset .clipTimeout [61]).asks .clipTimeout [61] :=
  ⟨asking_asks .., by decide, asking_asks .., asking_asks .., by decide, asking_asks ..⟩

theorem witness_InitialisationFreesThePage :
    State.reset.store.state = .initialising ∧ { State.reset.store with state := .ready }.state = .ready := by
  decide +kernel

theorem witness_ErrorsOfALineAndThePatrol :
    rig.memoryCanonical ∧ rig.store.pageCount ≤ 131072 ∧ 131071 < rig.store.pageCount
      ∧ (let patrols := fun position => { rig.store with patrolPosition := position }
         (∀ position ∈ [0, 3, 4], (patrols position).patrolPosition < rig.store.initPosition
            ∧ (patrols position).patrolPosition ∉ rig.store.retired)
          ∧ (∀ e ∈ rig.store.lineErrors, e.1 / 1024 ≠ 0)
          ∧ ((3 * 1024 + 5, [7]) ∈ rig.store.lineErrors ∧ (3 * 1024 + 5) / 1024 = 3
            ∧ ∀ e ∈ rig.store.lineErrors, e.1 / 1024 = 3 → e.1 = 3 * 1024 + 5)
          ∧ ((4 * 1024, [7, 8]) ∈ rig.store.lineErrors ∧ ∀ g ∈ rig.store.segments, 4 ∉ g.pages)) := by
  refine ⟨⟨by decide +kernel, by decide +kernel⟩, by decide +kernel, by decide +kernel, by decide +kernel⟩

/-- A DATA frame of clip 1 whose read is in progress. -/
def dataEntry : RetryEntry := ⟨0, .clip .data 1 (some 0), false, 0, ⟨0x21, 2, 0, false, false, 1, List.replicate 40 0⟩⟩
def readOfClip : DemandRead := ⟨1, some 0, 0, some 0, [0], 0, 32, .cursor⟩

theorem witness_ADemandReadFillsItsFrame :
    (∀ r ∈ State.reset.sched.reads, r.clip ≠ 1)
      ∧ [readOfClip].find? (fun r => r.clip == 1) = some readOfClip ∧ readOfClip.path = some 0
      ∧ State.reset.store.lineErrors = [] ∧ dataEntry.start = readOfClip.start := by decide +kernel

theorem witness_TheWriterStoresInItsSegmentAlone :
    rig.memoryCanonical ∧ ([1, 2] : List Nat).Nodup ∧ 131070 + ([1, 2] : List Byte).length ≤ [1, 2].length * 65536 :=
  ⟨⟨by decide +kernel, by decide +kernel⟩, by decide, by decide⟩

theorem witness_APinnedSegmentIsNeverReclaimed : rig.segment? 0 = some oldSegment ∧ 0 < oldSegment.pinCount := by
  decide +kernel

theorem witness_ClipOpenTakesARecord :
    (asking rig .clipOpen (0 :: pointBytes (some (0, 0, 8, 0)))).asks .clipOpen (0 :: pointBytes (some (0, 0, 8, 0)))
      ∧ (6 ≤ (6 : Byte).toNat ∧ rig.validPoint (some ⟨0, 0, 8, 50⟩) = false
      ∧ rig.validPoint (pointTimecode (some (0, 0, 8, 0))) = true
      ∧ rig.coders[(1 : Fin 6)].mode ∉ [CoderMode.record, .both] ∧ rig.coders[(0 : Fin 6)].mode ∈ [CoderMode.record, .both]
      ∧ rig.inFuture ⟨0, 0, 10, 1⟩ = true ∧ rig.inFuture ⟨0, 0, 8, 0⟩ = false
      ∧ (∀ k ∈ rig.clipLog.clips, k.slot ≠ 1) ∧ (∀ j < 1, ∃ k ∈ rig.clipLog.clips, k.slot = j)
      ∧ (rig.clipLog.clips.filter (openOn 0)).length < 255 ∧ rig.pinRefused [0, 1] = false
      ∧ 1 ≤ rig.clipLog.nextId ∧ rig.clipLog.nextId ≤ 65535 ∧ (∀ k ∈ rig.clipLog.clips, k.id ≠ rig.clipLog.nextId)
      ∧ { rig with store := { rig.store with segments := [{ oldSegment with pinCount := 255 }] } }.pinRefused [0] = true
      ∧ 255 ≤ ((List.replicate 255 openClip).filter (openOn 0)).length)
      ∧ (∀ slot < 256, ∃ k ∈ (List.range 256).map fun slot => { openClip with slot := slot }, k.slot = slot) := by
  refine ⟨asking_asks .., by decide +kernel, fun slot h => ?_⟩
  exact ⟨_, List.mem_map.mpr ⟨slot, List.mem_range.mpr h, rfl⟩, rfl⟩

theorem witness_ClipCloseFindsItsOutSegment :
    (asking rig .clipClose (0 :: 1 :: pointBytes none)).asks .clipClose (0 :: 1 :: pointBytes none)
      ∧ rig.validPoint (some ⟨24, 0, 0, 0⟩) = false ∧ rig.validPoint (pointTimecode none) = true
      ∧ rig.clipNamed 2 = none ∧ rig.clipNamed 1 = some openClip ∧ rig.clip? 1 = some openClip
      ∧ openClip.record = .opened ∧ openClip.outPending = false
      ∧ ({ openClip with record := .closed }.record ≠ .opened ∧ { openClip with outPending := true }.outPending = true)
      ∧ rig.inFuture ⟨0, 0, 10, 1⟩ = true ∧ rig.earlier ⟨0, 0, 7, 49⟩ openClip.inPoint = true
      ∧ rig.inFuture ⟨0, 0, 8, 49⟩ = false ∧ rig.earlier ⟨0, 0, 8, 49⟩ openClip.inPoint = false
      ∧ State.reset.coders[(0 : Fin 6)].handed = false
      ∧ rig.placeOut openClip ⟨0, 0, 10, 0⟩ = .inSegment newSegment.id false ∧ newSegment.state = .filling
      ∧ rig.placeOut openClip ⟨0, 0, 8, 49⟩ = .inSegment oldSegment.id false ∧ oldSegment.state = .complete
      ∧ rig.segment? 0 = some oldSegment ∧ rig.segment? 1 = some newSegment := by
  refine ⟨asking_asks .., ?_⟩
  decide +kernel

theorem witness_ClipMarkAddsAMarker :
    (asking rig .clipMark ([0, 1, 0, 15, 2, 65, 66])).asks .clipMark (0 :: 1 :: pointBytes none ++ 15 :: 2 :: [65, 66])
      ∧ ([65, 66] : List Byte).length = (2 : Byte).toNat ∧ 15 < (16 : Byte).toNat
      ∧ rig.clipNamed 1 = some openClip ∧ { openClip with send := .sent }.send ∈ [SendState.sent, .failed]
      ∧ openClip.send ∉ [SendState.sent, .failed]
      ∧ rig.earlier ⟨0, 0, 7, 49⟩ openClip.inPoint = true
      ∧ (rig.inFuture ⟨0, 0, 10, 0⟩ = false ∧ rig.earlier ⟨0, 0, 10, 0⟩ openClip.inPoint = false
        ∧ openClip.outPoint = none)
      ∧ openClip.markers.length < 8 ∧ 8 ≤ (List.replicate 8 (⟨⟨0, 0, 8, 0⟩, 0, []⟩ : Marker)).length := by
  refine ⟨asking_asks .., ?_⟩
  decide +kernel

theorem witness_ClipLabelReplacesTheLabel :
    (asking rig .clipLabel [0, 1]).asks .clipLabel (0 :: 1 :: []) ∧ rig.clipNamed 2 = none
      ∧ rig.clipNamed 1 = some openClip ∧ openClip.started = false
      ∧ (rigClip fun c => { c with started := true }).clipNamed 1 = some { openClip with started := true } := by
  refine ⟨asking_asks .., ?_⟩
  decide +kernel

theorem witness_ClipsAreRatedHeldAndSent :
    (asking rig .clipRate [0, 1, 7, 1]).asks .clipRate [0, 1, 7, 1] ∧ (asking rig .clipHold [0, 1]).asks .clipHold [0, 1]
      ∧ (asking rig .clipRelease [0, 1]).asks .clipRelease [0, 1] ∧ (asking rig .clipSend [0, 1]).asks .clipSend [0, 1]
      ∧ rig.clipNamed 2 = none ∧ rig.clip? 1 = some openClip ∧ openClip.discardPending = false
      ∧ 7 < (8 : Byte).toNat ∧ (7 : Byte).toNat ≤ 7 ∧ (1 : Byte).toNat ≤ 1
      ∧ openClip.send ∉ [SendState.sent, .failed] ∧ { openClip with send := .failed }.send ∈ [SendState.sent, .failed]
      ∧ openClip.send = .idle ∧ openClip.record ≠ .closing ∧ { openClip with record := .closing }.record = .closing := by
  refine ⟨asking_asks .., asking_asks .., asking_asks .., asking_asks .., ?_⟩
  decide +kernel

theorem witness_ADiscardFreesOrAborts :
    (asking rig .clipDiscard [0, 1]).asks .clipDiscard [0, 1] ∧ rig.clipNamed 2 = none ∧ rig.clip? 1 = some openClip
      ∧ openClip.discardPending = false ∧ openClip.send ≠ .sending
      ∧ (rigClip fun c => { c with send := .sending }).clip? 1 = some { openClip with send := .sending } := by
  refine ⟨asking_asks .., ?_⟩
  decide +kernel

/-- A clip that waits for its confirm. -/
def waitingClip : Clip :=
  { openClip with record := .closed, send := .awaitConfirm, sendDigest := some 0x0FA2, confirmDeadline := some 9 }

theorem witness_AConfirmEndsTheWait :
    (∀ c, rig.clipNamed 1 = some c → c.send ≠ .awaitConfirm) ∧ (∀ c, rig.clip? 1 = some c → c.send ≠ .awaitConfirm)
      ∧ (rigClip fun _ => waitingClip).clip? 1 = some waitingClip ∧ waitingClip.discardPending = false
      ∧ waitingClip.send = .awaitConfirm ∧ waitingClip.sendDigest = some 0x0FA2
      ∧ waitingClip.sendDigest ≠ some 0 ∧ waitingClip.confirmDeadline = some 9
      ∧ waitingClip.resendUsed = false ∧ { waitingClip with resendUsed := true }.resendUsed = true := by
  have named : rig.clipNamed 1 = some openClip := by decide +kernel
  have held : rig.clip? 1 = some openClip := by decide +kernel
  refine ⟨fun c h => ?_, fun c h => ?_, ?_⟩
  · rw [named] at h
    cases h
    decide
  · rw [held] at h
    cases h
    decide
  · decide +kernel

theorem witness_MixerChangesJoinTheChangeList :
    (asking rig .channelSet [31, 255, 255]).asks .channelSet [31, 255, 255]
      ∧ (asking rig .sendSet [31, 11, 255, 255]).asks .sendSet [31, 11, 255, 255]
      ∧ (asking rig .embedSet [1, 7, 3]).asks .embedSet [1, 7, 3]
      ∧ (asking rig .outputSet [1, 3, 11, 255]).asks .outputSet [1, 3, 11, 255]
      ∧ (asking rig .sceneRecall [15, 0, 1]).asks .sceneRecall [15, 0, 1]
      ∧ (asking rig .busSet [11, 2, 64, 0]).asks .busSet [11, 2, 64, 0]
      ∧ (asking rig .busSet [11, 1, 1]).asks .busSet [11, 1, 1] ∧ (asking rig .busSet [11, 1, 0]).asks .busSet [11, 1, 0]
      ∧ (asking rig .busSet [11, 1, 2, 0, 31]).asks .busSet [11, 1, 2, 0, 31]
      ∧ ((asking rig .busSet [11, 3, 1, 64, 0]).asks .busSet [11, 3, 1, 64, 0]
        ∧ (asking rig .busSet [11, 3, 0, 64, 0]).asks .busSet [11, 3, 0, 64, 0]
        ∧ (asking rig .busSet [11, 3, 2, 64, 0, 0, 31]).asks .busSet [11, 3, 2, 64, 0, 0, 31]
        ∧ (asking rig .busSet [11, 0]).asks .busSet [11, 0] ∧ (asking rig .busSet [12, 0]).asks .busSet [12, 0]
        ∧ (asking rig .busSet [11, 4]).asks .busSet [11, 4] ∧ (asking rig .busSet [11, 1, 3]).asks .busSet [11, 1, 3])
      ∧ (12 ≤ (12 : Byte).toNat ∧ 4 ≤ (4 : Byte).toNat ∧ (1 : Byte).toNat % 2 = 1 ∧ 2 < (3 : Byte).toNat
        ∧ 32 ≤ (32 : Byte).toNat ∧ 2 ≤ (2 : Byte).toNat)
      ∧ (12 ≤ (12 : Byte).toNat ∧ (254 : Byte).toNat < 255)
      ∧ (255 : Byte).toNat = (match (none : Option (Fin 12)) with | some b => b.val | none => 255)
      ∧ (11 : Byte).toNat = (match (some 11 : Option (Fin 12)) with | some b => b.val | none => 255)
      ∧ rig.mixer.scenes[(15 : Fin 16)] = none
      ∧ (vecSet rig.mixer.scenes 15 (some (sceneOf rig.mixer)))[(15 : Fin 16)] = some (sceneOf rig.mixer) :=
  ⟨asking_asks .., asking_asks .., asking_asks .., asking_asks .., asking_asks .., asking_asks .., asking_asks ..,
    asking_asks .., asking_asks .., ⟨asking_asks .., asking_asks .., asking_asks .., asking_asks .., asking_asks ..,
    asking_asks .., asking_asks ..⟩, by decide, by decide, rfl, rfl, by decide +kernel, by decide +kernel⟩

theorem test_busSetBoth :
    leaves .busSet (asking rig .busSet [11, 3, 1, 64, 0]) (fun t =>
      t.mixer.changes == [.bus 11 (some .mix) (some 16384)]) = true := by decide +kernel

theorem witness_MixerSettingsAreStored :
    (asking rig .sceneStore [15]).asks .sceneStore [15] ∧ (asking rig .meterSet [0]).asks .meterSet [0]
      ∧ (asking rig .returnSet [1, 28]).asks .returnSet [1, 28] ∧ 2 ≤ (2 : Byte).toNat
      ∧ (asking rig .streamSet [3, 0, 0, 0]).asks .streamSet [3, 0, 0, 0]
      ∧ (asking rig .streamSet [3, 1, 11, 0]).asks .streamSet [3, 1, 11, 0] :=
  ⟨asking_asks .., asking_asks .., asking_asks .., by decide, asking_asks .., asking_asks ..⟩

theorem witness_AnAudioBlockTick :
    (∀ r, State.reset.mixer.recalling = some r → r.steps < r.length)
      ∧ { State.reset.mixer with recalling := some ⟨3, 4, 4⟩ }.recalling = some ⟨3, 4, 4⟩
      ∧ State.reset.mixer.periodCount < State.reset.mixer.meterPeriod
      ∧ (let m := { State.reset.mixer with periodCount := 60 }; m.meterPeriod ≤ m.periodCount) :=
  ⟨nofun, rfl, by decide +kernel, by decide +kernel⟩

theorem witness_SampleFramesJoinTheirQueues :
    State.reset.mixer.embedded[(1 : Fin 2)].port = 1 ∧ State.reset.mixer.embedded[(1 : Fin 2)].pair = 0
      ∧ State.reset.silent State.reset.mixer.embedded[(1 : Fin 2)] = true
      ∧ { State.reset with ports := Vector.replicate 8 { resetPort with
            input := .present, arriving := some ⟨.f720, Vector.replicate 4 true, false⟩ } }.silent
          State.reset.mixer.embedded[(1 : Fin 2)] = false := by decide +kernel

theorem witness_ARampReachesItsTarget : 3 < 4 ∧ 4 ≤ 4 ∧ (0 : Nat) ≤ 0 := by decide

theorem witness_AMixMinusLeavesItsChannelOut :
    (∀ c : Fin 32, (Vector.replicate 32 (List.replicate 16 (0 : Int)))[c].length = 16)
      ∧ { resetBus with mode := .follow 4 17 }.mode = .follow 4 17 ∧ resetBus.mode = .off := by decide +kernel

/-- A path in CARRY that holds one frame. -/
def carrying (path : Path) : Path :=
  { path with state := .carry, credit := 20, ceiling := 30, allowance := 20, retry := [dataEntry], sendPointer := 2
              ackDeadline := some (200 * millisecond) }

theorem witness_PathRequestsByState :
    4 ≤ (4 : Byte).toNat ∧ (0 : Byte).toNat = (0 : Fin 4).val
      ∧ (asking rig .pathOpen [0]).asks .pathOpen [0] ∧ (asking rig .pathClose [0]).asks .pathClose [0]
      ∧ (asking rig .pathSet [0, 7, 208, 15]).asks .pathSet [0, 7, 208, 15]
      ∧ rig.paths[(0 : Fin 4)].state = .down
      ∧ (rigPath fun path => { path with state := .probe }).paths[(0 : Fin 4)].state = .probe
      ∧ (rigPath fun path => { path with state := .probe }).paths[(0 : Fin 4)].retry = []
      ∧ (rigPath carrying).paths[(0 : Fin 4)].state = .carry
      ∧ (rigPath fun path => { path with state := .recover }).paths[(0 : Fin 4)].state = .recover
      ∧ (rigPath fun path => { path with state := .drain }).paths[(0 : Fin 4)].state ∈ [PathState.down, .drain]
      ∧ (∀ t, (dataEntry.sentAt + 2000 * millisecond = t) → rig.now < t) := by
  refine ⟨by decide, rfl, asking_asks .., asking_asks .., asking_asks .., ?_⟩
  refine ⟨by decide +kernel, by decide +kernel, by decide +kernel, by decide +kernel, by decide +kernel,
    by decide +kernel, fun t h => ?_⟩
  subst h
  decide +kernel

theorem witness_PathTimersExpire :
    let probing := fun count => { resetPath with state := .probe, helloDue := some 5, helloCount := count }
    ((probing 4).state = .probe ∧ (probing 4).helloDue = some 5 ∧ (probing 4).helloCount < 5)
      ∧ (5 ≤ (probing 5).helloCount ∧ (probing 5).retry = [])
      ∧ ((carrying resetPath).ackDeadline = some (200 * millisecond) ∧ (carrying resetPath).state = .carry
        ∧ (carrying resetPath).retry ≠ [] ∧ (carrying resetPath).retryCount < (carrying resetPath).retryLimit)
      ∧ (let tired := { carrying resetPath with retryCount := 4 }; tired.retryLimit ≤ tired.retryCount)
      ∧ { carrying resetPath with state := .drain }.state = .drain
      ∧ { carrying resetPath with state := .recover }.state = .recover
      ∧ { carrying resetPath with creditTimer := some 3 }.creditTimer = some 3
      ∧ (let asks := { carrying resetPath with requestQueued := some 3, receiveError := true }
         asks.requestQueued = some 3 ∧ asks.receiveError = true) := by decide +kernel

/-- Frames of pictures and of a clip among the entries of a failing path. -/
theorem witness_PathTimersExpire_losses :
    let video := { dataEntry with owner := Owner.video 0 5 ⟨0, 0, 9, 0⟩ }
    let mark := { dataEntry with owner := Owner.clip .mark 1 none }
    let sends := fun send => rigClip fun c =>
      { c with send := send, cursor := some ⟨.boundary (some 1) false, [], 9, 0, 0, [(0, true)]⟩ }
    (lostPictures [video, dataEntry, video]).filter (fun e => e.1 = 0) = [(0, 5, ⟨0, 0, 9, 0⟩)]
      ∧ (lostPictures [dataEntry]).filter (fun e => e.1 = 0) = []
      ∧ (lostClips [dataEntry, video] = [1] ∧ lostSegments [dataEntry, video] 1 = [0] ∧ lostItem [dataEntry] 1 = false)
      ∧ lostItem [dataEntry, mark] 1 = true ∧ 1 ∉ lostClips [video]
      ∧ ((sends .awaitConfirm).clipNamed 1).map (fun c => c.send) = some .awaitConfirm
      ∧ ((sends .sent).clipNamed 1).map (fun c => c.send) = some .sent
      ∧ (∀ g ∈ lostSegments [dataEntry] 1, g ≠ 0 → rig.store.timelines[openClip.channel].idxOf 0 <
          rig.store.timelines[openClip.channel].idxOf g)
      ∧ 0 ∈ openClip.range
      ∧ rankBefore (positionRank openClip.range (rewindPlace openClip.range 0))
        (positionRank openClip.range (.boundary (some 1) false)) = true := by decide +kernel

/-- A cell from home whose CRC does not fit. -/
def spoiltCell : List Byte := kindCredit :: List.replicate 31 0

theorem witness_FramesLeaveAndArrive :
    resetPath.transmitter = none ∧ resetPath.state = .down
      ∧ (∀ r ∈ State.reset.sched.reads, r.path = some 0 → (some 0 : Option Pointer) ≠ some r.start)
      ∧ ((carrying resetPath).state ∈ [PathState.carry, .recover, .drain] ∧ (carrying resetPath).arriving = []
        ∧ (carrying resetPath).receiveError = false)
      ∧ spoiltCell.length = 32 ∧ lengthsAgree spoiltCell = true ∧ headCells spoiltCell = 1
      ∧ (readHomeFrame spoiltCell).lengthOk = true ∧ (readHomeFrame spoiltCell).crc = .bad := by
  refine ⟨rfl, rfl, by decide +kernel, by decide +kernel, by decide, by decide +kernel, by decide +kernel,
    by decide +kernel, by decide +kernel⟩

theorem witness_AFrameReadsAsItWasBuilt :
    1 ≤ dataEntry.contents.cells ∧ dataEntry.contents.cells ≤ 16
      ∧ dataEntry.contents.payload.length ≤ 32 * dataEntry.contents.cells - 16
      ∧ (List.replicate 496 (0 : Byte)).length ≤ 32 * 16 - 16 ∧ 255 < 256 := by decide +kernel

theorem witness_AFrameGoesToThePathWithMostAllowance :
    let s := rigPath carrying
    (∀ p : Fin 4, rig.paths[p].takes 13 = false) ∧ s.paths[(0 : Fin 4)].takes 13 = true
      ∧ (∀ q : Fin 4, s.paths[q].takes 13 = true → s.paths[q].allowance < s.paths[(0 : Fin 4)].allowance
          ∨ s.paths[q].allowance = s.paths[(0 : Fin 4)].allowance ∧ (0 : Fin 4) ≤ q) := by decide +kernel

theorem witness_LateFramesLeaveTheirQueues :
    let s := { rig with sched := { rig.sched with
      tickCount := 2, audioQueue := [⟨1, 5, 0, []⟩, ⟨2, 6, 1, []⟩] } }
    leaves .audioFrameLate s (fun t => t.sched.audioQueue == [⟨2, 6, 1, []⟩]) = true := by decide +kernel

/-! ### Witnesses of the clauses of the wider statements -/

theorem witness_KeepStoreKeepsWhatClipsHold_pages :
    let s := rig.modSegment 1 fun g => { g with badPages := [2] }
    let t := keepStoreReset s
    openClip ∈ s.clipLog.clips ∧ openClip.discardPending = false
      ∧ (oldSegment ∈ s.store.segments ∧ oldSegment.state = .complete ∧ ∃ k ∈ t.clipLog.clips, oldSegment.id ∈ k.range)
      ∧ (1 < s.store.initPosition ∧ 1 ∉ t.store.retired ∧ ∀ g ∈ t.store.segments, 1 ∉ g.pages) ∧ 5 ∈ s.store.retired
      ∧ (∃ old ∈ s.store.segments, (∀ g ∈ t.store.segments, g.id ≠ old.id) ∧ 2 ∈ old.pages ∧ 2 ∈ old.badPages) := by
  decide +kernel

/-- The part at 20:14:59:40 with one cue for the next tick. -/
def oneCue (action : CueAction) (body : List Byte) : State :=
  { evening with timing := { evening.timing with cues := [⟨0, ⟨20, 14, 59, 41⟩, action, body⟩] } }

theorem witness_CuesThatFireLeaveTheList_ticks :
    let locked := { State.reset with timing := { State.reset.timing with refState := .locked, lastPulse := some 0 } }
    State.reset.ticksBy .oscillatorTick ∧ State.reset.ticksBy (.referencePulse 122880)
      ∧ locked.ticksBy (.referencePulse 215040) ∧ locked.ticksBy .lossWindowExpiry := by
  dsimp only [State.ticksBy]
  refine ⟨by decide +kernel, .inl (by decide +kernel), .inr ⟨rfl, 0, rfl, by decide +kernel⟩, rfl, 0, rfl⟩

theorem witness_CuesThatFireLeaveTheList_one :
    let set := oneCue .coderSet [byteOf 3, 0, 4, 9]
    let scene := { oneCue .sceneRecall [15, 1, 0] with
      mixer := { evening.mixer with scenes := vecSet evening.mixer.scenes 15 (some (sceneOf evening.mixer)) } }
    set.timing.stagedRate = none ∧ set.timing.cues.Nodup
      ∧ (∃ cue ∈ set.timing.cues, set.cueFires cue ∧ ∀ d ∈ set.timing.cues, d ≠ cue → ¬set.cueFires d)
      ∧ leaves .oscillatorTick set (fun t => t.coders[(3 : Fin 6)].staged.weight == some 9) = true
      ∧ scene.mixer.scenes[(15 : Fin 16)] ≠ none ∧ scene.mixer.changes.length < 64
      ∧ leaves .oscillatorTick scene (fun t => t.mixer.changes.length == 1) = true := by
  refine ⟨rfl, by decide +kernel, ⟨_, .head _, .inl (by decide +kernel), fun d h => ?_⟩, by decide +kernel,
    by decide +kernel, by decide +kernel, by decide +kernel⟩
  rcases List.mem_singleton.mp h with rfl
  exact fun n => absurd rfl n

theorem witness_CuesThatFireLeaveTheList_actions :
    (performAction noneDue .sceneRecall [3, 0, 4] State.reset).1.code = .badState
      ∧ actionLengthOk .coderSet [] = false
      ∧ (asking rig .coderSet [0, 0, 0]).asks .coderSet [0, 0, 0]
      ∧ (asking rig .sceneRecall [0, 0, 0]).asks .sceneRecall [0, 0, 0]
      ∧ (asking rig .clipMark [0, 1, 0, 0, 0]).asks .clipMark [0, 1, 0, 0, 0]
      ∧ (asking rig .clipOpen [0, 0]).asks .clipOpen [0, 0] ∧ (asking rig .clipClose [0, 1, 0]).asks .clipClose [0, 1, 0] :=
  ⟨by decide +kernel, by decide, asking_asks .., asking_asks .., asking_asks .., asking_asks .., asking_asks ..⟩

theorem witness_CuesThatFireLeaveTheList_close :
    (performAction noneDue .clipClose [0, 1, 0] rig).1.code = .accepted
      ∧ (performAction noneDue .clipClose [0, 9, 0] rig).1.code ≠ .accepted := by decide +kernel

/-- SEND_INFO's SENDING clip at a segment, at an open gap, with a marker pending and at the end of its range. -/
theorem witness_RequestsForAReport_sending :
    let at_ := fun position : Position => (⟨position, [], 2, 0, 0, []⟩ : Cursor)
    let sends := fun (k : Cursor) => rigClip fun c => { c with send := .sending, cursor := some k }
    ((sends (at_ (.inside 1 0))).sendingClip.bind fun c => c.cursor) = some (at_ (.inside 1 0))
      ∧ (at_ (.inside 1 0)).items = [] ∧ rig.segment? 1 = some newSegment ∧ newSegment.state = .filling
      ∧ { at_ .beforeStart with items := [.abort] }.items ≠ []
      ∧ (let gap : Gap := ⟨⟨0, 0, 9, 51⟩, none, some 1⟩
        { openClip with gaps := [gap] }.gaps[(at_ (.boundary (some 1) false)).gapsEmitted]? = some gap
          ∧ gap.follows = some 1 ∧ gap.count = none)
      ∧ { openClip with markers := [⟨⟨0, 0, 9, 0⟩, 1, []⟩] }.markersSent < 1
      ∧ (openClip.gaps[(0 : Nat)]? = none ∧ openClip.markers.length ≤ openClip.markersSent
        ∧ segmentAfter openClip.range (some 1) = none ∧ openClip.record ≠ .closed) := by decide +kernel

theorem witness_CoderSetStagesAllowedFields_fields :
    let body : List Byte := [5, 1, 255, 1, 7, 15, 15, 255, 0, 1, 10, 51, 100, 8]
    (asking State.reset .coderSet [6, 0, 0]).asks .coderSet [6, 0, 0] ∧ lengthOk .coderSet [6, 0, 0] = true
      ∧ 6 ≤ (6 : Byte).toNat ∧ lengthOk .coderSet [5, 2, 0] = true ∧ 2 ≤ (2 : Byte).toNat
      ∧ (asking State.reset .coderSet [5, 0, 2, 7]).asks .coderSet [byteOf 5, 0, 2, 7]
      ∧ (8 ≤ (8 : Byte).toNat ∧ (7 : Byte).toNat = (7 : Fin 8).val)
      ∧ (asking State.reset .coderSet [5, 0, 16, 16, 0]).asks .coderSet [byteOf 5, 0, 16, 16, 0]
      ∧ (asking State.reset .coderSet [5, 0, 32, 51]).asks .coderSet [byteOf 5, 0, 32, 51]
      ∧ (asking State.reset .coderSet [5, 0, 64, 52]).asks .coderSet [byteOf 5, 0, 64, 52]
      ∧ (asking State.reset .coderSet [5, 0, 128, 9]).asks .coderSet [byteOf 5, 0, 128, 9]
      ∧ (asking State.reset .coderSet [5, 1, 0, 9]).asks .coderSet [byteOf 5, 1, 0, 9]
      ∧ (asking State.reset .coderSet body).asks .coderSet body
      ∧ (modeOf (1 : Byte).toNat = some .standby ∧ (15 : Byte).toNat ≤ 15 ∧ (10 : Byte).toNat ≤ 51
        ∧ (51 : Byte).toNat ≤ 51 ∧ (9 : Byte).toNat < (10 : Byte).toNat)
      ∧ (asking State.reset .coderSet [5, 0, 1, 5]).asks .coderSet [byteOf 5, 0, 1, 5] ∧ 5 ≤ (5 : Byte).toNat :=
  ⟨asking_asks .., by decide, by decide, by decide, by decide, asking_asks .., by decide, asking_asks .., asking_asks ..,
    asking_asks .., asking_asks .., asking_asks .., asking_asks .., by decide, asking_asks .., by decide⟩

theorem witness_ATakeWritesTheStagedFields_ticks :
    let stages := vecMap (fun k : CoderChannel => { k with staged := { Staged.empty with mode := some .standby } })
    let free := { rig with coders := stages rig.coders }
    let slower := { free with timing := { rig.timing with stagedRate := some .p25 } }
    free.ticksBy .oscillatorTick ∧ free.timing.cues = [] ∧ free.timing.stagedRate = none
      ∧ leaves .oscillatorTick free (fun t => t.coders[(0 : Fin 6)].mode == .standby) = true
      ∧ slower.ticksBy .oscillatorTick ∧ slower.timing.stagedRate = some .p25
      ∧ slower.coders[(0 : Fin 6)].mode ∈ [CoderMode.record, .both]
      ∧ { recorder with mode := .both }.mode ∈ [CoderMode.live, .both]
      ∧ leaves .oscillatorTick slower (fun t => t.store.writers[(0 : Fin 6)] == ⟨.idle, none, 0⟩) = true := by
  dsimp only [State.ticksBy]
  decide +kernel

theorem witness_ATakeWritesTheStagedFields_leave :
    let s := { rig with clipLog := State.reset.clipLog }
    let t := takeStaged 0 { Staged.empty with mode := some .standby } s
    s.coders[(0 : Fin 6)].mode ∈ [CoderMode.record, .both] ∧ t.coders[(0 : Fin 6)].mode = .standby
      ∧ s.coders[(0 : Fin 6)].filling = some 1 ∧ s.segment? 1 = some newSegment ∧ 0 < newSegment.pinCount
      ∧ (let r := takeStaged 3 { Staged.empty with mode := some .record } State.reset
        r.coders[(3 : Fin 6)].mode ∈ [CoderMode.record, .both]) := by decide +kernel

theorem witness_ATakeWritesTheStagedFields_notices :
    let s := { rig with
      clipLog := State.reset.clipLog
      store := { rig.store with freePool := List.range' 8 256, writers := vecSet rig.store.writers 0 ⟨.paused, none, 3⟩ }
      ports := vecSet rig.ports 7 { resetPort with input := if rig.coders[(0 : Fin 6)].input = .lost then .present else .lost } }
    let t := takeStaged 0 { Staged.empty with mode := some .standby, source := some 7 } s
    s.clipLog.clips = [] ∧ 256 ≤ s.store.freePool.length ∧ s.coders[(0 : Fin 6)].mode ∈ [CoderMode.record, .both]
      ∧ t.coders[(0 : Fin 6)].mode ∉ [CoderMode.record, .both] ∧ t.coders[(0 : Fin 6)].input ≠ s.coders[(0 : Fin 6)].input
      ∧ (t.control.notices.map fun n => (category n.body, kindNumber n.body)) =
          (s.control.notices.map fun n => (category n.body, kindNumber n.body))
            ++ (if s.coders[(0 : Fin 6)].input = .lost then [(2, 2)] else [(2, 1)]) ++ [(4, 3), (2, 3)]
      ∧ s.coders[(1 : Fin 6)].mode ∉ [CoderMode.live, .record, .both] := by decide +kernel

/-- A picture of so many bytes, so many of them started. -/
def pictureOf (size started : Nat) : LivePicture :=
  ⟨4, ⟨0, 0, 9, 0⟩, .coded, List.replicate size 0, started, 1, 4, false⟩

theorem witness_PictureCodedCountsThePicture_room :
    occupancy [] + (pictureOf 262144 0).bytes.length ≤ 262144
      ∧ 262144 < occupancy [pictureOf 2 1] + (pictureOf 262144 0).bytes.length
      ∧ occupancy ([] ++ []) + (pictureOf 262144 0).bytes.length ≤ 262144
      ∧ (∀ q ∈ ([] : List LivePicture), q.started ≠ 0) ∧ (pictureOf 2 1).started ≠ 0
      ∧ (pictureOf 2 0).started = 0 := by
  simp only [occupancy, pictureOf, List.map_nil, List.map_cons, List.sum_nil, List.sum_cons, List.length_replicate,
    List.append_nil]
  decide

theorem witness_PictureCodedCountsThePicture_handover :
    let f : InFlight := ⟨.repeated .input, none, 26, 0, ⟨0, 0, 10, 1⟩⟩
    recorder.mode ∈ [CoderMode.record, .both] ∧ { recorder with mode := .standby }.mode ∉ [CoderMode.record, .both]
      ∧ rig.store.writers[(0 : Fin 6)].state ≠ .paused ∧ recorder.filling = some 1
      ∧ (rig.segment? 1 = some newSegment ∧ newSegment.state = .filling ∧ 1 ∉ rig.store.completion)
      ∧ distance newSegment.rate (lastPicture newSegment) f.timecode = 1
      ∧ newSegment.pictures + 1 < newSegment.segLength ∧ (codePicture 0 7 51 f).1.length = 8
      ∧ newSegment.byteLength + 8 ≤ newSegment.pages.length * 65536 ∧ newSegment.byteLength + 8 ≤ 4194304 := by
  refine ⟨by decide, by decide, by decide +kernel, rfl, by decide +kernel, by decide +kernel, by decide, ?_, by decide,
    by decide⟩
  simp [codePicture]

theorem witness_TheNextQuantiserFollowsTheFullness_coding :
    let f : InFlight := ⟨.coded, some wholePicture, 26, 0, ⟨0, 0, 10, 1⟩⟩
    (0 < 8 ∧ 2 * (8187 : Int).natAbs < 2047 * 8 ∧ 2047 * 8 ≤ 2 * (8188 : Int).natAbs ∧ 3 * (8189 : Int).natAbs < 3071 * 8)
      ∧ (-1023 ≤ (1023 : Int) - 0 ∧ (1023 : Int) - 0 ≤ 1023) ∧ (-1 : Int) ≠ 0 ∧ 1 ≤ 1024
      ∧ f.kind = .coded ∧ f.picture = some wholePicture ∧ wholePicture.wellFormed = true
      ∧ PictureKind.repeated .input ≠ .coded :=
  ⟨by decide, by decide, by decide, by decide, rfl, rfl, witness_APictureIsHeldUntilTheLoss.2.1, by decide⟩

theorem witness_RequestsForAnItem_selectors :
    (asking rig .mixerInfo [2, 11]).asks .mixerInfo [2, 11] ∧ (asking rig .mixerInfo [3, 15]).asks .mixerInfo [3, 15]
      ∧ (asking rig .mixerInfo [4, 1]).asks .mixerInfo [4, 1] ∧ (1 : Byte).toNat = (1 : Fin 2).val
      ∧ (asking rig .mixerInfo [5, 3]).asks .mixerInfo [5, 3] ∧ (asking rig .mixerInfo [6, 0]).asks .mixerInfo [6, 0]
      ∧ (asking rig .mixerInfo [7, 0]).asks .mixerInfo [7, 0] ∧ 7 ≤ (7 : Byte).toNat :=
  ⟨asking_asks .., asking_asks .., asking_asks .., rfl, asking_asks .., asking_asks .., asking_asks .., by decide⟩

theorem witness_RequestsForAListing_cursor :
    let at_ := fun position : Position => (⟨position, [], 0, 0, 0, []⟩ : Cursor)
    openClip.cursor = none ∧ { openClip with cursor := some (at_ .beforeStart) }.cursor = some (at_ .beforeStart)
      ∧ (at_ (.boundary none true)).position = .boundary none true
      ∧ (at_ (.boundary (some newSegment.id) false)).position = .boundary (some newSegment.id) false
      ∧ rig.segment? newSegment.id = some newSegment ∧ (at_ (.inside 1 8)).position = .inside 1 8
      ∧ (asking rig .clipList [4, 0, 0, 0]).asks .clipList [4, 0, 0, 0] ∧ 4 ≤ (4 : Byte).toNat
      ∧ (rig.clipLog.clips.map fun k => k.slot).Pairwise (· < ·) :=
  ⟨rfl, rfl, rfl, rfl, by decide +kernel, rfl, asking_asks .., by decide, by decide +kernel⟩

/-- The rig with one line in error, the patrol at page 1 of segment 1. -/
def worn (line : Nat) : State :=
  { rig with store := { rig.store with patrolPosition := 1, lineErrors := [(line, [7, 8])] } }

theorem witness_ErrorsOfALineAndThePatrol_damage :
    (worn 1030).pageOwner 1 = some newSegment ∧ (worn 1030).segment? newSegment.id = some newSegment
      ∧ (worn 1030).store.patrolPosition < (worn 1030).store.initPosition ∧ 1 ∉ (worn 1030).store.retired
      ∧ ((1030, [7, 8]) ∈ (worn 1030).store.lineErrors ∧ 1030 / 1024 = 1)
      ∧ (let offset := newSegment.pages.idxOf 1 * 65536 + (1030 * 64 - 1 * 65536)
        (∀ j ≤ 48, ∃ start, newSegment.index[j]? = some start ∧ start ≤ offset)
          ∧ (∀ start ∈ newSegment.index[49]?, offset < start) ∧ offset < newSegment.byteLength)
      ∧ (let offset := newSegment.pages.idxOf 1 * 65536 + (1031 * 64 - 1 * 65536)
        (∀ j ≤ 50, ∃ start, newSegment.index[j]? = some start ∧ start ≤ offset)
          ∧ newSegment.index[51]? = none ∧ newSegment.byteLength ≤ offset) := by
  have starts : ∀ n ≤ 50, newSegment.index[n]? = some (8 * n) := by decide +kernel
  refine ⟨by decide +kernel, by decide +kernel, by decide +kernel, by decide +kernel, by decide +kernel,
    ⟨fun j h => ⟨8 * j, starts j (by omega), ?_⟩, by decide +kernel, by decide +kernel⟩,
    ⟨fun j h => ⟨8 * j, starts j h, ?_⟩, by decide +kernel, by decide +kernel⟩⟩
  · have : newSegment.pages.idxOf 1 * 65536 + (1030 * 64 - 1 * 65536) = 384 := by decide
    omega
  · have : newSegment.pages.idxOf 1 * 65536 + (1031 * 64 - 1 * 65536) = 448 := by decide
    omega

theorem witness_ErrorsOfALineAndThePatrol_marking :
    rig.segment? 0 = some oldSegment ∧ oldSegment.damage = none
      ∧ { oldSegment with damage := some ⟨3, 4, .patrol⟩ }.damage = some ⟨3, 4, .patrol⟩
      ∧ (rig.clipLog.clips = [openClip] ∧ 0 ∈ openClip.range ∧ openClip.damaged = false)
      ∧ (∀ k ∈ (rigClip fun c => { c with damaged := true }).clipLog.clips, 0 ∈ k.range → k.damaged = true) := by
  decide +kernel

/-- The rig with a read of the last bytes of segment 0 in progress for clip 1, and a sum so far. -/
def reading (sum : Digest) : State :=
  { rigClip (fun c => { c with cursor := some ⟨.inside 0 400, [], 3, 0, sum, []⟩ }) with
    store := { rig.store with lineErrors := [] }
    sched := { rig.sched with reads := [{ readOfClip with offset := 368 }] } }

theorem witness_ADemandReadFillsItsFrame_ends :
    let read : DemandRead := { readOfClip with offset := 368 }
    let sum := fun k : Cursor => onesAddBytes k.segmentSum read.offset ((List.range read.length).map fun i =>
      memRead rig.store.dram (segAddress read.pages (read.offset + i)))
    (reading 7).sched.reads.find? (fun r => r.clip == 1) = some read ∧ read.use = .cursor
      ∧ (reading 7).store.lineErrors = [] ∧ read.segment = some 0 ∧ (reading 7).segment? 0 = some oldSegment
      ∧ oldSegment.damage = none ∧ read.offset + read.length = oldSegment.byteLength
      ∧ ((reading 7).clipNamed 1).isSome = true
      ∧ sum ⟨.inside 0 400, [], 3, 0, 7, []⟩ = oldSegment.digest ∧ sum ⟨.inside 0 400, [], 3, 0, 8, []⟩ ≠ oldSegment.digest := by
  decide +kernel

theorem witness_ADemandReadFillsItsFrame_poison :
    let contents := dataEntry.contents
    2 ≤ (errorBits [(0, [7, 8])] (segAddress readOfClip.pages 31 / 64)).length
      ∧ (readOfClip.offset - readOfClip.offset % 64 ≤ 31 ∧ 31 < readOfClip.offset + readOfClip.length)
      ∧ (⟨contents, ⟨false, 0, 0, 0, false⟩, some 0⟩ : PathFrame).entry = some readOfClip.start
      ∧ (oldSegment.index[0]? = some 0 ∧ 0 ≤ 31 - 31 % 64 ∧ oldSegment.index[1]? = some 8 ∧ 31 - 31 % 64 < 8)
      ∧ (readOfClip.segment = some 0 ∧ rig.segment? 0 = some oldSegment ∧ oldSegment.pages[31 / 65536]? = some 0)
      ∧ ((loseSegment 0 readOfClip).segment = none
        ∧ [loseSegment 0 readOfClip].find? (fun r => r.clip == 1) = some (loseSegment 0 readOfClip)) := by decide +kernel

/-- The rig with no clip, so many pages free from page 8 on, and its writer in a state. -/
def storing (pages : Nat) (w : Writer) : State :=
  { rig with
    clipLog := State.reset.clipLog
    store := { rig.store with freePool := List.range' 8 pages, writers := vecSet rig.store.writers 0 w } }

theorem witness_TheWriterStoresInItsSegmentAlone_segment :
    let closing := rigClip fun c => { c with record := .closing, outSegment := some 1 }
    let odd := { newSegment with byteLength := 407 }
    rig.coders[(0 : Fin 6)].filling = some 1 ∧ rig.segment? 1 = some newSegment
      ∧ (closing.clip? 1).map (fun k => (k.record, k.outSegment)) = some (.closing, some 1)
      ∧ (∀ k ∈ rig.clipLog.clips, k.outSegment ≠ some 1) ∧ 0 < newSegment.pinCount
      ∧ (odd.byteLength % 2 = 1 ∧ odd.pages.Nodup ∧ odd.byteLength < odd.pages.length * 65536)
      ∧ ((∀ g ∈ rig.store.segments, g.id ≠ 2) ∧ ∀ j < 2, ∃ g ∈ rig.store.segments, g.id = j)
      ∧ 256 + (65536 + 65535) / 65536 ≤ (storing 257 resetWriter).store.freePool.length
      ∧ ((rig.clip? 1).map fun k => (k.record, k.channel)) = some (.opened, 0)
      ∧ rig.fillingSegment 0 = some newSegment
      ∧ distance newSegment.rate (lastPicture newSegment) ⟨0, 0, 10, 2⟩ ≠ 1
      ∧ distance newSegment.rate (lastPicture newSegment) ⟨0, 0, 10, 1⟩ = 1 := by decide +kernel

theorem witness_TheWriterStoresInItsSegmentAlone_length :
    let last := (storing 256 resetWriter).modSegment 1 fun g => { g with segLength := 52 }
    let g := { newSegment with segLength := 52 }
    last.fillingSegment 0 = some g ∧ last.clipLog.clips = [] ∧ 256 ≤ last.store.freePool.length
      ∧ g.byteLength + ([1, 2, 3] : List Byte).length ≤ g.pages.length * 65536 ∧ g.pictures + 1 = g.segLength := by
  decide +kernel

theorem witness_TheWriterStoresInItsSegmentAlone_pause :
    let full := { rig with
      coders := vecSet rig.coders 0 { recorder with filling := none }, store := { rig.store with freePool := [] } }
    let paused := storing 257 ⟨.paused, some ⟨0, 0, 9, 30⟩, 4⟩
    (full.store.freePool.length < (8 + 65535) / 65536 ∧ (∀ g ∈ full.store.segments, 0 < g.pinCount)
      ∧ full.coders[(0 : Fin 6)].filling = none ∧ full.store.writers[(0 : Fin 6)].state ≠ .paused)
      ∧ ((full.clipLog.clips.map fun k => k.id).Nodup ∧ full.clip? 1 = some openClip ∧ openClip.record = .opened
        ∧ openClip.channel = 0 ∧ openClip.inPending = false ∧ openClip.outPending = false ∧ openClip.gaps.length < 16)
      ∧ (paused.store.writers[(0 : Fin 6)].state = .paused ∧ 1 < paused.coders[(0 : Fin 6)].segLength
        ∧ 256 + (8 + 65535) / 65536 ≤ paused.store.freePool.length
        ∧ paused.store.writers[(0 : Fin 6)].gapStart = some ⟨0, 0, 9, 30⟩ ∧ paused.clipLog.clips = []) := by decide +kernel

theorem witness_TheWriterStoresInItsSegmentAlone_line :
    (errorBits rig.store.lineErrors (segAddress [3, 4] (330 - 330 % 64) / 64)).length ≤ 1
      ∧ 330 - 330 % 64 ≤ 320 ∧ 320 < 330 ∧ 332 < (330 + 2 + 63) / 64 * 64 := by decide +kernel

/-- The rig at 00:00:12:00, with its old segment ten pictures shorter and its writer paused from 00:00:10:01 on. -/
def broken : State :=
  { rig.modSegment 0 fun g => { g with pictures := 40 } with
    timing := { rig.timing with timecode := ⟨0, 0, 12, 0⟩ }
    store := { rig.store with
      segments := [{ oldSegment with pictures := 40 }, newSegment]
      writers := vecSet rig.store.writers 0 ⟨.paused, some ⟨0, 0, 10, 1⟩, 90⟩ } }

theorem witness_ClipOpenTakesARecord_placement :
    let old := { oldSegment with pictures := 40 }
    let holds := fun (g : Segment) (t : Timecode) => distance g.rate g.firstTimecode t < g.pictures
    broken.timelineNow 0 = [old, newSegment] ∧ broken.coders[(0 : Fin 6)].handed = true
      ∧ broken.coders[(1 : Fin 6)].handed = false ∧ broken.timelineNow 1 = []
      ∧ (holds old ⟨0, 0, 8, 39⟩ ∧ ¬holds newSegment ⟨0, 0, 8, 39⟩)
      ∧ (¬holds old ⟨0, 0, 7, 49⟩ ∧ ¬holds newSegment ⟨0, 0, 7, 49⟩
        ∧ broken.earlier ⟨0, 0, 7, 49⟩ old.firstTimecode = true)
      ∧ (¬holds old ⟨0, 0, 8, 40⟩ ∧ ¬holds newSegment ⟨0, 0, 8, 40⟩
        ∧ broken.earlier ⟨0, 0, 8, 40⟩ old.firstTimecode = false
        ∧ broken.earlier ⟨0, 0, 8, 40⟩ newSegment.firstTimecode = true)
      ∧ (¬holds old ⟨0, 0, 10, 1⟩ ∧ ¬holds newSegment ⟨0, 0, 10, 1⟩
        ∧ (∀ h ∈ broken.timelineNow 0, broken.earlier ⟨0, 0, 10, 1⟩ h.firstTimecode = false)
        ∧ broken.store.writers[(0 : Fin 6)].state = .paused
        ∧ broken.store.writers[(0 : Fin 6)].gapStart = some ⟨0, 0, 10, 1⟩
        ∧ broken.earlier ⟨0, 0, 10, 1⟩ ⟨0, 0, 10, 1⟩ = false) := by decide +kernel

theorem witness_ClipOpenTakesARecord_heldId :
    let s := { rig with clipLog := { rig.clipLog with nextId := 1 } }
    1 ≤ s.clipLog.nextId ∧ s.clipLog.nextId ≤ 65535 ∧ (∀ k ∈ s.clipLog.clips, k.id ≠ 2)
      ∧ (2 + 65535 - s.clipLog.nextId) % 65535 = 1
      ∧ ∀ j < 1, ∃ k ∈ s.clipLog.clips, k.id = (s.clipLog.nextId - 1 + j) % 65535 + 1 := by decide +kernel

theorem witness_AnAudioBlockTick_returns :
    let r : ReturnBuffer := resetReturn
    let played := List.replicate 16 ((5 : Sample), (-5 : Sample))
    r.state = .priming ∧ { r with state := .playing, queue := [played] }.queue = played :: []
      ∧ ({ r with state := .playing, lastPlayed := some played }.queue = [] ∧ r.emptyTicks = 0)
      ∧ { r with emptyTicks := 1 }.emptyTicks ≠ 0 ∧ played[15]? = some ((5 : Sample), (-5 : Sample)) := by decide +kernel

theorem witness_AnAudioBlockTick_streams :
    let stream : Stream := { resetStream with setting := some (0, 11), blocks := List.replicate 3 (List.replicate 16 (1, 2)) }
    stream.setting = some (0, 11) ∧ stream.blocks.length = 3 ∧ (∀ block ∈ stream.blocks, block.length = 16)
      ∧ (3 : Counter).toNat % 4 = 3 ∧ (4 : Counter).toNat % 4 ≠ 3 ∧ State.reset.sched.audioQueue.length < 512
      ∧ { resetStream with staged := some (some (0, 1)) }.staged = some (some (0, 1)) := by decide +kernel

/-- A frame from home, whole and in its place. -/
def fromHome (kind : Byte) (count : Nat) : HomeFrame :=
  { kind := kind, cells := 1, lengthOk := true, stream := 0, retryRequest := false, sequence := 0, count := count
    payload := List.replicate count 0, creditReturn := 0, sendPointer := 0, ackPointer := 0, crc := .whole }

/-- The rig with its first path in PROBE, RECOVER or DRAIN. -/
def inState (state : PathState) : State := rigPath fun path => { carrying path with state := state }

theorem witness_FramesLeaveAndArrive_hello :
    let reply := fun ceiling => { fromHome 0x03 2 with payload := bigEndian 2 ceiling }
    (inState .probe).paths[(0 : Fin 4)].state = .probe ∧ (reply 16).lengthOk = true ∧ (reply 16).crc = .whole
      ∧ 2 ≤ (reply 16).count ∧ field (reply 15).payload 0 2 < 16 ∧ 4095 < field (reply 4096).payload 0 2
      ∧ field (reply 16).payload 0 2 = 16 ∧ field (reply 4095).payload 0 2 = 4095 ∧ (fromHome 0x02 2).kind ≠ 0x03 := by
  decide +kernel

theorem witness_FramesLeaveAndArrive_acks :
    let path := (rigPath carrying).paths[(0 : Fin 4)]
    path.state = .carry ∧ path.retry = [dataEntry] ++ [] ∧ dataEntry.contents.cells = 2
      ∧ (2 + 512 - path.acked.toNat) % 512 = 2 ∧ (0 + 512 - path.acked.toNat) % 512 = 0 ∧ 511 < 512
      ∧ (1 + 512 - path.acked.toNat) % 512 = 1
      ∧ (∀ n, (([dataEntry].take n).map fun e => e.contents.cells).sum ≠ 1)
      ∧ path.homeRetry = false ∧ path.retry ≠ [] ∧ path.retryCount < path.retryLimit := by
  refine ⟨rfl, rfl, rfl, by decide, by decide, by decide, by decide, fun n => ?_, rfl, by decide, by decide⟩
  cases n <;> simp [dataEntry]

theorem witness_FramesLeaveAndArrive_replay :
    let replaying := fun place => (rigPath fun path =>
      { carrying path with state := .recover, replay := some place }).paths[(0 : Fin 4)]
    (replaying 0).state = .recover ∧ (replaying 0).transmitter = none ∧ (replaying 0).control = []
      ∧ (replaying 0).retry[0]? = some dataEntry ∧ (replaying 1).retry.length ≤ 1 ∧ (replaying 1).retry ≠ []
      ∧ (let drained := (rigPath fun path => { path with state := .drain }).paths[(0 : Fin 4)]
        drained.state = .drain ∧ drained.transmitter = none ∧ drained.control = [] ∧ drained.retry = []) := by
  decide +kernel

theorem witness_FramesLeaveAndArrive_checks :
    let sequenced := fun f : HomeFrame => f.kind.toNat = 0 ∨ 5 < f.kind.toNat
    let data := fromHome kindReturnAudio 392
    (inState .recover).paths[(0 : Fin 4)].state ∈ [PathState.carry, .recover, .drain]
      ∧ (inState .recover).paths[(0 : Fin 4)].receiveError = false
      ∧ { data with lengthOk := false }.lengthOk = false ∧ { data with crc := .bad }.crc = .bad
      ∧ ({ fromHome 0x01 0 with crc := .poisoned }.crc = .poisoned ∧ ¬sequenced (fromHome 0x01 0))
      ∧ (sequenced data ∧ { data with sendPointer := 1 }.sendPointer ≠ resetPath.expected.toNat)
      ∧ (data.sendPointer = resetPath.expected.toNat ∧ 256 < { resetPath with unreturned := 256 }.unreturned + data.cells)
      ∧ ({ resetPath with receiveError := true }.receiveError = true ∧ (fromHome 0x04 0).kind = 0x04
        ∧ (fromHome 0x04 0).ackPointer = resetPath.acked.toNat ∧ resetPath.credit ≤ resetPath.ceiling) := by decide +kernel

theorem witness_FramesLeaveAndArrive_good :
    let path := (rigPath carrying).paths[(0 : Fin 4)]
    (path.state = .carry ∧ path.receiveError = false ∧ path.credit ≤ path.ceiling)
      ∧ (∀ f ∈ [fromHome kindCredit 0, fromHome kindHello 3, fromHome kindHelloReply 2, fromHome kindClose 0],
        f.lengthOk = true ∧ f.retryRequest = false ∧ f.creditReturn = 0 ∧ f.ackPointer = path.acked.toNat
          ∧ f.crc = .whole ∧ ¬(f.kind.toNat = 0 ∨ 5 < f.kind.toNat))
      ∧ ∀ f ∈ [fromHome kindReturnAudio 392, fromHome kindClipConfirm 4, fromHome kindHomeMessage 0, fromHome 0 0],
        f.kind.toNat = 0 ∨ 5 < f.kind.toNat → f.sendPointer = path.expected.toNat ∧ path.unreturned + f.cells ≤ 256 := by
  decide +kernel

theorem witness_FramesLeaveAndArrive_short :
    (∀ f ∈ [fromHome kindHelloReply 1, fromHome kindClipConfirm 3], f.lengthOk = true ∧ f.crc = .whole)
      ∧ (fromHome kindHelloReply 1).count < 2 ∧ (fromHome kindClipConfirm 3).count < 4
      ∧ (let f : PathFrame := ⟨dataEntry.contents, ⟨false, 0, 0, 0, false⟩, some 0⟩
        let s := rigPath fun path => { carrying path with transmitter := some f }
        let s := { s with sched := { s.sched with reads := [readOfClip] } }
        s.paths[(0 : Fin 4)].transmitter = some f ∧ s.sched.reads = [] ++ readOfClip :: []
          ∧ readOfClip.path = some 0 ∧ f.entry = some readOfClip.start
          ∧ leaves (.pathFrameEnd 5 0) s (fun t => !t.sched.reads.contains readOfClip) = true) := by decide +kernel

theorem witness_SampleFramesJoinTheirQueues_return :
    2 ≤ (2 : Byte).toNat ∧ (List.replicate 391 (0 : Byte)).length ≠ 392 ∧ (List.replicate 392 (0 : Byte)).length = 392
      ∧ (1 : Byte).toNat = (1 : Fin 2).val ∧ (resetReturn.state = .priming ∧ resetReturn.threshold ≤ 4 * 8)
      ∧ { resetReturn with expected := some 7 }.expected.filter (fun e => e != (8 : Seq)) = some 7 := by decide +kernel

/-- The rig with a path that can take frames, its clip closed and QUEUED under a number, and one live picture. -/
def sendingRig (f : Clip → Clip) : State :=
  let s := rigPath fun path => { carrying path with allowance := 40 }
  let s := s.modClip 1 fun c => f { c with
    record := .closed, send := .queued, queueNumber := some 4, cursor := some ⟨.beforeStart, [], 0, 0, 0, []⟩ }
  s.modCoder 0 fun k => { k with liveBuffer := [pictureOf 600 0] }

theorem witness_TheSchedulerLeavesTheRestAlone :
    let s := rigPath fun path => { carrying path with retry := [] }
    let t := { s with sched := { s.sched with audioQueue := [⟨1, 5, 0, []⟩] } }
    (clipStep (sendingRig id)).isSome = true
      ∧ (clipStep t).isNone = true ∧ (chooseFrame t).isSome = true
      ∧ (clipStep State.reset).isNone = true ∧ (chooseFrame State.reset).isNone = true := by decide +kernel

theorem witness_AFrameGoesToThePathWithMostAllowance_classes :
    let s := sendingRig id
    chooseAudio s = none ∧ s.paths[(0 : Fin 4)].takes ((496 + 47) / 32) = true
      ∧ (∀ q : Fin 4, s.paths[q].takes 16 = true → q = 0) ∧ s.coders[(0 : Fin 6)].liveBuffer = pictureOf 600 0 :: []
      ∧ s.sched.channelAllowance[(0 : Fin 6)] < 16 ∧ (chooseVideo true s 0).isNone = true
      ∧ (chooseVideo false s 0).isSome = true
      ∧ (let t := sendingRig fun c => { c with send := .sending }
        let t := { t with sched := { t.sched with clipAllowance := 40 } }
        chooseAudio t = none ∧ (∀ c : Fin 6, (chooseVideo true t c).isNone = true)
          ∧ (chooseClip true t).isSome = true) := by decide +kernel

theorem witness_AFrameGoesToThePathWithMostAllowance_choice :
    let s := sendingRig id
    (∀ d ∈ s.clipLog.clips, d.send ≠ .sending) ∧ (∀ d ∈ s.clipLog.clips, s.clip? d.id = some d)
      ∧ (∀ d ∈ s.clipLog.clips, d.send = .queued ∧ d.hold = false ∧ d.discardPending = false ∧ d.urgent = false)
      ∧ (s.clipLog.clips.map fun d => aheadOf s d) = [.item .start]
      ∧ ((sendingRig fun c => { c with hold := true }).clipLog.clips.map fun d => d.hold) = [true]
      ∧ (let t := sendingRig fun c => { c with send := .sending, record := .opened, cursor := some ⟨.inside 1 0, [], 2, 0, 0, []⟩ }
        (t.sendingClip.map fun d => aheadOf t d) = some .waits) := by decide +kernel

/-- A CLIP_HOLD on a SENDING clip that waits holds it at once, while a loan runs too (R187). -/
theorem test_holdDuringALoan :
    let s := rigClip fun c => { c with send := .sending, cursor := some ⟨.inside 1 0, [], 2, 0, 0, []⟩ }
    let s := { s with sched := { s.sched with loan := some ⟨9, 8⟩ } }
    leaves .clipHold (asking s .clipHold [0, 1]) (fun t => (t.clip? 1).map (fun c => c.send) == some .held) = true := by
  decide +kernel

/-- A borrower chosen SENDING in its own loan is checked at its last boundary as any other SENDING clip (R187). -/
theorem test_heldAtTheEndOfItsLoan :
    let k : Cursor := ⟨.boundary (some 1) false, [], 9, 0, 0, [(0, true), (1, true)]⟩
    let c := { openClip with send := .sending, record := .closed, hold := true, cursor := some k }
    let s := rigClip fun _ => c
    let s := { s with sched := { s.sched with loan := some ⟨9, 1⟩ } }
    (s.sendingClip = some c ∧ s.clip? c.id = some c ∧ s.sched.loan = some ⟨9, c.id⟩ ∧ clipNext s c k = .pass)
      ∧ ((serve s).clip? 1).map (fun c => c.send) = some .held := by decide +kernel

/-- A demand read with two uncorrectable lines marks the pictures of both (R82). -/
theorem test_twoBadLinesOfARead :
    let s := { rig with store := { rig.store with lineErrors := [(1, [0, 1]), (3, [5, 6])] } }
    let r : DemandRead := ⟨1, none, 0, some 0, [0], 0, 256, .rewound⟩
    ((endRead r s).segment? 0).map (fun g => (g.damage, g.badPages)) = some (some ⟨8, 24, .demand⟩, [0]) := by
  decide +kernel

/-- A segment freed while it is read, whose record a writer opens again on the same page before the read ends: the new
FILLING segment is not the one read, and is not marked (R67, R81, R189). -/
theorem test_readOfAFreedSegmentMarksNone :
    let s := { rig.modSegment 0 (fun g => { g with pinCount := 0, badPages := [] }) with
      sched := { rig.sched with reads := [{ readOfClip with use := .freed }] } }
    let t := freeSegment 0 s
    let opened := (openSegment 0 ⟨0, 0, 10, 1⟩ 100 { t with store := { t.store with lineErrors := [(0, [7, 8])] } }).2
    let ended := (opened.sched.reads.foldl (fun s r => endRead r s) opened)
    (opened.sched.reads.map fun r => (r.segment, r.pages)) = [(none, [0])]
      ∧ (opened.segment? 0).map (fun g => (g.state, g.pages)) = some (.filling, [0])
      ∧ ended.segment? 0 = opened.segment? 0 ∧ ended.control = opened.control
      ∧ ended.store.uncorrectable = opened.store.uncorrectable + 1 ∧ ended.sched.reads = [] := by
  decide +kernel

theorem witness_AFrameGoesToThePathWithMostAllowance_boundary :
    let k : Cursor := ⟨.boundary (some 1) false, [], 9, 0, 0, [(0, true), (1, true)]⟩
    let c := { openClip with send := .sending, cursor := some k }
    let s := rigClip fun _ => c
    (s.sendingClip = some c ∧ s.clip? c.id = some c ∧ s.sched.loan = none ∧ c.discardPending = false)
      ∧ clipNext s c k = .pass ∧ segmentAfter c.range (some 1) = none ∧ segmentAfter c.range (some 0) = some 1
      ∧ clipNext s { c with hold := true } { k with position := .boundary (some 0) false } = .pass
      ∧ (∀ d ∈ s.clipLog.clips, d.send = .queued ∧ d.hold = false → d.rating ≤ c.rating)
      ∧ { k with position := .boundary (some 1) true }.position = .boundary (some 1) true
      ∧ c.gaps.length ≤ k.gapsEmitted := by decide +kernel

theorem witness_AFrameGoesToThePathWithMostAllowance_preempted :
    let low := { openClip with send := .sending }
    let high := { openClip with id := 2, slot := 1, rating := 7, send := .queued }
    let s := { rig with clipLog := { rig.clipLog with clips := [low, high] } }
    s.clip? low.id = some low ∧ low.hold = false ∧ low.urgent = false ∧ low.discardPending = false
      ∧ ∃ d ∈ s.clipLog.clips, (d.send = .queued ∧ d.hold = false) ∧ low.rating < d.rating := by decide +kernel

theorem witness_AFrameGoesToThePathWithMostAllowance_items :
    let at_ := fun position : Position => (⟨position, [], 2, 0, 0, []⟩ : Cursor)
    let spoilt := { oldSegment with damage := some ⟨0, 0, .patrol⟩ }
    { at_ .beforeStart with items := [.abort] }.items = .abort :: [] ∧ (at_ .beforeStart).items = []
      ∧ rig.segment? 1 = some newSegment ∧ newSegment.state = .filling ∧ rig.segment? 0 = some oldSegment
      ∧ oldSegment.state = .complete ∧ oldSegment.damage = none ∧ spoilt.damage ≠ none
      ∧ (∀ r ∈ rig.sched.reads, r.clip = 1 → r.use = .freed) ∧ (readOfClip.clip = 1 ∧ readOfClip.use ≠ .freed)
      ∧ (openClip.gaps.length ≤ 0 ∧ openClip.markers.length ≤ openClip.markersSent
        ∧ segmentAfter openClip.range (some 1) = none) := by decide +kernel

theorem witness_AFrameGoesToThePathWithMostAllowance_rewind :
    let c := { openClip with send := .sending, cursor := some ⟨.boundary (some 1) false, [], 9, 0, 0, [(0, true)]⟩ }
    let s := rigClip fun _ => c
    s.clip? c.id = some c ∧ c.discardPending = false ∧ c.send ∈ [SendState.queued, .sending, .held, .awaitConfirm]
      ∧ c.range = [0] ++ 1 :: [] ∧ ([0] : List Nat) ≠ [] ∧ 1 ∉ [0] ∧ (1 ∈ [1] ∧ 1 ∉ [0]) := by decide +kernel

/-- The rig with a path in CARRY meets every invariant, and a step from it answers a next state. -/
theorem witness_EveryStepKeepsMemoryCanonical :
    rig.memoryCanonical ∧ leaves .audioFrameLate rig (fun _ => true) = true :=
  ⟨⟨by decide +kernel, by decide +kernel⟩, by decide +kernel⟩

/-! ### Witnesses of the clauses on closing, trimming, reclaim, mixing and the refill -/

theorem witness_ClipCloseFindsItsOutSegment_places :
    let t : Timecode := ⟨0, 0, 10, 0⟩
    let gap := fun follows : Option Nat => (⟨⟨0, 0, 9, 0⟩, some 51, follows⟩ : Gap)
    let outside := { openClip with range := [0] }
    (recorder.handed = true ∧ rig.timelineNow 0 = [oldSegment] ++ newSegment :: []
        ∧ distance newSegment.rate newSegment.firstTimecode t < newSegment.pictures ∧ newSegment.id ∈ openClip.range)
      ∧ (newSegment.id ∉ outside.range ∧ rig.earlier t (gap none).start = false
        ∧ distance rig.timing.rate (gap none).start t < 51 ∧ ¬distance rig.timing.rate (gap none).start t < 50)
      ∧ rig.placeOut { outside with gaps := [gap (some 0)] } t = .inSegment 0 true
      ∧ rig.placeOut { outside with gaps := [gap none] } t = .empty
      ∧ (rig.segment? 0 = some oldSegment ∧ rig.earlier oldSegment.firstTimecode t = true)
      ∧ rig.placeOut outside t = .inSegment 0 true ∧ rig.placeOut { openClip with range := [] } t = .empty
      ∧ (rig.modSegment 1 fun g => { g with pictures := 50 }).placeOut openClip t = .inSegment 1 true := by
  decide +kernel

theorem witness_ClipCloseFindsItsOutSegment_closes :
    let closes := fun (range : List Nat) (p : Clip → Bool) =>
      leaves .clipClose (asking (rigClip fun c => { c with range := range }) .clipClose (0 :: 1 :: pointBytes none))
        fun t => (t.clip? 1).any p
    closes [0] (fun k => k.range == [0] && k.outPoint == some ⟨0, 0, 8, 49⟩ && k.clamped && k.record == .closed) = true
      ∧ closes [] (fun k => k.range == [] && k.outPoint == some ⟨0, 0, 10, 0⟩ && !k.clamped && k.record == .closed) = true
      ∧ segmentsAfter (some 1) openClip.range = [] ∧ segmentsAfter (some 0) openClip.range = [1]
      ∧ 256 ≤ (List.range 256).length := by decide +kernel

theorem witness_KeepStoreKeepsWhatClipsHold_trim :
    let gaps : List Gap := [⟨⟨0, 0, 8, 20⟩, none, some 0⟩, ⟨⟨0, 0, 8, 30⟩, some 3, some 1⟩, ⟨⟨0, 0, 9, 0⟩, some 3, some 0⟩]
    let kept := fun s : State => (keepStoreReset s).clipLog.clips.map fun k => (k.range, k.outPoint, k.gaps)
    kept (rigClip fun c => { c with gaps := gaps }) = [([0], some ⟨0, 0, 8, 49⟩, [⟨⟨0, 0, 8, 20⟩, some 29, some 0⟩])]
      ∧ kept (rig.modSegment 0 fun g => { g with state := .filling }) = [([], some ⟨0, 0, 8, 0⟩, [])] := by
  decide +kernel

theorem witness_PictureCodedCountsThePicture_live :
    let f : InFlight := ⟨.repeated .input, none, 26, 0, ⟨0, 0, 10, 1⟩⟩
    let k := { recorder with mode := .live, inFlight := some f }
    k.inFlight = some f ∧ k.mode ∈ [CoderMode.live, .both] ∧ recorder.mode ∉ [CoderMode.live, .both]
      ∧ occupancy k.liveBuffer + (codePicture 0 k.sequence k.qMax f).1.length ≤ 262144 := by
  refine ⟨rfl, by decide, by decide, ?_⟩
  have empty : occupancy recorder.liveBuffer = 0 := by decide +kernel
  simp [codePicture, empty]

theorem witness_APinnedSegmentIsNeverReclaimed_frees :
    let free := { oldSegment with pinCount := 0, badPages := [0] }
    let s := rig.modSegment 0 fun _ => free
    (s.store.completion = [] ++ 0 :: [] ∧ s.segment? 0 = some free ∧ free.pinCount = 0 ∧ s.store.freePool.length < 256)
      ∧ ((reclaimPages s).store.retired = [0, 5] ∧ (reclaimPages s).store.completion = [])
      ∧ (reclaimPages (rig.modSegment 0 fun g => { g with pinCount := 0 })).store.freePool = [0, 3, 4, 6, 7]
      ∧ (∀ id ∈ rig.store.completion, ∀ g ∈ rig.segment? id, 0 < g.pinCount)
      ∧ (rig.segment? 0 = some oldSegment ∧ oldSegment.pinCount = 1 ∧ oldSegment.state = .complete)
      ∧ rig.store.freePool = 3 :: [4, 6, 7] ∧ s.store.freePool.Pairwise (· < ·) ∧ 256 ≤ (List.range 256).length := by
  decide +kernel

/-- Halves are rounded upward (R127), and 2^23 - 1 at twice the whole gain is set to the limit. -/
theorem witness_AMixMinusLeavesItsChannelOut_values :
    let m := { State.reset.mixer with
      channels := vecModify State.reset.mixer.channels 4 fun k =>
        { k with gain := ⟨8192, none⟩, sends := vecSet k.sends 3 ⟨16384, none⟩ }
      buses := vecModify State.reset.mixer.buses 3 fun b => { b with mode := .mix, gain := ⟨32767, none⟩ } }
    let gained := vecSet (Vector.replicate 32 (List.replicate 16 (0 : Int))) 4 (8388607 :: List.replicate 15 (-1))
    gainedRaw m 4 [1, -1, 3, -3] = [1, 0, 2, -1] ∧ (∀ c : Fin 32, gained[c].length = 16)
      ∧ m.buses[(3 : Fin 12)].mode = .mix ∧ busBlock m gained 3 = (8388607 :: List.replicate 15 (-2), 1)
      ∧ (∀ b : Fin 12, (Vector.replicate 12 (List.replicate 16 (7 : Sample)))[b].length = 16)
      ∧ (sidePairs (Vector.replicate 12 (List.replicate 16 7)) (some 11) none)[15]? = some (7, 0)
      ∧ m.buses[(3 : Fin 12)].mode ≠ .off
      ∧ (meterBlock ([5, -8388608], 1) m.buses[(3 : Fin 12)]).meterPeak = 8388608 := by decide +kernel

theorem witness_AMixMinusLeavesItsChannelOut_tick :
    let m := State.reset.mixer
    (m.periodCount + 1 < m.meterPeriod ∧ ∀ i : Fin 4, m.streams[i].setting = none)
      ∧ (23 = 8 * (2 : Fin 3).val + 7 ∧ 27 = 24 + 2 * (1 : Fin 2).val + 1 ∧ 30 = 28 + 2 * (1 : Fin 2).val
        ∧ 31 = 29 + 2 * (1 : Fin 2).val) := by decide +kernel

/-- The refill of R175, in a path that is DOWN, at a live channel and at another. -/
theorem test_refill :
    let s := { rigPath (fun path => { path with allowance := 3 }) with
      alloc := { rig.alloc with
        pathRate := #v[120, 0, 4095, 7], live := vecSet rig.alloc.live 2 true, budget := Vector.replicate 6 31
        clipAllowance := 9 } }
    let t := schedulerTick s
    t.paths[(0 : Fin 4)].allowance = 120 ∧ t.paths[(2 : Fin 4)].allowance = 4095
      ∧ t.sched.channelAllowance = #v[0, 0, 31, 0, 0, 0] ∧ t.sched.clipAllowance = 9 := by decide +kernel

/-! ### Witnesses of the clauses on resets, leaving, coding, the patrol, settling, rewinds and PATH_SET -/

theorem witness_AResetActsWhenItsReplyHasLeft_lost :
    let s := { crowded 0 7 with control := { (crowded 0 7).control with
      queue := [readyEntry] ++ waitingEntry .reset [1] :: [waitingEntry .status [], waitingEntry .status []] } }
    8 - s.control.busy.length = 1
      ∧ leaves .reset s (fun t => t.control.requestsLost == 1) = true
      ∧ leaves (.powerOn State.reset.straps) (sending (.reply 1 1 ⟨.ok, .scope .full⟩)) (fun _ => true) = true
      ∧ (sending (.reply 1 1 ⟨.ok, .scope .keepStore⟩)).control.transmitter =
        some (.reply 1 1 ⟨.ok, .scope .keepStore⟩) := by decide +kernel

theorem witness_KeepStoreKeepsWhatClipsHold_writers :
    let t := keepStoreReset (broken.modStore fun st => { st with patrolPosition := 5, patrolInterval := 7, reclaimed := 3 })
    (broken.store.writers[(0 : Fin 6)].state = .paused ∧ t.store.writers[(0 : Fin 6)] = ⟨.idle, none, 0⟩)
      ∧ (t.store.patrolPosition = 0 ∧ t.store.patrolInterval = 20 ∧ t.store.reclaimed = 0) := by decide +kernel

/-- An OPEN clip of the channel that leaves, a CLOSING one that waits on its segment, one of another channel, and a pause. -/
theorem witness_ATakeWritesTheStagedFields_clips :
    let closing := { openClip with record := .closing, outSegment := some 1, outPoint := some ⟨0, 0, 9, 10⟩ }
    let elsewhere := { openClip with channel := 1, range := [] }
    let whole := fun s : State => (s.clipLog.clips.map fun k => k.id).Nodup
      ∧ (∀ k ∈ s.clipLog.clips, k.range.Nodup ∧ ∀ id ∈ s.coders[(0 : Fin 6)].filling, id ∈ k.range →
          k.range.getLast? = some id)
      ∧ (256 ≤ s.store.freePool.length
        ∨ ∀ k ∈ s.clipLog.clips, ∀ id ∈ k.range, ∀ g, s.segment? id = some g → 0 < g.pinCount)
    let left := fun s : State => (leaveRecording 0 s).clip? 1 |>.map fun k => (k.record, k.outPoint)
    ((∀ s ∈ [rig, rigClip fun _ => closing, rigClip fun _ => elsewhere, broken], whole s)
        ∧ whole (storing 256 resetWriter))
      ∧ (rig.coders[(0 : Fin 6)].filling = some 1 ∧ rig.segment? 1 = some newSegment ∧ rig.clip? 1 = some openClip)
      ∧ left rig = some (.closed, some ⟨0, 0, 10, 0⟩)
      ∧ left (rigClip fun _ => closing) = some (.closed, some ⟨0, 0, 9, 10⟩)
      ∧ left (rigClip fun _ => elsewhere) = some (.opened, none)
      ∧ ((leaveRecording 0 broken).store.writers[(0 : Fin 6)] = ⟨.idle, none, 0⟩) := by
  intro closing elsewhere whole left
  have pinned : ∀ s : State, s.store.segments.all (fun g => decide (0 < g.pinCount)) = true →
      ∀ k ∈ s.clipLog.clips, ∀ id ∈ k.range, ∀ g, s.segment? id = some g → 0 < g.pinCount := by
    intro s all k _ id _ g found
    have := List.all_eq_true.mp all g (List.mem_of_find?_eq_some found)
    simpa using this
  refine ⟨⟨fun s h => ?_, by decide +kernel, by decide +kernel, .inl (by decide +kernel)⟩, by decide +kernel,
    by decide +kernel, by decide +kernel, by decide +kernel, by decide +kernel⟩
  simp only [List.mem_cons, List.not_mem_nil, or_false] at h
  rcases h with rfl | rfl | rfl | rfl <;>
    exact ⟨by decide +kernel, by decide +kernel, .inr (pinned _ (by decide +kernel))⟩

/-- The example of R28: predictor -1000 and level 900, then level 900 again. -/
theorem test_saturatedDifference :
    dcDifference (-1000) 900 = 1023 ∧ ((⟨-1000, 0, 0⟩ : Predictors).put (-1000 + 1023) .luma).get .luma = 23
      ∧ dcDifference 23 900 = 877 := by decide

theorem witness_TheNextQuantiserFollowsTheFullness_blocks :
    let flat : List (List Pixel) := List.ofFn fun _ : Fin 4 => List.ofFn fun _ : Fin 4 => (512 : Pixel)
    (1023 < (1024 : Int) - 0 ∧ (-1024 : Int) - 0 < -1023 ∧ dcDifference 0 1024 = 1023 ∧ dcDifference 0 (-1024) = -1023)
      ∧ (∃ pixel : Fin 4 → Fin 4 → Pixel, workedBlock = List.ofFn fun y => List.ofFn (pixel y))
      ∧ (sliceBits 26 ⟨0, 0, 0⟩ 0 [(.luma, flat)] = skipToken 1
        ∧ sliceBits 26 ⟨0, 0, 0⟩ 0 [(.luma, workedBlock)] ≠ skipToken 1)
      ∧ ((-1 : Int) ≠ 0 ∧ blockTokens 0 (List.replicate 15 0 ++ [-1]) = coefficientToken 15 (-1) ++ [false, false])
      ∧ (262144 < 262143 + 2 + 6 * 0 ∧ ¬262144 < 262142 + 2 + 6 * 0) := by
  refine ⟨by decide, ⟨fun y x => (workedBlock[y.val]?.getD [])[x.val]?.getD 0, by decide⟩, ?_, ?_, by decide⟩
  · decide +kernel
  · decide +kernel

/-- The patrol at a retired page, behind the last page, with no page to read, and with pages enough to retire one. -/
theorem witness_ErrorsOfALineAndThePatrol_pages :
    let at_ := fun position : Nat => { rig with store := { rig.store with patrolPosition := position, lineErrors := [] } }
    let reads := fun (s : State) (position : Nat) => leaves .patrolRead s fun t => t.store.patrolPosition == position
    let all := fun s : State => { s with store := { s.store with retired := List.range s.store.initPosition } }
    let many := { rig with store := { rig.store with
      initPosition := 300, patrolPosition := 9, freePool := List.range' 8 257, lineErrors := [(9 * 1024, [7, 8])] } }
    (6 < rig.store.initPosition ∧ 6 ∉ rig.store.retired ∧ ∀ p, 5 ≤ p → p < 6 → p ∈ rig.store.retired)
      ∧ (reads (at_ 5) 7 = true ∧ reads (at_ 8) 1 = true ∧ reads (all (at_ 5)) 5 = true)
      ∧ (256 ≤ (many.store.freePool.filter (· ≠ 9)).length ∧ (∀ g ∈ many.store.segments, 9 ∉ g.pages)
        ∧ leaves .patrolRead many (fun t => t.store.retired == [5, 9] && t.store.pagesRetired == 1) = true) := by
  intro at_ reads all many
  refine ⟨⟨by decide +kernel, by decide +kernel, fun p low high => ?_⟩, by decide +kernel, by decide +kernel⟩
  obtain rfl : p = 5 := by omega
  decide +kernel

/-- Flags that R206 does not define, with the point that bit 0 asks for. -/
theorem witness_ClipOpenTakesARecord_flags :
    (asking rig .clipOpen [0, 2]).asks .clipOpen [0, 2]
      ∧ code .clipOpen (asking rig .clipOpen [0, 3, 0, 0, 8, 0]) .badValue = true
      ∧ (asking rig .clipClose [0, 1, 2]).asks .clipClose [0, 1, 2]
      ∧ code .clipClose (asking rig .clipClose [0, 1, 3, 0, 0, 9, 0]) .badValue = true
      ∧ (asking rig .clipMark [0, 1, 2, 15, 0]).asks .clipMark [0, 1, 2, 15, 0]
      ∧ code .clipMark (asking rig .clipMark [0, 1, 255, 0, 0, 9, 0, 15, 0]) .badValue = true :=
  ⟨asking_asks .., by decide +kernel, asking_asks .., by decide +kernel, asking_asks .., by decide +kernel⟩

/-- The handover settles a waiting in-point and a waiting out-point, on a stored and on an unstored picture. -/
theorem witness_ClipCloseFindsItsOutSegment_settles :
    let waits := fun (inPoint outPoint : Bool) => rigClip fun c => { c with
      inPoint := ⟨0, 0, 10, 0⟩, inPending := inPoint, outPending := outPoint
      outPoint := if outPoint then some ⟨0, 0, 10, 0⟩ else none }
    let stored := fun s : State => (pictureStored 0 1 s).clip? 1 |>.map fun k => (k.range, k.record, k.outSegment)
    let unstored := fun (pause : Option Timecode) (s : State) => (pictureUnstored 0 pause s).clip? 1 |>.map fun k =>
      (k.range, k.record, k.outPoint, k.gaps.length)
    let full := rigClip fun c => { c with gaps := List.replicate 16 ⟨⟨0, 0, 9, 0⟩, some 1, none⟩ }
    let twice := rig.modStore fun st => { st with
      segments := [{ oldSegment with pinCount := 2 }, { newSegment with pinCount := 2 }] }
    let dense := { twice with clipLog := (waits true true).clipLog }
    ((rig.clipLog.clips.map fun d => d.id).Nodup ∧ openClip.range = [0] ++ 1 :: [] ∧ 1 ∉ [0] ∧ openClip.range.Nodup
        ∧ newSegment.state = .filling ∧ 1 ∉ rig.store.completion)
      ∧ (stored (waits true false) = some ([1], .opened, none)
        ∧ stored (waits false true) = some ([0, 1], .closing, some 1)
        ∧ stored (waits true true) = some ([1], .closing, some 1))
      ∧ (unstored none (waits true false) = some ([], .opened, none, 1)
        ∧ unstored (some ⟨0, 0, 10, 0⟩) (waits true false) = some ([], .opened, none, 1)
        ∧ unstored none dense = some ([], .closed, some ⟨0, 0, 10, 0⟩, 1))
      ∧ ((full.clip? 1).map (fun k => k.gaps.length) = some 16
        ∧ unstored (some ⟨0, 0, 10, 0⟩) full = some ([0, 1], .closed, some ⟨0, 0, 10, 0⟩, 16))
      ∧ (((rig.clipLog.clips.filter fun d => d.id != 1).map fun d => d.range.count 0).sum < oldSegment.pinCount) := by
  refine ⟨by decide +kernel, ⟨?_, ?_, ?_⟩, ⟨?_, ?_, ?_⟩, ⟨?_, ?_⟩, by decide +kernel⟩ <;> decide +kernel

theorem witness_ClipCloseFindsItsOutSegment_handover :
    let none_ := { rig with
      coders := vecSet rig.coders 0 { recorder with filling := none }, store := { rig.store with freePool := [] } }
    (rig.fillingSegment 0 = some newSegment ∧ rig.store.writers[(0 : Fin 6)].state ≠ .paused
        ∧ closeBefore 0 ⟨0, 0, 10, 1⟩ 8 rig = rig ∧ newSegment.byteLength + 8 ≤ newSegment.pages.length * 65536)
      ∧ (none_.store.freePool.length < (8 + 65535) / 65536 ∧ (∀ g ∈ none_.store.segments, 0 < g.pinCount)
        ∧ none_.coders[(0 : Fin 6)].filling = none ∧ none_.store.writers[(0 : Fin 6)].state ≠ .paused)
      ∧ broken.store.writers[(0 : Fin 6)].state = .paused := by decide +kernel

theorem witness_ClipsAreRatedHeldAndSent_counter :
    let s := { rig with clipLog := { rig.clipLog with queueCounter := 4294967295 } }
    (asking s .clipSend [0, 1]).asks .clipSend [0, 1] ∧ s.clip? 1 = some openClip
      ∧ leaves .clipSend (asking s .clipSend [0, 1]) (fun t => t.clipLog.queueCounter == 0) = true :=
  ⟨asking_asks .., by decide +kernel, by decide +kernel⟩

theorem witness_ADiscardFreesOrAborts_pins :
    let s := rig.modSegment 0 fun g => { g with pinCount := 2 }
    (s.segment? 0 = some { oldSegment with pinCount := 2 } ∧ openClip.range.count 0 < 2)
      ∧ leaves .clipDiscard (asking s .clipDiscard [0, 1]) (fun t => (t.segment? 0).any fun g => g.pinCount == 1) = true
      ∧ leaves .clipDiscard (asking rig .clipDiscard [0, 1]) (fun t => (t.segment? 0).isNone) = true
      ∧ 256 ≤ (storing 256 resetWriter).store.freePool.length := by decide +kernel

/-- The rig with an entry of its first path due at a timeout of 10 ms, so often retried. -/
def late (count : Nat) (state : PathState) : State :=
  { rigPath fun path => { carrying path with retryCount := count, state := state } with
    now := dataEntry.sentAt + 10 * millisecond }

/-- PATH_SET at the timeout that has just passed, below the retry limit, at it, in DRAIN and in RECOVER. -/
theorem witness_PathRequestsByState_passed :
    let set := fun s : State => leaves .pathSet (asking s .pathSet [0, 0, 0, 1])
    let retry := fun s : State => s.paths[(0 : Fin 4)].retry
    ((retry (late 0 .carry)).head?.map (fun e => e.sentAt + 10 * millisecond) = some (late 0 .carry).now)
      ∧ set (late 0 .carry) (fun t => t.paths[(0 : Fin 4)].state == .recover) = true
      ∧ set (late 1 .carry) (fun t => t.paths[(0 : Fin 4)].state == .down && (retry t).isEmpty) = true
      ∧ set (late 0 .drain) (fun t => t.paths[(0 : Fin 4)].state == .down && (retry t).isEmpty) = true
      ∧ set (late 0 .recover) (fun t => t.paths[(0 : Fin 4)].state != .down && (retry t).length == 1) = true := by
  refine ⟨?_, ?_, ?_, ?_, ?_⟩ <;> decide +kernel

/-- A partial rewind to the first segment and to a later one, and reports that move no cursor. -/
theorem witness_AFrameGoesToThePathWithMostAllowance_partial :
    let gaps : List Gap := [⟨⟨0, 0, 8, 0⟩, some 3, none⟩, ⟨⟨0, 0, 9, 0⟩, some 3, some 0⟩, ⟨⟨0, 0, 9, 9⟩, some 3, some 1⟩]
    let at_ := fun position : Position => rigClip fun c => { c with
      send := .sending, gaps := gaps, cursor := some ⟨position, [], 9, 3, 0, [(0, true), (1, true)]⟩ }
    let rewound := fun (id : Nat) (s : State) => ((rewindClip 1 (some id) false s).clip? 1).bind fun c =>
      c.cursor.map fun k => (k.position, k.gapsEmitted, k.sent)
    let last := at_ (.boundary (some 1) true)
    (openClip.range = [] ++ 0 :: [1] ∧ openClip.range = [0] ++ 1 :: [] ∧ 1 ∈ [1] ∧ 1 ∉ [0])
      ∧ rewound 0 last = some (.boundary none false, 0, [])
      ∧ rewound 1 last = some (.inside 1 0, 2, [(0, true)])
      ∧ rewound 1 (at_ (.inside 1 8)) = some (.inside 1 0, 2, [(0, true)])
      ∧ rewound 0 (at_ (.inside 0 0)) = some (.boundary none false, 0, [])
      ∧ rewindClip 1 (some 1) false (at_ (.inside 1 0)) = at_ (.inside 1 0)
      ∧ rewindClip 1 (some 0) false (at_ .beforeStart) = at_ .beforeStart
      ∧ (2 ∉ openClip.range ∧ rewindClip 1 (some 2) false last = last) := by
  refine ⟨?_, ?_, ?_, ?_, ?_, ?_, ?_, ?_⟩ <;> decide +kernel

theorem witness_EveryStepKeepsThePortWithinLimits :
    (crowded 4 8).portWithinLimits ∧ leaves (.controlFrameEnd 0) (crowded 4 8) (fun _ => true) = true :=
  ⟨⟨by decide +kernel, by decide +kernel, by decide +kernel⟩, by decide +kernel⟩

theorem witness_EveryStepKeepsPathsConsistent :
    (rigPath carrying).pathsConsistent ∧ leaves (.ackTimeout 0) (rigPath carrying) (fun _ => true) = true := by
  refine ⟨?_, by decide +kernel⟩
  have first : (rigPath carrying).paths[(0 : Fin 4)].consistent :=
    ⟨by decide +kernel, by decide +kernel, by decide +kernel, by decide +kernel⟩
  have rest : ∀ p : Fin 4, p ≠ 0 → (rigPath carrying).paths[p] = resetPath := by decide +kernel
  intro p
  by_cases h : p = 0
  · subst h
    exact first
  · rw [rest p h]
    exact ⟨by decide +kernel, by decide +kernel, by decide +kernel, by decide +kernel⟩

theorem witness_EveryStepKeepsFollowersOnMix :
    State.reset.followersOnMix ∧ leaves .busSet (asking State.reset .busSet [4, 1, 1]) (fun _ => true) = true := by
  refine ⟨⟨?_, ?_, ?_, ?_⟩, by decide +kernel⟩
  · have all : ∀ b : Fin 12, (vecMap (fun b : Bus => b.mode) State.reset.mixer.buses)[b] = .off := by decide +kernel
    intro b reference excluded h
    rw [all b] at h
    cases h
  · have all : ∀ b : Fin 12, (stagedModes State.reset.mixer)[b] = .off := by decide +kernel
    intro b reference excluded h
    rw [all b] at h
    cases h
  · have all : ∀ slot : Fin 16, State.reset.mixer.scenes[slot] = none := by decide +kernel
    intro slot scene h
    rw [all slot] at h
    cases h
  · intro slot length scene h
    cases h

theorem witness_EveryStepKeepsCodersWithinBounds :
    rig.codersWithinBounds ∧ leaves (.pictureDeadline 0) rig (fun _ => true) = true := by
  refine ⟨fun c => ⟨?_, ?_, ?_, ?_, ?_, ?_, ?_⟩, by decide +kernel⟩ <;> revert c <;> decide +kernel

end Sys2Proof.Machine.Tests
end

namespace Sys2Proof.Machine

/-! ## Requests of the Reference Timing Unit (01, sections 1.4 and 1.5) -/

section requests

variable {s : State} {body : List Byte}

/-- A request of a right length that its owner refuses. -/
theorem runRequest_refused {kind : RequestKind} {owner : List Byte → State → Reply × State} {code : ResultCode}
    (h : s.asks kind body) (hl : lengthOk kind body = true) (e : owner body s = refuse code s) :
    runRequest kind owner s = refusedWith code s := by
  rw [runRequest_eq h hl, e, answered_refuse]

/-- The four bytes of a timecode at the front of a body (Table 10-2). -/
theorem timecodeField_cons (hh mm ss ff : Byte) (rest : List Byte) :
    timecodeField (hh :: mm :: ss :: ff :: rest) 0 = ⟨hh.toNat, mm.toNat, ss.toNat, ff.toNat⟩ := by
  simp [timecodeField]

theorem validTimecode_iff (p : PictureRate) (t : Timecode) :
    validTimecode p t = true ↔ t.hh < 24 ∧ t.mm < 60 ∧ t.ss < 60 ∧ t.ff < perSecond p := by
  simp [validTimecode, and_assoc]

/-- A rate is named by its number of pictures per second (R6). -/
theorem rateOfNumber_perSecond (p : PictureRate) : rateOfNumber (perSecond p) = some p := by
  cases p <;> rfl

theorem rateOfNumber_eq_none {n : Nat} (h : ∀ p : PictureRate, n ≠ perSecond p) : rateOfNumber n = none := by
  simp [rateOfNumber, show n ≠ 25 from h .p25, show n ≠ 30 from h .p30, show n ≠ 50 from h .p50,
    show n ≠ 60 from h .p60]

/-- SET_TIMECODE stages a timecode that is valid for the rate of the coming tick, and refuses any other (R5). -/
theorem setTimecode_cons (hh mm ss ff : Byte) :
    setTimecode [hh, mm, ss, ff] s =
      if hh.toNat < 24 ∧ mm.toNat < 60 ∧ ss.toNat < 60 ∧ ff.toNat < perSecond (s.timing.stagedRate.getD s.timing.rate) then
        answerAccepted .none (s.modTiming fun r =>
          { r with stagedTimecode := some ⟨hh.toNat, mm.toNat, ss.toNat, ff.toNat⟩ })
      else refuse .badValue s := by
  simp only [setTimecode, timecodeField_cons, validTimecode_iff]

end requests

/-- Settles O12: each owner decides by its one check, and the length of the body is right. -/
theorem timingRequestsStageTheirValue : Obligations.TimingRequestsStageTheirValue := by
  refine ⟨fun s hh mm ss ff asks => ?_, fun s n asks => ⟨fun p hn => ?_, fun hn => ?_⟩⟩
  · have run : exec .setTimecode s = _ := runRequest_eq (owner := setTimecode) asks rfl
    rw [run, setTimecode_cons]
    split
    · rfl
    · rfl
  · have run : exec .setReference s = _ := runRequest_eq (owner := setReference) asks rfl
    rw [run, setReference, field_zero_one, hn, rateOfNumber_perSecond]
    dsimp only
    split
    · rfl
    · rfl
  · refine runRequest_refused (owner := setReference) asks rfl ?_
    rw [setReference, field_zero_one, rateOfNumber_eq_none hn]

/-! ## The cue list (01, section 1.5) -/

section sorting

variable {α : Type} (key : α → Nat)

/-- Insertion is stable: the items of one key keep their order, the new one first. -/
theorem filter_insertByKey (d : Nat) (x : α) (l : List α) :
    (insertByKey key x l).filter (fun a => key a == d) = (x :: l).filter fun a => key a == d := by
  induction l with
  | nil => rfl
  | cons y rest ih =>
    unfold insertByKey
    split
    · rfl
    · rename_i hlt
      rw [List.filter_cons, ih]
      by_cases hx : key x = d
      · have hy : key y ≠ d := by omega
        simp [hx, hy]
      · simp [List.filter_cons, hx]

/-- Items of equal keys keep their order (01, section 1.5). -/
theorem filter_sortByKey (d : Nat) (l : List α) :
    (sortByKey key l).filter (fun a => key a == d) = l.filter fun a => key a == d := by
  induction l with
  | nil => rfl
  | cons x rest ih =>
    show (insertByKey key x (sortByKey key rest)).filter _ = _
    rw [filter_insertByKey, List.filter_cons, ih, List.filter_cons]

end sorting

section cues

variable {s : State} {body : List Byte}

/-- The lowest-numbered free slot of the cue list, as CUE_ADD searches it (R7). -/
def freeCueSlot (cues : List Cue) : Option (Fin 16) :=
  (List.finRange 16).find? fun i => !cues.any fun c => c.id == i

/-- No slot is free when each number is taken (R7). -/
theorem freeCueSlot_eq_none {cues : List Cue} (h : ∀ id : Fin 16, ∃ c ∈ cues, c.id = id) :
    freeCueSlot cues = none := by
  simpa [freeCueSlot] using h

/-- The lowest free slot is the one whose lower numbers are all taken (R7). -/
theorem freeCueSlot_eq_some {cues : List Cue} {id : Fin 16} (free : ∀ c ∈ cues, c.id ≠ id)
    (lower : ∀ j < id, ∃ c ∈ cues, c.id = j) :
    freeCueSlot cues = some id := by
  rw [freeCueSlot, List.find?_eq_some_iff_getElem]
  refine ⟨by simpa using free, id.val, by simp, by simp, fun j hj => ?_⟩
  simpa using lower ⟨j, by omega⟩ hj

/-! ### CUE_ADD once its kind, length and target have passed (R7, checks 1 to 3) -/

section accepted

variable {hh mm ss ff kind : Byte} {action : CueAction} {target : Timecode}
  (ht : target = ⟨hh.toNat, mm.toNat, ss.toNat, ff.toNat⟩) (hk : actionOf kind.toNat = some action)
  (hl : actionLengthOk action body = true) (hv : validTimecode s.timing.rate target = true)
include ht hk hl hv

theorem cueAdd_past (past : distance s.timing.rate s.timing.timecode target = 0
      ∨ dayLength s.timing.rate / 2 ≤ distance s.timing.rate s.timing.timecode target) :
    cueAdd (hh :: mm :: ss :: ff :: kind :: body) s = refuse .badValue s := by
  subst ht
  simp [cueAdd, timecodeField_cons, hk, hl, hv, past]

variable (ahead : 0 < distance s.timing.rate s.timing.timecode target)
  (near : distance s.timing.rate s.timing.timecode target < dayLength s.timing.rate / 2)
include ahead near

theorem cueAdd_full (full : freeCueSlot s.timing.cues = none) :
    cueAdd (hh :: mm :: ss :: ff :: kind :: body) s = refuse .noRoom s := by
  subst ht
  rw [freeCueSlot] at full
  simp [cueAdd, timecodeField_cons, hk, hl, hv, full, ahead.ne', near]

theorem cueAdd_slot {id : Fin 16} (slot : freeCueSlot s.timing.cues = some id) :
    cueAdd (hh :: mm :: ss :: ff :: kind :: body) s =
      answerOk (.cueId id) (s.modTiming fun t => { t with cues := t.cues ++ [⟨id, target, action, body⟩] }) := by
  subst ht
  rw [freeCueSlot] at slot
  simp [cueAdd, timecodeField_cons, hk, hl, hv, slot, ahead.ne', near]

end accepted

end cues

/-- Settles O13: the slot search of CUE_ADD, the filter of CUE_CANCEL, and the stable sort behind CUE_LIST. -/
theorem cuesAreAddedCancelledAndListed : Obligations.CuesAreAddedCancelledAndListed := by
  refine ⟨fun s hh mm ss ff kind action body asks hk hl hv => ?_,
    fun s n asks => ⟨fun hn => ?_, fun id hn => ⟨fun hc => ?_, fun hc => ?_⟩⟩,
    fun s asks => ⟨s.cuesInOrder.map fun c => (c, s.cueDistance c), ?_, ?_, fun d => ?_⟩⟩
  · have length : lengthOk .cueAdd (hh :: mm :: ss :: ff :: kind :: body) = true := by simp [lengthOk]
    refine ⟨fun past => ?_, fun ahead near => ⟨fun full => ?_, fun id free lower => ?_⟩⟩
    · exact runRequest_refused asks length (cueAdd_past rfl hk hl hv past)
    · exact runRequest_refused asks length (cueAdd_full rfl hk hl hv ahead near (freeCueSlot_eq_none full))
    · have run : exec .cueAdd s = _ := runRequest_eq (owner := cueAdd) asks length
      rw [run, cueAdd_slot rfl hk hl hv ahead near (freeCueSlot_eq_some free lower)]
      rfl
  · refine runRequest_refused (owner := cueCancel) asks rfl ?_
    rw [cueCancel, field_zero_one, finOf_of_le hn]
  · refine runRequest_refused (owner := cueCancel) asks rfl ?_
    have unnamed : (s.timing.cues.any fun c => c.id == id) = false := by simpa using hc
    simp only [cueCancel, field_zero_one, hn, finOf_val, unnamed]
    rfl
  · have run : exec .cueCancel s = _ := runRequest_eq (owner := cueCancel) asks rfl
    have named : (s.timing.cues.any fun c => c.id == id) = true := by simpa using hc
    simp only [run, cueCancel, field_zero_one, hn, finOf_val, named, if_true]
    rfl
  · exact runRequest_eq (owner := cueList) asks rfl
  · rw [List.pairwise_map]
    exact sortByKey_sorted s.cueDistance s.timing.cues
  · rw [List.filter_map]
    have same : (s.cuesInOrder.filter fun c => s.cueDistance c == d) =
        s.timing.cues.filter fun c => s.cueDistance c == d :=
      filter_sortByKey s.cueDistance d s.timing.cues
    show ((s.cuesInOrder.filter fun c => s.cueDistance c == d).map fun c => (c, s.cueDistance c)) = _
    rw [same]
    refine List.map_congr_left fun c hc => ?_
    rw [show s.cueDistance c = d by simpa using (List.mem_filter.mp hc).2]

/-! ## Power-on (R205) -/

/-- Settles O9: the state after power-on is the reset record with what the straps and the clock give, and each table value is
read from it. -/
theorem powerOnGivesTheResetValues : Obligations.PowerOnGivesTheResetValues := by
  refine ⟨fun s straps => rfl, ?_⟩
  decide +kernel

end Sys2Proof.Machine

namespace Sys2Proof.Machine

/-! ## The tick count outside the scheduler's tick (R175)

Every operation of the paths and of the scheduler leaves the count of picture ticks; `refill` alone advances it. -/

section tickCount

variable {s t : State}

theorem ClipOnly.tickCount (h : ClipOnly s t) : t.sched.tickCount = s.sched.tickCount := by
  rw [ClipOnly] at h
  rw [h]

theorem AllocOnly.tickCount (h : AllocOnly s t) : t.sched.tickCount = s.sched.tickCount :=
  ClipOnly.tickCount (.of_send (.of_alloc h))

theorem MixSide.tickCount (h : MixSide s t) : t.sched.tickCount = s.sched.tickCount := by
  rw [MixSide] at h
  rw [h]

theorem CoderSide.tickCount {c : Fin 6} (h : CoderSide c s t) : t.sched.tickCount = s.sched.tickCount := by
  rw [h.state]

/-- A fold of steps that each keep a value keeps it. -/
theorem foldl_keeps {σ ι β : Type} {f : σ → ι → σ} (g : σ → β) (h : ∀ u a, g (f u a) = g u) (l : List ι) (u : σ) :
    g (l.foldl f u) = g u := by
  induction l generalizing u with
  | nil => rfl
  | cons a rest ih => exact (ih _).trans (h u a)

@[simp] theorem setSend_tickCount (id : Nat) (after : SendState) (cause : SendCause) (s : State) :
    (setSend id after cause s).sched.tickCount = s.sched.tickCount :=
  ClipOnly.tickCount (.of_send (setSend_only id after cause s))

@[simp] theorem freeClip_tickCount (id : Nat) (s : State) : (freeClip id s).sched.tickCount = s.sched.tickCount :=
  (freeClip_only id s).tickCount

@[simp] theorem modClip_sched (id : Nat) (f : Clip → Clip) (s : State) : (s.modClip id f).sched = s.sched := rfl

@[simp] theorem modCursor_sched (id : Nat) (f : Cursor → Cursor) (s : State) : (s.modCursor id f).sched = s.sched := rfl

/-! ### Paths -/

@[simp] theorem changeState_tickCount (p : Fin 4) (after : PathState) (cause : PathCause)
    (failure : Option (Nat × Nat × Nat)) (s : State) :
    (changeState p after cause failure s).sched.tickCount = s.sched.tickCount := by
  have report : ∀ u : State, (reportPath p (after == .carry) u).sched.tickCount = u.sched.tickCount := fun u =>
    AllocOnly.tickCount (.trans (t := u.modAlloc _) rfl (recompute_only _ _))
  simp [changeState, report]

@[simp] theorem markTruncated_tickCount (c : Fin 6) (place : Nat) (s : State) :
    (markTruncated c place s).sched.tickCount = s.sched.tickCount := by
  unfold markTruncated
  split <;> rfl

@[simp] theorem lateDrop_sched (c : Fin 6) (s : State) : (lateDrop c s).sched = s.sched := rfl

@[simp] theorem dropLive_tickCount (c : Fin 6) (place : Nat) (s : State) :
    (dropLive c place s).sched.tickCount = s.sched.tickCount := by
  simp [dropLive]

@[simp] theorem failedPicture_tickCount (c : Fin 6) (sequence : Seq) (t : Timecode) (s : State) :
    (failedPicture c sequence t s).sched.tickCount = s.sched.tickCount := by
  simp only [failedPicture, raise_sched, State.modSched_sched]
  split <;> simp

@[simp] theorem reportRewind_tickCount (id : Nat) (full : Bool) (segment : Option Nat) (s : State) :
    (reportRewind id full segment s).sched.tickCount = s.sched.tickCount := by
  simp [reportRewind]

@[simp] theorem rewindClip_tickCount (id : Nat) (earliest : Option Nat) (itemLost : Bool) (s : State) :
    (rewindClip id earliest itemLost s).sched.tickCount = s.sched.tickCount := by
  unfold rewindClip
  repeat' split
  all_goals simp

@[simp] theorem reportFailedClip_tickCount (id : Nat) (s : State) :
    (reportFailedClip id s).sched.tickCount = s.sched.tickCount := by
  unfold reportFailedClip
  repeat' split
  all_goals simp

@[simp] theorem failedClip_tickCount (entries : List RetryEntry) (s : State) (id : Nat) :
    (failedClip entries s id).sched.tickCount = s.sched.tickCount := by
  simp [failedClip]

@[simp] theorem goDown_tickCount (p : Fin 4) (cause : PathCause) (s : State) :
    (goDown p cause s).sched.tickCount = s.sched.tickCount := by
  unfold goDown
  simp only
  split
  · simp
  · rw [changeState_tickCount, foldl_keeps (fun u : State => u.sched.tickCount) (by simp),
      foldl_keeps (fun u : State => u.sched.tickCount) (by simp)]
    rfl

@[simp] theorem endReplay_tickCount (p : Fin 4) (s : State) : (endReplay p s).sched.tickCount = s.sched.tickCount := by
  unfold endReplay
  simp only
  repeat' split
  all_goals simp [queueControl]

@[simp] theorem settleStates_tickCount (p : Fin 4) (s : State) :
    (settleStates p s).sched.tickCount = s.sched.tickCount := by
  unfold settleStates
  simp only
  repeat' split
  all_goals simp

@[simp] theorem pathChoice_tickCount (p : Fin 4) (s : State) : (pathChoice p s).sched.tickCount = s.sched.tickCount := by
  unfold pathChoice
  simp only
  repeat' split
  all_goals rfl

@[simp] theorem settlePath_tickCount (s : State) (p : Fin 4) : (settlePath s p).sched.tickCount = s.sched.tickCount := by
  simp [settlePath]

/-! ### The clip class and the choices -/

@[simp] theorem setWaiting_tickCount (waiting : Bool) (s : State) :
    (setWaiting waiting s).sched.tickCount = s.sched.tickCount := rfl

@[simp] theorem lendTo_tickCount (lender : Nat) (s : State) : (lendTo lender s).sched.tickCount = s.sched.tickCount := rfl

@[simp] theorem endLoan_tickCount (s : State) : (endLoan s).sched.tickCount = s.sched.tickCount := rfl

@[simp] theorem passBoundary_tickCount (id : Nat) (s : State) :
    (passBoundary id s).sched.tickCount = s.sched.tickCount := by
  unfold passBoundary
  split <;> rfl

@[simp] theorem reachEnd_tickCount (c : Clip) (k : Cursor) (s : State) :
    (reachEnd c k s).sched.tickCount = s.sched.tickCount := by
  unfold reachEnd
  repeat' split
  all_goals simp

@[simp] theorem reviewLoan_tickCount (l : Loan) (b : Clip) (s : State) :
    (reviewLoan l b s).sched.tickCount = s.sched.tickCount := by
  unfold reviewLoan
  repeat' split
  all_goals simp

/-- The checks of R187 leave the tick count, whether or not they let the clip go on. -/
theorem boundaryChecks_tickCount (c : Clip) {n : Counter} (hs : s.sched.tickCount = n) (ht : t.sched.tickCount = n) :
    ((boundaryChecks c s).getD t).sched.tickCount = n := by
  unfold boundaryChecks
  repeat' split
  all_goals simp [hs, ht]

theorem loanStep_tickCount {l : Loan} (h : loanStep l s = some t) : t.sched.tickCount = s.sched.tickCount := by
  unfold loanStep at h
  repeat' split at h
  all_goals cases h
  all_goals simp

theorem sendingStep_tickCount {c : Clip} (h : sendingStep c s = some t) : t.sched.tickCount = s.sched.tickCount := by
  unfold sendingStep at h
  simp only at h
  repeat' split at h
  all_goals cases h
  all_goals first
    | exact boundaryChecks_tickCount c (by simp) (by simp)
    | rfl

theorem clipStep_tickCount (h : clipStep s = some t) : t.sched.tickCount = s.sched.tickCount := by
  unfold clipStep at h
  split at h
  · split at h
    · cases h
      simp
    · obtain ⟨l, -, hl⟩ := Option.bind_eq_some_iff.mp h
      exact loanStep_tickCount hl
  · split at h
    · exact loanStep_tickCount h
    · exact sendingStep_tickCount h

@[simp] theorem emitted_tickCount (p : Fin 4) (start : Pointer) (c : Clip) (k : Cursor) (offer : ClipOffer) (s : State) :
    (emitted p start c k offer s).sched.tickCount = s.sched.tickCount := by
  unfold emitted
  simp only
  split <;> simp

theorem chooseVideo_tickCount {within : Bool} {c : Fin 6} (h : chooseVideo within s c = some t) :
    t.sched.tickCount = s.sched.tickCount := by
  unfold chooseVideo at h
  repeat' split at h
  · cases h
  · cases h
  · obtain ⟨p, -, rfl⟩ := Option.map_eq_some_iff.mp h
    rfl

theorem chooseClip_tickCount {within : Bool} (h : chooseClip within s = some t) :
    t.sched.tickCount = s.sched.tickCount := by
  unfold chooseClip at h
  simp only at h
  repeat' split at h
  · cases h
  · cases h
  · obtain ⟨p, -, rfl⟩ := Option.map_eq_some_iff.mp h
    simp [startClip]

theorem chooseAudio_tickCount (h : chooseAudio s = some t) : t.sched.tickCount = s.sched.tickCount := by
  unfold chooseAudio at h
  split at h
  · cases h
  · obtain ⟨p, -, rfl⟩ := Option.map_eq_some_iff.mp h
    rfl

theorem chooseFrame_tickCount (h : chooseFrame s = some t) : t.sched.tickCount = s.sched.tickCount := by
  have video : ∀ within, (List.finRange 6).findSome? (chooseVideo within s) = some t →
      t.sched.tickCount = s.sched.tickCount := by
    intro within h
    obtain ⟨c, -, hc⟩ := List.exists_of_findSome?_eq_some h
    exact chooseVideo_tickCount hc
  simp only [chooseFrame, Option.orElse_eq_orElse, Option.orElse_eq_or, Option.or_eq_some_iff] at h
  rcases h with h | ⟨-, h | ⟨-, h | ⟨-, h | ⟨-, h⟩⟩⟩⟩
  · exact chooseAudio_tickCount h
  · exact video _ h
  · exact chooseClip_tickCount h
  · exact video _ h
  · exact chooseClip_tickCount h

/-! ### The service of an event (R152, R180) -/

/-- The service keeps what each step of the clip class and each choice keeps. -/
theorem serveLoop_keeps {β : Type} (g : State → β) (step : ∀ {u v : State}, clipStep u = some v → g v = g u)
    (choice : ∀ {u v : State}, chooseFrame u = some v → g v = g u) (n : Nat) (s : State) : g (serveLoop n s) = g s := by
  induction n generalizing s with
  | zero => rfl
  | succ n ih =>
    rw [serveLoop]
    split
    · rename_i e
      rw [ih, step e]
    · split
      · rename_i e
        rw [ih, choice e]
      · rfl

@[simp] theorem serve_tickCount (s : State) : (serve s).sched.tickCount = s.sched.tickCount := by
  unfold serve
  rw [serveLoop_keeps (fun u => u.sched.tickCount) clipStep_tickCount chooseFrame_tickCount,
    foldl_keeps (fun u : State => u.sched.tickCount) (by simp)]

/-- All that the service of an event can change (R152, R180). -/
theorem serve_only (s : State) : SendSide s (serve s) := by
  have loop : ∀ n u, SendSide u (serveLoop n u) := by
    intro n
    induction n with
    | zero => exact .refl
    | succ n ih =>
      intro u
      rw [serveLoop]
      split
      · rename_i e
        exact (clipStep_only e).trans (ih _)
      · split
        · rename_i e
          exact (chooseFrame_only e).trans (ih _)
        · exact .refl u
  exact .trans (.foldl _ settlePath_only _ _) (loop _ _)

/-! ### The scheduler's tick -/

@[simp] theorem pictureExpiry_tickCount (c : Fin 6) (s : State) :
    (pictureExpiry c s).sched.tickCount = s.sched.tickCount := by
  have loop : ∀ n (u : State), (expirePictures c n u).sched.tickCount = u.sched.tickCount := by
    intro n
    induction n with
    | zero => exact fun u => rfl
    | succ n ih =>
      intro u
      rw [expirePictures]
      simp only
      split
      · rfl
      · simp [ih]
  exact loop _ _

@[simp] theorem audioExpiry_tickCount (s : State) : (audioExpiry s).sched.tickCount = s.sched.tickCount := by
  unfold audioExpiry
  exact foldl_keeps (fun u : State => u.sched.tickCount) (fun u f => (reportAudioLate_only f u).tickCount) _ _

/-- The scheduler's tick is the one that counts (R175). -/
theorem schedulerTick_tickCount (s : State) : (schedulerTick s).sched.tickCount = s.sched.tickCount + 1 := by
  unfold schedulerTick
  rw [foldl_keeps (fun u : State => u.sched.tickCount) (by simp)]
  simp [refill]

end tickCount

end Sys2Proof.Machine

namespace Sys2Proof.Machine

/-! ## The stages of an audio block tick (R128)

For each stage: the timing record it leaves, and the mixer's record after it. -/

section stages

variable {s t : State}

/-- A fold of steps that each stand in a relation does so as a whole. -/
theorem foldl_related {σ ι : Type} {f : σ → ι → σ} (R : σ → σ → Prop) (refl : ∀ u, R u u)
    (trans : ∀ {u v w}, R u v → R v w → R u w) (step : ∀ u a, R u (f u a)) (l : List ι) (u : σ) : R u (l.foldl f u) := by
  induction l generalizing u with
  | nil => exact refl u
  | cons a rest ih => exact trans (step u a) (ih _)

/-- A change that leaves an item as it is leaves the vector. -/
theorem vecModify_eq_self {α : Type} {n : Nat} {v : Vector α n} {i : Fin n} {f : α → α} (h : f v[i] = v[i]) :
    vecModify v i f = v := by
  simp only [vecModify, h]
  exact Vector.set_getElem_self i.isLt

/-- Steps that each change one item of a vector by `h`, each item once: every item is changed by `h`. The steps keep a
context that `h` may depend on. -/
theorem foldl_vecModify {σ κ α : Type} {n : Nat} {f : σ → Fin n → σ} (context : σ → κ) (g : σ → Vector α n)
    (h : κ → α → α) (kept : ∀ u i, context (f u i) = context u)
    (step : ∀ u i, g (f u i) = vecModify (g u) i (h (context u))) (u : σ) (i : Fin n) :
    (g ((List.finRange n).foldl f u))[i] = h (context u) (g u)[i] := by
  have fold : ∀ (l : List (Fin n)) (u : σ), l.Nodup →
      (g (l.foldl f u))[i] = if i ∈ l then h (context u) (g u)[i] else (g u)[i] := by
    intro l
    induction l with
    | nil => intro u _; simp
    | cons j rest ih =>
      intro u nodup
      obtain ⟨fresh, nodup⟩ := List.nodup_cons.mp nodup
      rw [List.foldl_cons, ih _ nodup, kept, step]
      by_cases e : i = j
      · subst e
        simp [fresh]
      · simp [e]
  rw [fold _ u (List.nodup_finRange n), if_pos (List.mem_finRange i)]

/-! ### Changes (R129, R132) -/

@[simp] theorem takeScene_timing (slot : Fin 16) (length : Nat) (scene : Scene) (s : State) :
    (takeScene slot length scene s).timing = s.timing := by
  simp [takeScene]

@[simp] theorem applyChange_timing (s : State) (change : Change) : (applyChange s change).timing = s.timing := by
  cases change with
  | recallScene => exact takeScene_timing _ _ _ s
  | _ => rfl

/-- The second mixer is the first but for what the change list can change (R129). -/
def ChangesOnly (m n : Mixer) : Prop :=
  n = { m with
    channels := n.channels, buses := n.buses, embedded := n.embedded, outputs := n.outputs, recalling := n.recalling }

theorem ChangesOnly.trans {m n o : Mixer} (h : ChangesOnly m n) (h' : ChangesOnly n o) : ChangesOnly m o :=
  Eq.trans (id h') (by rw [id h])

theorem applyChange_mixer (s : State) (change : Change) : ChangesOnly s.mixer (applyChange s change).mixer := by
  cases change <;> simp [ChangesOnly, applyChange, takeScene, State.modMixChannel, State.modBus]

@[simp] theorem applyChanges_timing (due : Nat) (s : State) : (applyChanges due s).timing = s.timing :=
  foldl_keeps (fun u : State => u.timing) applyChange_timing _ _

/-- The changes that are due leave the list, and nothing outside what they can change is touched. -/
theorem applyChanges_mixer (due : Nat) (s : State) :
    ChangesOnly { s.mixer with changes := s.mixer.changes.drop due } (applyChanges due s).mixer :=
  foldl_related (fun u v : State => ChangesOnly u.mixer v.mixer) (fun _ => rfl) .trans applyChange_mixer _
    (s.modMixer fun m => { m with changes := m.changes.drop due })

/-! ### Ramps (R132) -/

@[simp] theorem finishRecall_timing (s : State) : (finishRecall s).timing = s.timing := by
  unfold finishRecall
  repeat' split
  all_goals simp

theorem finishRecall_mixer (s : State) :
    (finishRecall s).mixer = { s.mixer with recalling := (finishRecall s).mixer.recalling } := by
  unfold finishRecall
  repeat' split
  all_goals simp

@[simp] theorem stepRamps_timing (s : State) : (stepRamps s).timing = s.timing := by
  simp [stepRamps]

/-- Every ramp moves one step, and the recall in progress with them. -/
theorem stepRamps_mixer (s : State) :
    (stepRamps s).mixer = { s.mixer with
      channels := vecMap (fun k : MixChannel =>
        { k with gain := stepLevel k.gain, sends := vecMap stepLevel k.sends }) s.mixer.channels
      buses := vecMap (fun b : Bus => { b with gain := stepLevel b.gain }) s.mixer.buses
      recalling := (stepRamps s).mixer.recalling } := by
  unfold stepRamps
  rw [finishRecall_mixer]
  simp only [State.modMixer_mixer]

/-! ### Streams that take their staged setting (R142) -/

/-- A stream at a block tick of a number, its staged setting taken when its moment has come (R142). -/
def takenStream (number : Counter) (st : Stream) : Stream :=
  match st.staged with
  | none => st
  | some setting =>
    if setting = none ∨ number.toNat % 4 = 0 then
      { st with
        setting := setting
        staged := none
        sequence := if st.setting = none then 0 else st.sequence
        blocks := [] }
    else st

@[simp] theorem reportStreams_timing (count : Nat) (s : State) : (reportStreams count s).timing = s.timing := by
  rw [show reportStreams count s = _ from reportStreams_only count s]

@[simp] theorem reportStreams_mixer (count : Nat) (s : State) : (reportStreams count s).mixer = s.mixer := by
  rw [show reportStreams count s = _ from reportStreams_only count s]

@[simp] theorem takeStream_timing (s : State) (i : Fin 4) : (takeStream s i).timing = s.timing := by
  unfold takeStream
  simp only
  repeat' split
  all_goals simp

/-- A take changes the one stream, as `takenStream` says. -/
theorem takeStream_mixer (s : State) (i : Fin 4) :
    (takeStream s i).mixer =
      { s.mixer with streams := vecModify s.mixer.streams i (takenStream s.timing.blockNumber) } := by
  have same : takenStream s.timing.blockNumber s.mixer.streams[i] = s.mixer.streams[i] →
      s.mixer = { s.mixer with streams := vecModify s.mixer.streams i (takenStream s.timing.blockNumber) } := fun h => by
    rw [vecModify_eq_self h]
  unfold takeStream
  simp only
  split
  · rename_i e
    exact same (by simp only [takenStream, e])
  · rename_i setting e
    split
    · rename_i waits
      refine same ?_
      have later : ¬(setting = none ∨ s.timing.blockNumber.toNat % 4 = 0) := by
        simpa [Option.isSome_iff_ne_none] using waits
      simp only [takenStream, e, later, if_false]
    · rename_i takes
      have now : setting = none ∨ s.timing.blockNumber.toNat % 4 = 0 := by
        by_contra h
        exact takes (by simpa [Option.isSome_iff_ne_none] using h)
      have taken : takenStream s.timing.blockNumber s.mixer.streams[i] = { s.mixer.streams[i] with
          setting := setting
          staged := none
          sequence := if s.mixer.streams[i].setting.isSome then s.mixer.streams[i].sequence else 0
          blocks := [] } := by
        simp only [takenStream, e, now, if_true]
        cases s.mixer.streams[i].setting <;> rfl
      rw [vecModify_eq_vecSet _ _ (takenStream _), taken]
      split
      · rw [raise_mixer]
        rfl
      · rw [reportStreams_mixer, raise_mixer]
        rfl

/-- A fold of takes changes the streams alone, each as `takenStream` says. -/
theorem takeStreams_mixer (s : State) :
    (((List.finRange 4).foldl takeStream s).mixer =
        { s.mixer with streams := ((List.finRange 4).foldl takeStream s).mixer.streams })
      ∧ ∀ i : Fin 4, ((List.finRange 4).foldl takeStream s).mixer.streams[i]
          = takenStream s.timing.blockNumber s.mixer.streams[i] := by
  refine ⟨?_, fun i => ?_⟩
  · exact foldl_related (fun u v : State => v.mixer = { u.mixer with streams := v.mixer.streams }) (fun _ => rfl)
      (fun h h' => by rw [h', h]) (fun u j => by rw [takeStream_mixer]) _ s
  · exact foldl_vecModify (fun u : State => u.timing) (fun u => u.mixer.streams)
      (fun timing => takenStream timing.blockNumber) takeStream_timing (fun u j => by rw [takeStream_mixer]) s i

/-! ### Return buffers (R140) -/

@[simp] theorem tickReturn_timing (s : State) (i : Fin 2) : (tickReturn s i).timing = s.timing := by
  unfold tickReturn
  simp only
  split
  · simp [State.modReturn]
  · rfl

/-- A return buffer gives its block, and no other record changes. -/
theorem tickReturn_mixer (s : State) (i : Fin 2) :
    (tickReturn s i).mixer =
      { s.mixer with returns := vecModify s.mixer.returns i fun r => (playReturn r).2.1 } := by
  unfold tickReturn
  simp only
  split
  · rw [raise_mixer]
    rfl
  · rfl

theorem tickReturns_mixer (s : State) :
    (((List.finRange 2).foldl tickReturn s).mixer =
        { s.mixer with returns := ((List.finRange 2).foldl tickReturn s).mixer.returns })
      ∧ ∀ i : Fin 2, ((List.finRange 2).foldl tickReturn s).mixer.returns[i] = (playReturn s.mixer.returns[i]).2.1 := by
  refine ⟨?_, fun i => ?_⟩
  · exact foldl_related (fun u v : State => v.mixer = { u.mixer with returns := v.mixer.returns }) (fun _ => rfl)
      (fun h h' => by rw [h', h]) (fun u j => by rw [tickReturn_mixer]) _ s
  · exact foldl_vecModify (fun _ => ()) (fun u : State => u.mixer.returns) (fun _ r => (playReturn r).2.1)
      (fun _ _ => rfl) (fun u j => by rw [tickReturn_mixer]) s i

/-! ### Meters (R135) -/

@[simp] theorem endMeterPeriod_timing (s : State) : (endMeterPeriod s).timing = s.timing := by
  unfold endMeterPeriod
  split
  · rfl
  · exact foldl_keeps (fun u : State => u.timing) (fun u b => raise_timing u _) _ _

/-- A period that has been reached ends: its notices leave the mixer, whose meters are cleared. -/
theorem endMeterPeriod_mixer (s : State) :
    (endMeterPeriod s).mixer =
      if s.mixer.periodCount < s.mixer.meterPeriod then s.mixer else clearMeters s.mixer := by
  unfold endMeterPeriod
  split
  · rfl
  · simp only [State.modMixer_mixer]
    rw [foldl_keeps (fun u : State => u.mixer) (fun u b => raise_mixer u _)]

/-! ### Streams that take their block (R143) -/

/-- An enabled stream after the block of its pair of buses: four blocks make a frame (R143). -/
def fedStream (outputs : Vector (List Sample) 12) (number : Counter) (timecode : Timecode) (st : Stream) : Stream :=
  match st.setting with
  | none => st
  | some (left, right) =>
    let st := if number.toNat % 4 = 0 then { st with firstBlock := number, firstTimecode := timecode } else st
    let st := { st with blocks := st.blocks ++ [outputs[left].zip outputs[right]] }
    if number.toNat % 4 == 3 then { st with blocks := [], sequence := st.sequence + 1, emitted := st.emitted + 1 } else st

@[simp] theorem joinAudio_timing (f : AudioFrame) (s : State) : (joinAudio f s).timing = s.timing := by
  unfold joinAudio reportAudioLate
  repeat' split
  all_goals simp

@[simp] theorem joinAudio_mixer (f : AudioFrame) (s : State) : (joinAudio f s).mixer = s.mixer := by
  unfold joinAudio reportAudioLate
  repeat' split
  all_goals simp

@[simp] theorem feedStream_timing (outputs : Vector (List Sample) 12) (s : State) (i : Fin 4) :
    (feedStream outputs s i).timing = s.timing := by
  unfold feedStream
  split
  · rfl
  · simp only
    split
    · simp
    · rfl

/-- A stream's block changes the one stream, as `fedStream` says. -/
theorem feedStream_mixer (outputs : Vector (List Sample) 12) (s : State) (i : Fin 4) :
    (feedStream outputs s i).mixer = { s.mixer with
      streams := vecModify s.mixer.streams i (fedStream outputs s.timing.blockNumber s.timing.timecode) } := by
  unfold feedStream
  split
  · rename_i e
    rw [vecModify_eq_self (by simp only [fedStream, e])]
  · rename_i left right e
    rw [vecModify_eq_vecSet _ _ (fedStream _ _ _)]
    simp only [fedStream, e]
    split
    · rw [joinAudio_mixer]
      rfl
    · rfl

theorem feedStreams_mixer (outputs : Vector (List Sample) 12) (s : State) :
    (((List.finRange 4).foldl (feedStream outputs) s).mixer =
        { s.mixer with streams := ((List.finRange 4).foldl (feedStream outputs) s).mixer.streams })
      ∧ ∀ i : Fin 4, ((List.finRange 4).foldl (feedStream outputs) s).mixer.streams[i]
          = fedStream outputs s.timing.blockNumber s.timing.timecode s.mixer.streams[i] := by
  refine ⟨?_, fun i => ?_⟩
  · exact foldl_related (fun u v : State => v.mixer = { u.mixer with streams := v.mixer.streams }) (fun _ => rfl)
      (fun h h' => by rw [h', h]) (fun u j => by rw [feedStream_mixer]) _ s
  · exact foldl_vecModify (fun u : State => u.timing) (fun u => u.mixer.streams)
      (fun timing => fedStream outputs timing.blockNumber timing.timecode) (feedStream_timing outputs)
      (fun u j => by rw [feedStream_mixer]) s i

/-! ### The tick as a whole (R4, R128) -/

@[simp] theorem mixBlock_timing (inputs : Vector (List Int) 32) (s : State) : (mixBlock inputs s).timing = s.timing := by
  unfold mixBlock
  simp only
  rw [foldl_keeps (fun u : State => u.timing) (feedStream_timing _)]
  simp

/-- The second mixer is the first but for what the mixing of a block can change (stages 3 and 4): channels keep their gains
and levels, and buses their modes and gains (R127, R134, R135). -/
structure MixedOnly (m n : Mixer) : Prop where
  rest : n = { m with
    channels := n.channels, buses := n.buses, periodCount := n.periodCount, outputs := n.outputs, streams := n.streams }
  channel : ∀ c : Fin 32, n.channels[c] = { m.channels[c] with saturations := n.channels[c].saturations }
  bus : ∀ b : Fin 12, n.buses[b].mode = m.buses[b].mode ∧ n.buses[b].gain = m.buses[b].gain

namespace MixedOnly

theorem trans {m n o : Mixer} (h : MixedOnly m n) (h' : MixedOnly n o) : MixedOnly m o :=
  ⟨Eq.trans h'.rest (by rw [h.rest]), fun c => Eq.trans (h'.channel c) (by rw [h.channel c]),
    fun b => ⟨(h'.bus b).1.trans (h.bus b).1, (h'.bus b).2.trans (h.bus b).2⟩⟩

theorem clear (m : Mixer) : MixedOnly m (clearMeters m) :=
  ⟨rfl, fun _ => rfl, fun b => by simp [clearMeters]⟩

/-- A change of what plays and of the streams. -/
theorem played (m : Mixer) (outputs : Vector (Vector OutputPair 4) 2) (streams : Vector Stream 4) :
    MixedOnly m { m with outputs := outputs, streams := streams } :=
  ⟨rfl, fun _ => rfl, fun _ => ⟨rfl, rfl⟩⟩

/-- A change of the saturation counts, of the meters and of the period count. -/
theorem counted (m : Mixer) (saturations : Fin 32 → Counter) (blocks : Vector (List Int × Nat) 12) (count : Nat) :
    MixedOnly m { m with
      channels := Vector.ofFn fun c : Fin 32 => { m.channels[c] with saturations := saturations c }
      buses := Vector.ofFn fun b : Fin 12 => meterBlock blocks[b] m.buses[b]
      periodCount := count } := by
  have metered : ∀ (block : List Int × Nat) (b : Bus),
      (meterBlock block b).mode = b.mode ∧ (meterBlock block b).gain = b.gain := by
    intro block b
    unfold meterBlock
    split <;> exact ⟨rfl, rfl⟩
  exact ⟨rfl, fun c => by simp, fun b => by simpa using metered blocks[b] m.buses[b]⟩

end MixedOnly

/-- The end of a meter period clears the meters at most. -/
theorem endMeterPeriod_mixed (s : State) : MixedOnly s.mixer (endMeterPeriod s).mixer := by
  rw [endMeterPeriod_mixer]
  split
  · exact .played _ s.mixer.outputs s.mixer.streams
  · exact .clear _

@[simp] theorem clearMeters_streams (m : Mixer) : (clearMeters m).streams = m.streams := rfl

theorem endMeterPeriod_periodCount (s : State) :
    (endMeterPeriod s).mixer.periodCount = if s.mixer.periodCount < s.mixer.meterPeriod then s.mixer.periodCount else 0 := by
  rw [endMeterPeriod_mixer]
  split <;> rfl

/-- The mixing of a block: what it keeps, the meter period, and the streams that its outputs feed. -/
theorem mixBlock_mixer (inputs : Vector (List Int) 32) (s : State) :
    MixedOnly s.mixer (mixBlock inputs s).mixer
      ∧ (mixBlock inputs s).mixer.periodCount =
          (if s.mixer.meterPeriod ≤ s.mixer.periodCount + 1 then 0 else s.mixer.periodCount + 1)
      ∧ ∃ outputs, ∀ i : Fin 4, (mixBlock inputs s).mixer.streams[i]
          = fedStream outputs s.timing.blockNumber s.timing.timecode s.mixer.streams[i] := by
  unfold mixBlock
  extract_lets m gainedAll gained blocks outputs counted ended played
  have hcounted : MixedOnly s.mixer counted.mixer := .counted s.mixer _ blocks _
  have hended : MixedOnly counted.mixer ended.mixer := endMeterPeriod_mixed counted
  have hplayed : MixedOnly ended.mixer played.mixer := .played _ _ ended.mixer.streams
  obtain ⟨rest, streams⟩ := feedStreams_mixer outputs played
  have periodCount : counted.mixer.periodCount = s.mixer.periodCount + 1 := rfl
  have meterPeriod : counted.mixer.meterPeriod = s.mixer.meterPeriod := by rw [hcounted.rest]
  have endedCount := endMeterPeriod_periodCount counted
  have timing : played.timing = s.timing := by simp [played, ended, counted]
  have unfed : played.mixer.streams = s.mixer.streams := by
    show ended.mixer.streams = _
    have counted_streams : counted.mixer.streams = s.mixer.streams := by simp only [counted, State.modMixer_mixer]
    rw [endMeterPeriod_mixer]
    split
    · exact counted_streams
    · rw [clearMeters_streams, counted_streams]
  refine ⟨hcounted.trans (hended.trans (hplayed.trans ?_)), ?_, outputs, fun i => ?_⟩
  · rw [rest]
    exact .played _ played.mixer.outputs _
  · rw [rest]
    show ended.mixer.periodCount = _
    rw [endedCount, periodCount, meterPeriod]
    by_cases more : s.mixer.meterPeriod ≤ s.mixer.periodCount + 1
    · rw [if_pos more, if_neg (by omega)]
    · rw [if_neg more, if_pos (by omega)]
  · rw [streams, timing, unfed]

/-- A block tick counts the block, at the time now (R4). -/
theorem blockTick_timing (due : Nat) (s : State) :
    (blockTick due s).timing = { s.timing with blockNumber := s.timing.blockNumber + 1, lastBlock := s.now } := by
  simp only [blockTick, mixBlock_timing]
  rw [foldl_keeps (fun u : State => u.timing) tickReturn_timing]
  simp only [drainQueues, emptySilent, State.modMixer_timing]
  rw [foldl_keeps (fun u : State => u.timing) takeStream_timing]
  simp

/-- The second mixer is the first, its changes applied, after the rest of a block tick of a number at a timecode: ramps,
queues, return buffers, the meter period and the streams (R128). -/
structure TickedMixer (number : Counter) (timecode : Timecode) (m n : Mixer) : Prop where
  scenes : n.scenes = m.scenes
  changes : n.changes = m.changes
  meterPeriod : n.meterPeriod = m.meterPeriod
  gain : ∀ c : Fin 32, n.channels[c].gain = stepLevel m.channels[c].gain
  send : ∀ (c : Fin 32) (b : Fin 12), n.channels[c].sends[b] = stepLevel (m.channels[c].sends[b])
  bus : ∀ b : Fin 12, n.buses[b].mode = m.buses[b].mode ∧ n.buses[b].gain = stepLevel m.buses[b].gain
  serial : ∀ p : Fin 3, n.serial[p] = takeSamples m.serial[p]
  periodCount : n.periodCount = if m.meterPeriod ≤ m.periodCount + 1 then 0 else m.periodCount + 1
  returns : ∀ i : Fin 2, n.returns[i] = (playReturn m.returns[i]).2.1
  streams : ∃ outputs, ∀ i : Fin 4, n.streams[i] = fedStream outputs number timecode (takenStream number m.streams[i])

/-- Stages 1 and 2 after the change list: ramps, takes of streams, input queues and return buffers. -/
def readyBlock (s : State) : State :=
  (List.finRange 2).foldl tickReturn (drainQueues (emptySilent ((List.finRange 4).foldl takeStream (stepRamps s))))

@[simp] theorem readyBlock_timing (s : State) : (readyBlock s).timing = s.timing := by
  unfold readyBlock
  rw [foldl_keeps (fun u : State => u.timing) tickReturn_timing]
  simp only [drainQueues, emptySilent, State.modMixer_timing]
  rw [foldl_keeps (fun u : State => u.timing) takeStream_timing, stepRamps_timing]

/-- What the stages before the mixing leave of the mixer. -/
theorem readyBlock_mixer (s : State) :
    ((readyBlock s).mixer = { s.mixer with
        channels := vecMap (fun k : MixChannel =>
          { k with gain := stepLevel k.gain, sends := vecMap stepLevel k.sends }) s.mixer.channels
        buses := vecMap (fun b : Bus => { b with gain := stepLevel b.gain }) s.mixer.buses
        recalling := (readyBlock s).mixer.recalling
        serial := vecMap takeSamples s.mixer.serial
        embedded := (readyBlock s).mixer.embedded
        returns := (readyBlock s).mixer.returns
        streams := (readyBlock s).mixer.streams })
      ∧ (∀ i : Fin 2, (readyBlock s).mixer.returns[i] = (playReturn s.mixer.returns[i]).2.1)
      ∧ ∀ i : Fin 4, (readyBlock s).mixer.streams[i] = takenStream s.timing.blockNumber s.mixer.streams[i] := by
  unfold readyBlock
  have ramped := stepRamps_mixer s
  obtain ⟨taken, takes⟩ := takeStreams_mixer (stepRamps s)
  rw [stepRamps_timing] at takes
  generalize (List.finRange 4).foldl takeStream (stepRamps s) = u at *
  have drained : (drainQueues (emptySilent u)).mixer = { u.mixer with
      serial := vecMap takeSamples u.mixer.serial
      embedded := (drainQueues (emptySilent u)).mixer.embedded } := rfl
  obtain ⟨played, plays⟩ := tickReturns_mixer (drainQueues (emptySilent u))
  generalize drainQueues (emptySilent u) = v at *
  generalize (List.finRange 2).foldl tickReturn v = w at *
  generalize stepRamps s = r at *
  refine ⟨?_, fun i => ?_, fun i => ?_⟩
  · rw [played, drained, taken, ramped]
  · rw [plays, drained, taken, ramped]
  · rw [played, drained]
    show u.mixer.streams[i] = _
    rw [takes, ramped]

theorem blockTick_eq (due : Nat) (s : State) : ∃ inputs, blockTick due s = mixBlock inputs (readyBlock
    (applyChanges due (s.modTiming fun t => { t with blockNumber := t.blockNumber + 1, lastBlock := s.now }))) := by
  unfold blockTick readyBlock
  exact ⟨_, rfl⟩

/-- What the stages after the change list leave, put together. -/
theorem blockTick_mixer (due : Nat) (s : State) :
    TickedMixer (s.timing.blockNumber + 1) s.timing.timecode
      (applyChanges due (s.modTiming fun t => { t with blockNumber := t.blockNumber + 1, lastBlock := s.now })).mixer
      (blockTick due s).mixer := by
  obtain ⟨inputs, e⟩ := blockTick_eq due s
  rw [e]
  have timing := applyChanges_timing due
    (s.modTiming fun t => { t with blockNumber := t.blockNumber + 1, lastBlock := s.now })
  generalize applyChanges due _ = u at *
  obtain ⟨ready, plays, takes⟩ := readyBlock_mixer u
  have readyTiming := readyBlock_timing u
  generalize readyBlock u = v at *
  obtain ⟨⟨rest, channel, bus⟩, count, outputs, feeds⟩ := mixBlock_mixer inputs v
  generalize (mixBlock inputs v).mixer = n at *
  constructor
  case scenes => rw [rest, ready]
  case changes => rw [rest, ready]
  case meterPeriod => rw [rest, ready]
  case gain => intro c; rw [channel, ready]; simp
  case send => intro c b; rw [channel, ready]; simp
  case bus => intro b; rw [(bus b).1, (bus b).2, ready]; simp
  case serial => intro p; rw [rest, ready]; simp
  case periodCount => rw [count, ready]
  case returns => intro i; rw [rest]; exact plays i
  case streams =>
    refine ⟨outputs, fun i => ?_⟩
    rw [feeds, takes, readyTiming, timing]
    rfl

end stages

end Sys2Proof.Machine

namespace Sys2Proof.Machine

/-! ## An audio block tick seen from outside (R4, R128) -/

section blockTick

variable {s t : State}

/-! ### What serving keeps -/

theorem SendSide.timing (h : SendSide s t) : t.timing = s.timing := by rw [h.state]
theorem SendSide.mixer (h : SendSide s t) : t.mixer = s.mixer := by rw [h.state]
theorem SendSide.dram (h : SendSide s t) : t.store.dram = s.store.dram := by rw [h.state]

/-- The time, the straps, the ports and the waiting commands: what no work of a tick reaches. -/
def State.outside (s : State) : Time × Straps × Vector VideoPort 8 × List Instr := (s.now, s.straps, s.ports, s.pending)

theorem SendSide.outside (h : SendSide s t) : t.outside = s.outside := by
  rw [State.outside, h.state]
  rfl

theorem MixSide.outside (h : MixSide s t) : t.outside = s.outside := by
  rw [MixSide] at h
  rw [State.outside, h]
  rfl

theorem MixSide.dram (h : MixSide s t) : t.store.dram = s.store.dram := by
  rw [MixSide] at h
  rw [h]

theorem outside_with_control (s : State) (control : Control) : { s with control := control }.outside = s.outside := rfl

/-- Equal outsides are equal field by field. -/
theorem outside_eq_iff : t.outside = s.outside ↔
    t.now = s.now ∧ t.straps = s.straps ∧ t.ports = s.ports ∧ t.pending = s.pending := by
  simp [State.outside]

/-! ### Single changes (R129, R132) -/

/-- At a tick that finds every change due, all are applied in order and the list is empty (R129). -/
theorem applyChanges_all (s : State) :
    applyChanges s.mixer.changes.length s =
      s.mixer.changes.foldl applyChange { s with mixer := { s.mixer with changes := [] } } := by
  simp [applyChanges, State.modMixer]

/-- A recall: the configuration at once, every gain and level on a ramp from where it stands, and SCENE_TAKEN (R132). -/
theorem takeScene_mixer (slot : Fin 16) (length : Nat) (scene : Scene) (s : State) :
    (∀ c : Fin 32, (takeScene slot length scene s).mixer.channels[c].gain
        = startRamp length s.mixer.channels[c].gain scene.gains[c]
      ∧ ∀ b : Fin 12, (takeScene slot length scene s).mixer.channels[c].sends[b]
        = startRamp length (s.mixer.channels[c].sends[b]) (scene.sends[c])[b])
      ∧ (∀ b : Fin 12, (takeScene slot length scene s).mixer.buses[b] = { s.mixer.buses[b] with
          mode := scene.modes[b], gain := startRamp length s.mixer.buses[b].gain scene.busGains[b] })
      ∧ (takeScene slot length scene s).mixer.recalling = (if length = 0 then none else some ⟨slot, length, 0⟩)
      ∧ (takeScene slot length scene s).control =
          queueNotice ⟨.sceneTaken slot length s.timing.blockNumber, s.timing.timecode⟩ s.control := by
  simp [takeScene]

/-! ### Return buffers (R140) -/

/-- A concealed block: every sample is half the one played before, rounded down (R140). -/
theorem halveBlock_getElem? {last : PairBlock} {i : Nat} {pair : Sample × Sample} (h : last[i]? = some pair) :
    ∃ half : Sample × Sample, (halveBlock last)[i]? = some half
      ∧ half.1.toInt = pair.1.toInt / 2 ∧ half.2.toInt = pair.2.toInt / 2 := by
  refine ⟨(pair.1.sshiftRight 1, pair.2.sshiftRight 1), by simp [halveBlock, h], ?_, ?_⟩
  · simp [BitVec.toInt_sshiftRight, Int.shiftRight_eq_div_pow]
  · simp [BitVec.toInt_sshiftRight, Int.shiftRight_eq_div_pow]

theorem playReturn_priming {r : ReturnBuffer} (h : r.state = .priming) : playReturn r = (silentBlock, r, false) := by
  simp [playReturn, h]

theorem playReturn_block {r : ReturnBuffer} {block : PairBlock} {rest : List PairBlock} (h : r.state = .playing)
    (hq : r.queue = block :: rest) :
    playReturn r = (block, { r with queue := rest, lastPlayed := some block, emptyTicks := 0 }, false) := by
  simp [playReturn, h, hq]

theorem playReturn_conceal {r : ReturnBuffer} (h : r.state = .playing) (hq : r.queue = []) (he : r.emptyTicks = 0) :
    playReturn r = (halveBlock (r.lastPlayed.getD silentBlock),
      { r with emptyTicks := 1, concealed := r.concealed + 1 }, false) := by
  simp [playReturn, h, hq, he]

theorem playReturn_gap {r : ReturnBuffer} (h : r.state = .playing) (hq : r.queue = []) (he : r.emptyTicks ≠ 0) :
    playReturn r = (silentBlock,
      { r with state := .priming, lastPlayed := none, emptyTicks := 0, gaps := r.gaps + 1 }, true) := by
  simp [playReturn, h, hq, he]

/-- A serial port's queue gives its 16 oldest frames, and counts a short when it holds fewer (R122). -/
theorem takeSamples_eq (q : SampleQueue) : takeSamples q = { q with
    frames := q.frames.drop 16, shorts := q.shorts + (if q.frames.length < 16 then 1 else 0) } := by
  unfold takeSamples
  split
  · rfl
  · exact congrArg (fun shorts => { q with frames := q.frames.drop 16, shorts := shorts }) (BitVec.add_zero _).symm

/-! ### Streams (R142, R143) -/

section streams

variable (outputs : Vector (List Sample) 12) (number : Counter) (timecode : Timecode) {st : Stream}

theorem fedStream_disabled (h : st.setting = none) : fedStream outputs number timecode st = st := by
  simp [fedStream, h]

/-- A block never changes the setting, nor what is staged. -/
theorem fedStream_setting : (fedStream outputs number timecode st).setting = st.setting
    ∧ (fedStream outputs number timecode st).staged = st.staged := by
  unfold fedStream
  split
  · exact ⟨rfl, rfl⟩
  · simp only
    repeat' split
    all_goals exact ⟨rfl, rfl⟩

variable {outputs number timecode}

theorem fedStream_first (h : st.setting ≠ none) (hn : number.toNat % 4 = 0) :
    (fedStream outputs number timecode st).firstBlock = number
      ∧ (fedStream outputs number timecode st).firstTimecode = timecode := by
  obtain ⟨⟨left, right⟩, e⟩ := Option.ne_none_iff_exists'.mp h
  simp [fedStream, e, hn]

theorem fedStream_last (h : st.setting ≠ none) (hn : number.toNat % 4 = 3) :
    (fedStream outputs number timecode st).blocks = []
      ∧ (fedStream outputs number timecode st).sequence = st.sequence + 1
      ∧ (fedStream outputs number timecode st).emitted = st.emitted + 1 := by
  obtain ⟨⟨left, right⟩, e⟩ := Option.ne_none_iff_exists'.mp h
  simp [fedStream, e, hn]

theorem fedStream_open {left right : Fin 12} (h : st.setting = some (left, right)) (hn : number.toNat % 4 ≠ 3) :
    (fedStream outputs number timecode st).blocks = st.blocks ++ [outputs[left].zip outputs[right]]
      ∧ (fedStream outputs number timecode st).sequence = st.sequence
      ∧ (fedStream outputs number timecode st).emitted = st.emitted := by
  by_cases first : number.toNat % 4 = 0
  · simp [fedStream, h, first]
  · simp [fedStream, h, hn, first]

end streams

/-- A stream after a block: a disabled one is left as it is; of an enabled one the first block names the frame, and the
fourth ends it (R143). -/
theorem fedStream_clauses {outputs : Vector (List Sample) 12} {number : Counter} {timecode : Timecode} {taken new : Stream}
    (h : new = fedStream outputs number timecode taken) :
    new.setting = taken.setting ∧ new.staged = taken.staged ∧ (taken.setting = none → new = taken)
      ∧ (taken.setting ≠ none →
        (number.toNat % 4 = 0 → new.firstBlock = number ∧ new.firstTimecode = timecode)
        ∧ (number.toNat % 4 = 3 → new.blocks = [] ∧ new.sequence = taken.sequence + 1 ∧ new.emitted = taken.emitted + 1)
        ∧ (number.toNat % 4 ≠ 3 → new.blocks.length = taken.blocks.length + 1 ∧ new.sequence = taken.sequence
          ∧ new.emitted = taken.emitted)) := by
  subst h
  obtain ⟨setting, staged⟩ := fedStream_setting outputs number timecode (st := taken)
  refine ⟨setting, staged, fedStream_disabled _ _ _, fun h => ⟨fedStream_first h, fedStream_last h, fun hn => ?_⟩⟩
  obtain ⟨⟨left, right⟩, e⟩ := Option.ne_none_iff_exists'.mp h
  obtain ⟨blocks, sequence, emitted⟩ := fedStream_open (outputs := outputs) (timecode := timecode) e hn
  exact ⟨by rw [blocks]; simp, sequence, emitted⟩

/-- Before the fourth block nothing is handed to the scheduler (R143). -/
theorem feedStream_sched_open {outputs : Vector (List Sample) 12} {i : Fin 4}
    (hn : s.timing.blockNumber.toNat % 4 ≠ 3) : (feedStream outputs s i).sched = s.sched := by
  unfold feedStream
  split
  · rfl
  · simp [hn]

/-- The payload of the frame that a stream's fourth block completes (Table 10-7). -/
def framePayload (outputs : Vector (List Sample) 12) (st : Stream) (left right : Fin 12) : List Byte :=
  audioPayload { st with blocks := st.blocks ++ [outputs[left].zip outputs[right]] }

/-- A frame finds room in an audio queue of fewer than 512 (R176). -/
theorem joinAudio_sched {f : AudioFrame} (room : s.sched.audioQueue.length < 512) :
    (joinAudio f s).sched = { s.sched with audioQueue := s.sched.audioQueue ++ [f] } := by
  unfold joinAudio
  split
  · rw [if_neg (by omega)]
    rfl
  · rename_i e
    simp [e]

/-- The fourth block hands the frame to the audio queue (R143, R176). -/
theorem feedStream_sched_full {outputs : Vector (List Sample) 12} {i : Fin 4} {left right : Fin 12}
    (h : s.mixer.streams[i].setting = some (left, right)) (hn : s.timing.blockNumber.toNat % 4 = 3)
    (room : s.sched.audioQueue.length < 512) :
    (feedStream outputs s i).sched = { s.sched with
      audioQueue := s.sched.audioQueue ++
        [⟨i, s.mixer.streams[i].sequence, s.sched.tickCount, framePayload outputs s.mixer.streams[i] left right⟩] } := by
  simp only [feedStream, h, hn, beq_self_eq_true, if_true]
  exact joinAudio_sched room

theorem bigEndian_length (size n : Nat) : (bigEndian size n).length = size := by
  induction size with
  | zero => rfl
  | succ size ih => simp [bigEndian, ih]

/-- Each pair of samples is six bytes (Table 10-7). -/
theorem pairBytes_length (pairs : PairBlock) :
    (pairs.flatMap fun pair => bigEndian 3 pair.1.toNat ++ bigEndian 3 pair.2.toNat).length = 6 * pairs.length := by
  induction pairs with
  | nil => rfl
  | cons pair rest ih =>
    simp only [List.flatMap_cons, List.length_append, bigEndian_length, ih, List.length_cons]
    omega

/-- A frame of four whole blocks is 392 bytes: a head of 8, and 64 pairs of six bytes (Table 10-7). -/
theorem audioPayload_length {st : Stream} (four : st.blocks.length = 4) (whole : ∀ block ∈ st.blocks, block.length = 16) :
    (audioPayload st).length = 392 := by
  have pairs : st.blocks.flatten.length = 64 := by
    rw [List.length_flatten, List.eq_replicate_of_mem (a := 16) (l := st.blocks.map List.length)]
    · simp [four]
    · simpa using whole
  show (bigEndian 4 _ ++ timecodeBytes _ ++ st.blocks.flatten.flatMap _).length = 392
  rw [List.length_append, List.length_append, bigEndian_length, pairBytes_length, pairs]
  rfl

/-! ### Meters and recalls left by a tick (notes/assumptions/12.md) -/

theorem finishRecall_before (h : ∀ r, s.mixer.recalling = some r → r.steps < r.length) : finishRecall s = s := by
  unfold finishRecall
  split
  · rename_i r e
    rw [if_neg (by have := h r e; omega)]
  · rfl

theorem finishRecall_at {r : Recall} (h : s.mixer.recalling = some r) (reached : r.length ≤ r.steps) :
    finishRecall s = { s with mixer := { s.mixer with recalling := none }, control := (finishRecall s).control } := by
  have e : finishRecall s = raise (.sceneDone r.slot s.timing.blockNumber)
      (s.modMixer fun m => { m with recalling := none }) := by
    simp [finishRecall, h, reached]
  rw [e, raise_of_not_protocol _ rfl]
  rfl

theorem endMeterPeriod_before (h : s.mixer.periodCount < s.mixer.meterPeriod) : endMeterPeriod s = s := by
  simp [endMeterPeriod, h]

/-- Notices that are no PROTOCOL notices change the control port alone, however many. -/
theorem foldl_raise {α : Type} {body : α → NoticeBody} (h : ∀ a, protocolPath (body a) = none) (l : List α) (s : State) :
    ∃ control, l.foldl (fun u a => raise (body a) u) s = { s with control := control } :=
  ⟨_, foldl_related (fun u v : State => v = { u with control := v.control }) (fun _ => rfl)
    (fun h h' => by rw [h', h]) (fun u a => by rw [raise_of_not_protocol _ (h a)]) l s⟩

/-- The end of a period that has been reached clears the meters, and its notices change the control port alone. -/
theorem endMeterPeriod_at (h : s.mixer.meterPeriod ≤ s.mixer.periodCount) :
    endMeterPeriod s = { s with mixer := clearMeters s.mixer, control := (endMeterPeriod s).control } := by
  obtain ⟨control, e⟩ := foldl_raise (body := fun b : Fin 12 => .meter b s.mixer.meterPeriod s.mixer.buses[b].meterPeak
    s.mixer.buses[b].meterSaturations s.timing.blockNumber) (fun _ => rfl)
    (vecWhere (fun b : Bus => b.mode != .off) s.mixer.buses) s
  have ended : endMeterPeriod s = { s with control := control }.modMixer clearMeters := by
    unfold endMeterPeriod
    rw [if_neg (by omega), ← e]
  rw [ended]
  rfl

end blockTick

/-! ### The end of a command -/

/-- The end of a command changes the control port alone. -/
theorem finish_next (u : State) : ∃ t, finish u = .next t ∧ t = { u with control := t.control } :=
  ⟨_, finish_eq u, rfl⟩

/-- The frames that an event lets start, and the end of the command, leave the mixer, the timing record and the bytes of
the store. -/
theorem finish_serve (u : State) : ∃ t, finish (serve u) = .next t ∧ t.mixer = u.mixer ∧ t.timing = u.timing
    ∧ t.outside = u.outside ∧ t.store.dram = u.store.dram := by
  obtain ⟨t, e, ht⟩ := finish_next (serve u)
  have side := serve_only u
  refine ⟨t, e, ?_, ?_, ?_, ?_⟩
  · rw [ht, side.mixer]
  · rw [ht, side.timing]
  · rw [ht, outside_with_control, side.outside]
  · rw [ht, side.dram]

/-- Settles O44: the single changes and stages by their own lemmas, and the tick as the chain of its stages. -/
theorem anAudioBlockTick : Obligations.AnAudioBlockTick := by
  refine ⟨fun s => ?_, fun r => ?_, fun outputs s i left right setting => ?_, fun s => ⟨?_, ?_, ?_, ?_, ?_⟩⟩
  · refine ⟨applyChanges_all s, fun _ _ => rfl, fun _ _ _ => rfl, fun _ _ => rfl, fun _ _ => rfl, fun _ _ _ => rfl,
      fun _ _ _ _ => rfl, fun slot length scene => takeScene_mixer slot length scene s⟩
  · refine ⟨fun h => ?_, fun h => ⟨fun oldest rest hq => ?_, fun hq he last hl => ⟨?_, fun j pair hp => ?_⟩,
      fun hq he => ?_⟩⟩
    · rw [playReturn_priming h]; rfl
    · rw [playReturn_block h hq]
    · rw [playReturn_conceal h hq he, hl]
      simp [halveBlock]
    · rw [playReturn_conceal h hq he, hl]
      exact halveBlock_getElem? hp
    · rw [playReturn_gap h hq he]; rfl
  · refine ⟨fun hn => ⟨feedStream_sched_open hn, ?_⟩, fun hn room => feedStream_sched_full setting hn room,
      fun three whole => ?_⟩
    · rw [feedStream_mixer]
      exact (congrArg Stream.blocks (vecModify_same _ _ _)).trans (fedStream_open setting hn).1
    · exact audioPayload_length (st := { s.mixer.streams[i] with
        blocks := s.mixer.streams[i].blocks ++ [outputs[left].zip outputs[right]] })
        (by rw [List.length_append, three]; rfl) whole
  · obtain ⟨t, e, mixer, timing, outside, dram⟩ := finish_serve
      (blockTick s.mixer.changes.length (s.passTo (s.timing.lastBlock + blockSpacing)))
    have applied := applyChanges_mixer s.mixer.changes.length
      ((s.passTo (s.timing.lastBlock + blockSpacing)).modTiming fun r => { r with
        blockNumber := r.blockNumber + 1
        lastBlock := (s.passTo (s.timing.lastBlock + blockSpacing)).now })
    have ticked := blockTick_mixer s.mixer.changes.length (s.passTo (s.timing.lastBlock + blockSpacing))
    rw [← mixer] at ticked
    have side := blockTick_only s.mixer.changes.length (s.passTo (s.timing.lastBlock + blockSpacing))
    rw [side.outside] at outside
    rw [blockTick_timing] at timing
    rw [side.dram] at dram
    obtain ⟨now, straps, ports, pending⟩ := outside_eq_iff.mp outside
    refine ⟨t, e, now, timing, ?_, ?_, ?_, fun c => ⟨ticked.gain c, ticked.send c⟩, ticked.bus, fun p => ?_, ?_,
      fun i => ?_, fun i => ?_, ports, straps, dram, pending⟩
    · rw [ticked.changes, applied]
      exact List.drop_length
    · rw [ticked.scenes, applied]
      rfl
    · rw [ticked.meterPeriod, applied]
      rfl
    · rw [ticked.serial, applied]
      exact takeSamples_eq _
    · rw [ticked.periodCount, applied]
      rfl
    · have played : t.mixer.returns[i] = (playReturn s.mixer.returns[i]).2.1 := by rw [ticked.returns, applied]; rfl
      refine ⟨fun h => ?_, fun h => ⟨fun block rest hq => ?_, fun hq he => ?_, fun hq he => ?_⟩⟩
      · rw [played, playReturn_priming h]
      · rw [played, playReturn_block h hq]
      · rw [played, playReturn_conceal h hq he]
      · rw [played, playReturn_gap h hq he]
    · obtain ⟨outputs, fed⟩ := ticked.streams
      have new : t.mixer.streams[i] = fedStream outputs (s.timing.blockNumber + 1) s.timing.timecode
          (takenStream (s.timing.blockNumber + 1) s.mixer.streams[i]) := by rw [fed, applied]; rfl
      refine fedStream_clauses (new.trans (congrArg (fedStream outputs _ _) ?_))
      unfold takenStream
      cases s.mixer.streams[i].staged <;> rfl
  · intro h
    show finish (finishRecall s) = _
    rw [finishRecall_before h]
  · intro r h reached
    obtain ⟨t, e, ht⟩ := finish_next (finishRecall s)
    rw [finishRecall_at h reached] at ht
    exact ⟨t, e, ht⟩
  · intro h
    show finish (endMeterPeriod s) = _
    rw [endMeterPeriod_before h]
  · intro h
    obtain ⟨t, e, ht⟩ := finish_next (endMeterPeriod s)
    rw [endMeterPeriod_at h] at ht
    exact ⟨t, e, ht⟩

end Sys2Proof.Machine

namespace Sys2Proof.Machine

/-! ## The picture tick (R3, R4, R6, R175) -/

section tick

variable {s t u : State}

/-! ### What the agents' work leaves alone -/

theorem CoderSide.timing {c : Fin 6} (h : CoderSide c s t) : t.timing = s.timing := by rw [h.state]
theorem CoderSide.mixer {c : Fin 6} (h : CoderSide c s t) : t.mixer = s.mixer := by rw [h.state]

theorem CoderSide.outside {c : Fin 6} (h : CoderSide c s t) : t.outside = s.outside := by
  rw [State.outside, h.state]
  rfl

/-- A channel's turn, at a tick with or without a rate take, reaches what its work can reach. -/
theorem agentTick_coder (due : Vector Staged 6) (changes : Nat) (taken : Bool) (s : State) (c : Fin 6) :
    CoderSide c s (agentTick due changes taken s (.coder c)) := by
  cases taken with
  | true => exact coderRateTake_only c due[c] s
  | false => exact coderTick_only c due[c] s

@[simp] theorem agentTick_scheduler (due : Vector Staged 6) (changes : Nat) (taken : Bool) (s : State) :
    agentTick due changes taken s .scheduler = schedulerTick s := rfl

@[simp] theorem agentTick_mixer (due : Vector Staged 6) (changes : Nat) (taken : Bool) (s : State) :
    agentTick due changes taken s .mixer = blockTick changes s := rfl

/-- The work of one agent leaves what no work of a tick reaches. -/
theorem agentTurn_outside (due : Vector Staged 6) (changes : Nat) (taken : Bool) (s : State) (agent : TickAgent) :
    (agentTurn due changes taken s agent).outside = s.outside := by
  rw [agentTurn, (serve_only _).outside]
  cases agent with
  | coder c => exact (agentTick_coder due changes taken s c).outside
  | scheduler => exact (schedulerTick_only s).outside
  | mixer => exact (blockTick_only changes s).outside

/-- The mixer's turn counts the block at the time now (R4), and no other agent's turn changes the timing record. -/
theorem agentTurn_timing (due : Vector Staged 6) (changes : Nat) (taken : Bool) (s : State) (agent : TickAgent) :
    (agentTurn due changes taken s agent).timing =
      if agent = .mixer then { s.timing with blockNumber := s.timing.blockNumber + 1, lastBlock := s.now }
      else s.timing := by
  rw [agentTurn, (serve_only _).timing]
  cases agent with
  | coder c =>
    rw [if_neg (by simp)]
    exact (agentTick_coder due changes taken s c).timing
  | scheduler =>
    rw [if_neg (by simp), agentTick_scheduler, (schedulerTick_only s).timing]
  | mixer =>
    rw [if_pos rfl, agentTick_mixer, blockTick_timing]

/-- A block counted at a time (R4). -/
def countBlock (clock : Time × Timing) : Time × Timing :=
  (clock.1, { clock.2 with blockNumber := clock.2.blockNumber + 1, lastBlock := clock.1 })

/-- The mixer's turn alone moves the clock of the timing record. -/
theorem agentTurn_clock (due : Vector Staged 6) (changes : Nat) (taken : Bool) (s : State) (agent : TickAgent) :
    ((agentTurn due changes taken s agent).now, (agentTurn due changes taken s agent).timing) =
      if agent = .mixer then countBlock (s.now, s.timing) else (s.now, s.timing) := by
  rw [(outside_eq_iff.mp (agentTurn_outside due changes taken s agent)).1, agentTurn_timing]
  split <;> rfl

/-- The scheduler's turn counts the tick (R175), and no other agent's does. -/
theorem agentTurn_tickCount (due : Vector Staged 6) (changes : Nat) (taken : Bool) (s : State) (agent : TickAgent) :
    (agentTurn due changes taken s agent).sched.tickCount =
      if agent = .scheduler then s.sched.tickCount + 1 else s.sched.tickCount := by
  rw [agentTurn, serve_tickCount]
  cases agent with
  | coder c =>
    rw [if_neg (by simp)]
    exact (agentTick_coder due changes taken s c).tickCount
  | scheduler =>
    rw [if_pos rfl, agentTick_scheduler, schedulerTick_tickCount]
  | mixer =>
    rw [if_neg (by simp), agentTick_mixer, (blockTick_only changes s).tickCount]

/-! ### The order of the agents (R19) -/

theorem nodup_eraseDups {α : Type} [DecidableEq α] (l : List α) : l.eraseDups.Nodup := by
  induction h : l.length using Nat.strong_induction_on generalizing l with
  | _ n ih =>
    cases l with
    | nil => simp
    | cons a rest =>
      rw [List.eraseDups_cons, List.nodup_cons]
      have shorter : (rest.filter fun b => !b == a).length < n := by
        have := List.length_filter_le (fun b => !b == a) rest
        simp only [List.length_cons] at h
        omega
      exact ⟨by simp, ih _ shorter _ rfl⟩

/-- Each agent has one turn at a tick. -/
theorem tickOrder_nodup (s : State) : s.tickOrder.Nodup := nodup_eraseDups _

theorem mem_tickOrder (s : State) (agent : TickAgent) : agent ∈ s.tickOrder := by
  have named : agent ∈ defaultOrder := by
    cases agent with
    | coder c => revert c; decide
    | scheduler => decide
    | mixer => decide
  simp [State.tickOrder, named]

/-- Of steps of which one alone changes a value, each taken at most once: the value changes as that step says, or not at
all when it is not among them. -/
theorem foldl_once {σ ι β : Type} [DecidableEq ι] {f : σ → ι → σ} (g : σ → β) (change : β → β) (one : ι)
    (step : ∀ u a, g (f u a) = if a = one then change (g u) else g u) {l : List ι} (nodup : l.Nodup) (mem : one ∈ l)
    (u : σ) : g (l.foldl f u) = change (g u) := by
  obtain ⟨before, after, rfl, fresh⟩ := List.eq_append_cons_of_mem mem
  have rest : one ∉ after := (List.nodup_cons.mp (List.nodup_append.mp nodup).2.1).1
  have others : ∀ (l : List ι) (v : σ), one ∉ l → g (l.foldl f v) = g v := by
    intro l
    induction l with
    | nil => exact fun v _ => rfl
    | cons a l ih =>
      intro v h
      rw [List.mem_cons, not_or] at h
      obtain ⟨ha, hl⟩ := h
      rw [List.foldl_cons, ih _ hl, step, if_neg (Ne.symm ha)]
  rw [List.foldl_append, List.foldl_cons, others _ _ rest, step, if_pos rfl, others _ _ fresh]

/-! ### Cues that fire (R10, R11) -/

/-- The second state is the first but for what a cue that fires can change: the cue list, and what its action and its
notice reach (R10, R11). -/
def CueSide (s t : State) : Prop :=
  t = { s with
    timing := { s.timing with cues := t.timing.cues }
    coders := t.coders
    alloc := t.alloc
    store := t.store
    clipLog := t.clipLog
    mixer := { s.mixer with changes := t.mixer.changes }
    sched := { s.sched with reads := t.sched.reads }
    control := t.control }

namespace CueSide

theorem refl (s : State) : CueSide s s := rfl

theorem trans (h : CueSide s t) (h' : CueSide t u) : CueSide s u :=
  Eq.trans (id h') (by rw [id h])

theorem of_open (h : OpenSide s t) : CueSide s t := by
  rw [OpenSide, ClipOnly] at h
  exact Eq.trans (id h) (by rw [id h])

theorem raise {body : NoticeBody} (s : State) (h : protocolPath body = none) : CueSide s (Machine.raise body s) := by
  rw [raise_of_not_protocol s h]
  rfl

theorem timing (h : CueSide s t) : t.timing = { s.timing with cues := t.timing.cues } := by rw [id h]

theorem tickCount (h : CueSide s t) : t.sched.tickCount = s.sched.tickCount := by rw [id h]

theorem outside (h : CueSide s t) : t.outside = s.outside := by
  rw [State.outside, id h]
  rfl

end CueSide

theorem OpenSide.timing (h : OpenSide s t) : t.timing = s.timing := by
  rw [OpenSide, ClipOnly] at h
  rw [h]

/-- All that the action of a cue can change, whether it is carried out or refused; the timing record stays as it is. -/
theorem performAction_only (due : Vector Staged 6) (action : CueAction) (body : List Byte) (s : State) :
    CueSide s (performAction due action body s).2 ∧ (performAction due action body s).2.timing = s.timing := by
  unfold performAction
  split
  · exact ⟨.refl s, rfl⟩
  · cases action with
    | coderSet =>
      rcases coderSet_only due body s with h | ⟨c, staged, h⟩
      · rw [h]
        exact ⟨.refl s, rfl⟩
      · rw [h]
        exact ⟨rfl, rfl⟩
    | sceneRecall =>
      rcases sceneRecall_only body s with h | ⟨slot, length, scene, -, h⟩
      · rw [h]
        exact ⟨.refl s, rfl⟩
      · rw [h]
        exact ⟨rfl, rfl⟩
    | clipOpen => exact ⟨.of_open (clipOpen_only _ _ _), (clipOpen_only _ _ _).timing⟩
    | clipClose => exact ⟨.of_open (.of_clip (clipClose_only _ _ _)), (OpenSide.of_clip (clipClose_only _ _ _)).timing⟩
    | clipMark => exact ⟨.of_open (.of_clip (clipMark_only _ _)), (OpenSide.of_clip (clipMark_only _ _)).timing⟩

/-- The state in which a firing cue acts: it has left the list (R11). -/
def withoutCue (c : Cue) (s : State) : State :=
  s.modTiming fun t => { t with cues := t.cues.filter fun d => d.id != c.id }

/-- A firing cue acts with itself removed, and raises its notice with the request's code (R11). -/
theorem fireCue_eq (due : Vector Staged 6) (outcome : CueOutcome) (s : State) (c : Cue) :
    fireCue due outcome s c =
      raise (.cue c.id c.action outcome c.target (performAction due c.action c.body (withoutCue c s)).1.code)
        (performAction due c.action c.body (withoutCue c s)).2 := rfl

theorem fireCue_only (due : Vector Staged 6) (outcome : CueOutcome) (s : State) (c : Cue) :
    CueSide s (fireCue due outcome s c) := by
  rw [fireCue_eq]
  exact .trans (.trans (t := withoutCue c s) rfl (performAction_only due c.action c.body _).1) (.raise _ rfl)

theorem fireCue_cues (due : Vector Staged 6) (outcome : CueOutcome) (s : State) (c : Cue) :
    (fireCue due outcome s c).timing.cues = s.timing.cues.filter fun d => d.id != c.id := by
  rw [fireCue_eq, raise_timing, (performAction_only due c.action c.body _).2]
  rfl

/-- The cues of a list that fire leave the cue list, and no other. -/
theorem foldl_fireCue_cues (due : Vector Staged 6) (outcome : CueOutcome) (fired : List Cue) (s : State) :
    (fired.foldl (fireCue due outcome) s).timing.cues =
      s.timing.cues.filter fun d => fired.all fun c => d.id != c.id := by
  induction fired generalizing s with
  | nil => simp
  | cons c rest ih =>
    rw [List.foldl_cons, ih, fireCue_cues, List.filter_filter]
    simp [Bool.and_comm]

theorem fireCues_only (due : Vector Staged 6) (s : State) : CueSide s (fireCues due s) :=
  .trans (foldl_related CueSide .refl .trans (fireCue_only due .late) _ s)
    (foldl_related CueSide .refl .trans (fireCue_only due .onTime) _ _)

/-! ### The parts of a tick -/

/-- The timecode of the tick: the staged one, or the next, clamped to a rate that takes (R3). -/
theorem takeTimecode_timecode (s : State) : (takeTimecode s).timing.timecode = s.tickTimecode := by
  cases staged : s.timing.stagedTimecode <;> cases rate : s.timing.stagedRate <;>
    simp [takeTimecode, State.tickTimecode, Timing.advanced, clampFrames, staged, rate]

/-- The timecode and the rate of the tick (R3, R5, R6). -/
theorem takeTimecode_timing (s : State) : (takeTimecode s).timing = { s.timing with
    timecode := s.tickTimecode
    rate := s.timing.stagedRate.getD s.timing.rate
    stagedTimecode := none
    stagedRate := none
    lastTick := s.now } := by
  rw [takeTimecode_only, takeTimecode_timecode]

/-- The state in which the agents handle a tick: the timecode is fixed, and the cues have fired or were cleared. -/
def fixedTick (s : State) : State :=
  let s := endPictures s
  let fixed := takeTimecode (beginPeriod s)
  if s.timing.stagedRate.isSome then takeRate s.timing.rate fixed
  else fireCues (vecMap (fun k : CoderChannel => k.staged) s.coders) fixed

/-- A picture tick is the turns of the agents, each once, from there on (R19). -/
theorem pictureTick_eq (s : State) :
    pictureTick s = (fixedTick s).tickOrder.foldl
      (agentTurn (vecMap (fun k : CoderChannel => k.staged) (endPictures s).coders) (endPictures s).mixer.changes.length
        (endPictures s).timing.stagedRate.isSome)
      { fixedTick s with tickOrders := (fixedTick s).tickOrders.drop 1 } := rfl

/-- Pictures that end before the tick reach no more than coding and serving do (R34). -/
theorem endPictures_keeps (s : State) : (endPictures s).outside = s.outside ∧ (endPictures s).timing = s.timing
    ∧ (endPictures s).mixer = s.mixer ∧ (endPictures s).sched.tickCount = s.sched.tickCount := by
  have coded := fun (u : State) (c : Fin 6) => pictureCodedEvent_only c u
  unfold endPictures
  split
  · rw [(serve_only _).outside, (serve_only _).timing, (serve_only _).mixer, serve_tickCount,
      foldl_keeps State.outside (fun u c => (coded u c).outside), foldl_keeps (·.timing) (fun u c => (coded u c).timing),
      foldl_keeps (·.mixer) (fun u c => (coded u c).mixer),
      foldl_keeps (·.sched.tickCount) (fun u c => (coded u c).tickCount)]
    exact ⟨rfl, rfl, rfl, rfl⟩
  · exact ⟨rfl, rfl, rfl, rfl⟩

theorem takeTimecode_keeps (s : State) : (takeTimecode s).outside = s.outside
    ∧ (takeTimecode s).mixer = s.mixer ∧ (takeTimecode s).coders = s.coders ∧ (takeTimecode s).sched = s.sched := by
  rw [State.outside, takeTimecode_only]
  exact ⟨rfl, rfl, rfl, rfl⟩

theorem takeRate_keeps (old : PictureRate) (s : State) : (takeRate old s).outside = s.outside
    ∧ (takeRate old s).timing = { s.timing with cues := [] } ∧ (takeRate old s).sched = s.sched := by
  rw [State.outside, takeRate_only]
  exact ⟨rfl, rfl, rfl⟩

/-- The coming timecode is read from the timing record alone. -/
theorem tickTimecode_congr (h : t.timing = s.timing) : t.tickTimecode = s.tickTimecode := by
  unfold State.tickTimecode
  rw [h]

/-- The part once the timecode is fixed and before the cues are examined. -/
def fixedTimecode (s : State) : State := takeTimecode (beginPeriod (endPictures s))

theorem fixedTimecode_keeps (s : State) : (fixedTimecode s).outside = s.outside
    ∧ (fixedTimecode s).sched.tickCount = s.sched.tickCount ∧ (fixedTimecode s).mixer = s.mixer
    ∧ (fixedTimecode s).timing = { s.timing with
        timecode := s.tickTimecode
        rate := s.timing.stagedRate.getD s.timing.rate
        stagedTimecode := none
        stagedRate := none
        lastTick := s.now } := by
  obtain ⟨outside, timing, mixer, count⟩ := endPictures_keeps s
  obtain ⟨begunOutside, begunMixer, -, begunSched⟩ := takeTimecode_keeps (beginPeriod (endPictures s))
  have begun : (beginPeriod (endPictures s)).timing = s.timing := timing
  have now : (beginPeriod (endPictures s)).now = s.now := (outside_eq_iff.mp outside).1
  refine ⟨begunOutside.trans outside, ?_, begunMixer.trans mixer, ?_⟩
  · rw [fixedTimecode, begunSched]
    exact count
  · rw [fixedTimecode, takeTimecode_timing, tickTimecode_congr begun, begun, now]

/-- The agents begin with the cues cleared by a rate that takes, or fired (R6, R10). -/
theorem fixedTick_eq (s : State) : fixedTick s =
    if s.timing.stagedRate.isSome then takeRate s.timing.rate (fixedTimecode s)
    else fireCues (vecMap (fun k : CoderChannel => k.staged) (endPictures s).coders) (fixedTimecode s) := by
  obtain ⟨-, timing, -, -⟩ := endPictures_keeps s
  rw [fixedTick, timing]
  rfl

/-- What has become of the part when the agents begin: the timecode and the rate are those of the tick. -/
theorem fixedTick_keeps (s : State) : (fixedTick s).outside = s.outside
    ∧ (fixedTick s).sched.tickCount = s.sched.tickCount
    ∧ (fixedTick s).timing = { s.timing with
        timecode := s.tickTimecode
        rate := s.timing.stagedRate.getD s.timing.rate
        stagedTimecode := none
        stagedRate := none
        lastTick := s.now
        cues := (fixedTick s).timing.cues } := by
  obtain ⟨outside, count, -, timing⟩ := fixedTimecode_keeps s
  rw [fixedTick_eq]
  split
  · obtain ⟨cleared, clearedTiming, sched⟩ := takeRate_keeps s.timing.rate (fixedTimecode s)
    refine ⟨cleared.trans outside, ?_, ?_⟩
    · rw [sched, count]
    · rw [clearedTiming, timing]
  · have fired := fireCues_only (vecMap (fun k : CoderChannel => k.staged) (endPictures s).coders) (fixedTimecode s)
    refine ⟨fired.outside.trans outside, fired.tickCount.trans count, ?_⟩
    rw [fired.timing, timing]

/-- What a picture tick leaves: its timecode and its rate, one block and one tick counted, at the time now. -/
theorem pictureTick_keeps (s : State) : (pictureTick s).outside = s.outside
    ∧ (pictureTick s).sched.tickCount = s.sched.tickCount + 1
    ∧ (pictureTick s).timing = { s.timing with
        timecode := s.tickTimecode
        rate := s.timing.stagedRate.getD s.timing.rate
        stagedTimecode := none
        stagedRate := none
        lastTick := s.now
        lastBlock := s.now
        blockNumber := s.timing.blockNumber + 1
        cues := (fixedTick s).timing.cues } := by
  obtain ⟨outside, count, timing⟩ := fixedTick_keeps s
  have now := (outside_eq_iff.mp outside).1
  have order := tickOrder_nodup (fixedTick s)
  rw [pictureTick_eq]
  generalize vecMap (fun k : CoderChannel => k.staged) (endPictures s).coders = due
  generalize (endPictures s).mixer.changes.length = changes
  generalize (endPictures s).timing.stagedRate.isSome = taken
  refine ⟨?_, ?_, ?_⟩
  · rw [foldl_keeps State.outside (agentTurn_outside due changes taken)]
    exact outside
  · rw [foldl_once (fun u : State => u.sched.tickCount) (· + 1) .scheduler (agentTurn_tickCount due changes taken) order
      (mem_tickOrder _ _)]
    exact congrArg (· + 1) count
  · have turns := foldl_once (fun u : State => (u.now, u.timing)) countBlock .mixer
      (agentTurn_clock due changes taken) order (mem_tickOrder _ _)
      { fixedTick s with tickOrders := (fixedTick s).tickOrders.drop 1 }
    refine (congrArg Prod.snd turns).trans ?_
    show { (fixedTick s).timing with
      blockNumber := (fixedTick s).timing.blockNumber + 1, lastBlock := (fixedTick s).now } = _
    rw [timing, now]

/-! ### Commands that tick (R1, R2) -/

/-- The second state is what a tick of the first leaves, but for notices and the end of the command. -/
structure AfterTick (w t : State) : Prop where
  outside : t.outside = (pictureTick w).outside
  timing : t.timing = (pictureTick w).timing
  coders : t.coders = (pictureTick w).coders
  mixer : t.mixer = (pictureTick w).mixer
  tickCount : t.sched.tickCount = (pictureTick w).sched.tickCount

theorem finish_pictureTick (w : State) : ∃ t, finish (pictureTick w) = .next t ∧ AfterTick w t := by
  obtain ⟨t, e, ht⟩ := finish_next (pictureTick w)
  refine ⟨t, e, ?_, ?_, ?_, ?_, ?_⟩
  · rw [ht, outside_with_control]
  all_goals rw [ht]

/-- A notice after the tick reaches none of that. -/
theorem finish_raise_pictureTick (body : NoticeBody) (w : State) :
    ∃ t, finish (raise body (pictureTick w)) = .next t ∧ AfterTick w t := by
  obtain ⟨t, e, ht⟩ := finish_next (raise body (pictureTick w))
  refine ⟨t, e, ?_, ?_, ?_, ?_, ?_⟩
  · rw [ht, outside_with_control]
    simp [State.outside]
  all_goals rw [ht]
  all_goals simp

/-- A tick taken with the reference state and the last pulse set is one picture tick of the part before. -/
theorem AfterTick.ticksTo {w : State} (h : AfterTick w t) (count : w.sched.tickCount = s.sched.tickCount)
    (timing : w.timing = { s.timing with refState := w.timing.refState, lastPulse := w.timing.lastPulse }) :
    s.ticksTo t ∧ t.now = w.now ∧ t.timing.refState = w.timing.refState ∧ t.timing.lastPulse = w.timing.lastPulse
      ∧ t.ports = w.ports ∧ t.straps = w.straps ∧ t.pending = w.pending := by
  obtain ⟨outside, ticks, clock⟩ := pictureTick_keeps w
  obtain ⟨now, straps, ports, pending⟩ := outside_eq_iff.mp (h.outside.trans outside)
  have clock := h.timing.trans clock
  have code : w.tickTimecode = s.tickTimecode := by
    unfold State.tickTimecode
    rw [timing]
  refine ⟨⟨?_, ?_, ?_, ?_, ?_, ?_, ?_, ?_⟩, now, ?_, ?_, ports, straps, pending⟩
  · rw [clock, code]
  · rw [clock, timing]
  · rw [clock]
  · rw [clock]
  · rw [clock, timing]
  · rw [clock, now]
  · rw [clock, now]
  · rw [h.tickCount, ticks, count]
  · rw [clock]
  · rw [clock]

theorem oscillatorTick_unlocked (free : s.timing.refState ≠ .locked) :
    oscillatorTick s = pictureTick (s.passTo (s.timing.lastTick + period s.timing.rate)) := by
  unfold oscillatorTick
  split
  · exact absurd ‹_› free
  all_goals rfl

end tick

/-- Settles O14: outside LOCKED the row is a picture tick at the end of the oscillator's period. -/
theorem oscillatorTicksOutsideLocked : Obligations.OscillatorTicksOutsideLocked := by
  refine fun s => ⟨fun locked => ?_, fun free => ?_⟩
  · show finish (oscillatorTick s) = finish s
    rw [oscillatorTick, locked]
  · obtain ⟨t, e, after⟩ := finish_pictureTick (s.passTo (s.timing.lastTick + period s.timing.rate))
    refine ⟨t, ?_, after.ticksTo rfl rfl⟩
    rw [← e, ← oscillatorTick_unlocked free]
    rfl

/-! ## The reference input (R1, R2) -/

section reference

variable {s : State}

theorem referencePulse_unlocked (h : s.timing.refState ≠ .locked) : referencePulse s = relock s := by
  unfold referencePulse
  split
  · exact absurd ‹_› h
  all_goals rfl

/-- The part once a pulse has locked the reference (R1). -/
def lockedBy (s : State) : State :=
  raise (.refLocked s.timing.refState) (s.modTiming fun t => { t with refState := .locked, lastPulse := some s.now })

theorem lockedBy_keeps (s : State) : (lockedBy s).outside = s.outside ∧ (lockedBy s).coders = s.coders
    ∧ (lockedBy s).mixer = s.mixer ∧ (lockedBy s).sched = s.sched
    ∧ (lockedBy s).timing = { s.timing with refState := .locked, lastPulse := some s.now } := by
  simp [lockedBy, State.outside]

theorem relock_early (h : 2 * (s.now - s.timing.lastTick) < period s.timing.rate) : relock s = lockedBy s := by
  simp [relock, lockedBy, Nat.not_le.mpr h]

theorem relock_half (h : period s.timing.rate ≤ 2 * (s.now - s.timing.lastTick)) :
    relock s = pictureTick (lockedBy s) := by
  simp [relock, lockedBy, h]

section locked

variable {last : Time} (h : s.timing.refState = .locked) (hl : s.timing.lastPulse = some last)
include h hl

theorem referencePulse_early (early : 8 * (s.now - last) < 7 * period s.timing.rate) : referencePulse s = s := by
  simp [referencePulse, pulseLocked, h, hl, Nat.not_le.mpr early]

theorem referencePulse_inside (past : 7 * period s.timing.rate ≤ 8 * (s.now - last))
    (within : 2 * (s.now - last) ≤ 3 * period s.timing.rate) :
    referencePulse s = pictureTick (s.modTiming fun t => { t with lastPulse := some s.now }) := by
  simp [referencePulse, pulseLocked, h, hl, past, within]

end locked

/-- The part at the end of the loss window, in HOLDOVER (R2). -/
def heldOver (last : Time) (s : State) : State :=
  (s.passTo (last + 3 * period s.timing.rate / 2)).modTiming fun t => { t with refState := .holdover, lastPulse := none }

theorem lossExpiry_locked {last : Time} (h : s.timing.refState = .locked) (hl : s.timing.lastPulse = some last) :
    lossExpiry s = raise .refLost (pictureTick (heldOver last s)) := by
  simp [lossExpiry, heldOver, h, hl]

end reference

/-- Settles O15: each pulse and the loss expiry is its case of R1 and R2, and a tick is one picture tick. -/
theorem theReferenceLocksAndIsLost : Obligations.TheReferenceLocksAndIsLost := by
  intro s elapsed
  refine ⟨fun free => ⟨fun early => ?_, fun half => ?_⟩, fun last locked pulse =>
    ⟨fun early => ?_, fun past within => ?_, ?_⟩⟩
  · exact congrArg finish ((referencePulse_unlocked (s := s.elapse elapsed) free).trans (relock_early early))
  · obtain ⟨t, e, after⟩ := finish_pictureTick (lockedBy (s.elapse elapsed))
    obtain ⟨outside, -, -, sched, timing⟩ := lockedBy_keeps (s.elapse elapsed)
    obtain ⟨now, straps, ports, pending⟩ := outside_eq_iff.mp outside
    have ran : exec (.referencePulse elapsed) s = finish (pictureTick (lockedBy (s.elapse elapsed))) :=
      congrArg finish ((referencePulse_unlocked (s := s.elapse elapsed) free).trans (relock_half half))
    obtain ⟨ticks, now', ref, last, ports', straps', pending'⟩ :=
      after.ticksTo (s := s.elapse elapsed) (by rw [sched]) (by rw [timing])
    refine ⟨t, ran.trans e, ticks, now'.trans now, ?_, ?_, ports'.trans ports, straps'.trans straps,
      pending'.trans pending⟩
    · rw [ref, timing]
    · rw [last, timing]
      rfl
  · exact congrArg finish (referencePulse_early (s := s.elapse elapsed) locked pulse early)
  · have ran : exec (.referencePulse elapsed) s = _ :=
      congrArg finish (referencePulse_inside (s := s.elapse elapsed) locked pulse past within)
    obtain ⟨t, e, after⟩ :=
      finish_pictureTick ((s.elapse elapsed).modTiming fun r => { r with lastPulse := some (s.elapse elapsed).now })
    obtain ⟨ticks, now, ref, rest⟩ := after.ticksTo (s := s.elapse elapsed) rfl rfl
    exact ⟨t, ran.trans e, ticks, now, ref.trans locked, rest⟩
  · obtain ⟨t, e, after⟩ := finish_raise_pictureTick .refLost (heldOver last s)
    refine ⟨t, ?_, after.ticksTo rfl rfl⟩
    rw [← e, ← lossExpiry_locked locked pulse]
    rfl

end Sys2Proof.Machine

namespace Sys2Proof.Machine

/-! ## The settings of a channel across a tick (R18 to R20)

A cue's CODER_SET stages while the cues fire; the channel's turn writes what was due before, and no other work of a tick
touches its settings. -/

section staged

variable {s t u : State}

/-- What a CODER_SET of the weight reads and stages: the change staged, and the weight and the bounds of q in force. -/
structure Settings where
  staged : Staged
  weight : Nat
  qMin : Nat
  qMax : Nat

def CoderChannel.settings (k : CoderChannel) : Settings := ⟨k.staged, k.weight, k.qMin, k.qMax⟩

/-- The settings once a change that was due is written, with what is staged since (R20). -/
def Settings.write (k : Settings) (due : Staged) : Settings :=
  ⟨k.staged, due.weight.getD k.weight, due.qMin.getD k.qMin, due.qMax.getD k.qMax⟩

/-- Every channel keeps its settings. -/
def StagedKept (s t : State) : Prop := ∀ c : Fin 6, t.coders[c].settings = s.coders[c].settings

namespace StagedKept

theorem refl (s : State) : StagedKept s s := fun _ => rfl

theorem trans (h : StagedKept s t) (h' : StagedKept t u) : StagedKept s u := fun c => (h' c).trans (h c)

theorem of_coders (h : t.coders = s.coders) : StagedKept s t := fun c => by rw [h]

theorem of_record (h : RecordSide s t) : StagedKept s t := fun c => by
  rw [h.coder c]
  rfl

theorem of_send (h : SendSide s t) : StagedKept s t := fun c => by
  rw [h.coder c]
  rfl

theorem of_alloc (h : AllocOnly s t) : StagedKept s t := of_coders (by rw [h])

theorem raise (body : NoticeBody) (s : State) : StagedKept s (Machine.raise body s) := of_coders (raise_coders s body)

/-- A change of one channel that spares both. -/
theorem modCoder (c : Fin 6) (f : CoderChannel → CoderChannel) (s : State)
    (h : ∀ k, (f k).settings = k.settings := by exact fun _ => rfl) : StagedKept s (s.modCoder c f) := by
  intro d
  by_cases e : d = c
  · subst e
    simpa using h _
  · simp [e]

end StagedKept

/-! ### Picture coded (R35) -/

theorem makeRoom_staged (c : Fin 6) (bytes n : Nat) (s : State) : StagedKept s (makeRoom c bytes n s) := by
  induction n generalizing s with
  | zero => exact .refl s
  | succ n ih =>
    rw [makeRoom]
    simp only
    split
    · exact .refl s
    · split
      · exact .refl s
      · exact .trans (.trans (.of_send (dropLive_only _ _ s)) (.raise _ _)) (ih _)

theorem joinLive_staged (c : Fin 6) (p : LivePicture) (s : State) : StagedKept s (joinLive c p s) := by
  unfold joinLive
  exact .trans (.trans (makeRoom_staged _ _ _ s) (.modCoder c _ _)) (fun _ => rfl)

theorem rateControl_staged (c : Fin 6) (f : InFlight) (sequence : Seq) (bytes : Nat) (s : State) :
    StagedKept s (rateControl c f sequence bytes s) := by
  unfold rateControl
  simp only
  split
  · exact .trans (.trans (.modCoder c _ s) (.raise _ _)) (.modCoder c _ _)
  · exact .trans (.modCoder c _ s) (.modCoder c _ _)

theorem ite_staged {p : Prop} [Decidable p] {f : State → State} (h : ∀ v, StagedKept v (f v)) (s : State) :
    StagedKept s (if p then f s else s) := by
  split
  · exact h s
  · exact .refl s

theorem pictureCodedEvent_staged (c : Fin 6) (s : State) : StagedKept s (pictureCodedEvent c s) := by
  unfold pictureCodedEvent
  split
  · exact .refl s
  · simp only
    refine .trans ?_ (rateControl_staged _ _ _ _ _)
    refine .trans ?_ (ite_staged (fun v => .of_record (handOver_only _ _ _ v)) _)
    refine .trans ?_ (ite_staged (joinLive_staged _ _) _)
    refine .trans ?_ (.modCoder c _ _)
    split
    · exact .trans (.modCoder c _ s) (.raise _ _)
    · exact .refl s

theorem endPictures_staged (s : State) : StagedKept s (endPictures s) := by
  unfold endPictures
  split
  · exact .trans (foldl_related StagedKept .refl .trans (fun v c => pictureCodedEvent_staged c v) _ s)
      (.of_send (serve_only _))
  · exact .refl s

/-! ### A channel's take (R20 to R22) -/

theorem leaveWork_staged (c : Fin 6) (before after : CoderMode) (s : State) :
    StagedKept s (leaveWork c before after s) := by
  unfold leaveWork
  simp only
  refine .trans ?_ (ite_staged (fun v => .modCoder c _ v) _)
  exact ite_staged (fun v => .trans (.of_record (leaveRecording_only _ v)) (.modCoder c _ _)) s

theorem takeMode_staged (c : Fin 6) (before after : CoderMode) (s : State) :
    StagedKept s (takeMode c before after s) := by
  have start : ∀ v, StagedKept v (startWriter c v) := fun v => .of_record (.modWriter _ _ v)
  unfold takeMode
  split
  · unfold enterActive
    simp only
    exact .trans (.modCoder c _ s) (ite_staged start _)
  · exact .trans (leaveWork_staged _ _ _ s) (.modCoder c _ _)
  · unfold changeWork
    exact .trans (leaveWork_staged _ _ _ s) (ite_staged start _)
  · exact .refl s

theorem takeSource_staged (c : Fin 6) (before : CoderMode) (s : State) : StagedKept s (takeSource c before s) := by
  unfold takeSource
  simp only
  exact .trans (.modCoder c _ s) (ite_staged (.raise _) _)

/-- A take reaches the settings by what it writes alone. -/
theorem takeStaged_staged (c : Fin 6) (st : Staged) (s : State) :
    StagedKept (s.modCoder c (writeStaged st)) (takeStaged c st s) := by
  unfold takeStaged
  simp only
  refine .trans ?_ (ite_staged (.raise _) _)
  refine .trans ?_ (.raise _ _)
  refine .trans ?_ (.of_alloc (reportTake_only _ _))
  refine .trans ?_ (takeMode_staged _ _ _ _)
  exact ite_staged (takeSource_staged _ _) _

theorem pictureStart_staged (c : Fin 6) (s : State) : StagedKept s (pictureStart c s) :=
  .modCoder c _ s

/-- A channel's tick writes the change that was due, and keeps what a cue has staged since (R11, R20). -/
theorem coderTick_staged (c : Fin 6) (due : Staged) (s : State) :
    (coderTick c due s).coders[c].settings = s.coders[c].settings.write due := by
  have written : (if due = Staged.empty then s else takeStaged c due s).coders[c].settings
      = s.coders[c].settings.write due := by
    split
    · rename_i e
      subst e
      rfl
    · rw [takeStaged_staged c due s c]
      simp [CoderChannel.settings, writeStaged, newBounds, Settings.write]
  unfold coderTick
  exact (ite_staged (pictureStart_staged c) _ c).trans written

/-- At a tick without a rate take, channel `c`'s turn alone writes its settings, and none changes what it has staged. -/
theorem agentTurn_staged (due : Vector Staged 6) (changes : Nat) (s : State) (c : Fin 6) (agent : TickAgent) :
    (agentTurn due changes false s agent).coders[c].settings =
      if agent = .coder c then s.coders[c].settings.write due[c] else s.coders[c].settings := by
  rw [agentTurn, StagedKept.of_send (serve_only _) c]
  cases agent with
  | coder d =>
    show (coderTick d due[d] s).coders[c].settings = _
    by_cases e : d = c
    · subst e
      rw [if_pos rfl, coderTick_staged]
    · rw [if_neg (by simpa using e), (coderTick_only d due[d] s).others c (Ne.symm e)]
      rfl
  | scheduler =>
    rw [if_neg (by simp), agentTick_scheduler]
    exact StagedKept.of_send (schedulerTick_only s) c
  | mixer =>
    rw [if_neg (by simp), agentTick_mixer, id (blockTick_only changes s)]

end staged

/-! ## The cues that fire (R10) -/

section firing

variable {s t : State}

theorem dayLength_pos (p : PictureRate) : 0 < dayLength p / 2 := by
  cases p <;> decide

theorem mem_cuesInOrder (s : State) (c : Cue) : c ∈ s.cuesInOrder ↔ c ∈ s.timing.cues := mem_sortByKey _ _ c

/-- With one id to a cue, the cues that stay are those neither due nor late (R10). -/
theorem fireCues_cues (due : Vector Staged 6) (nodup : (s.timing.cues.map fun c => c.id).Nodup) :
    (fireCues due s).timing.cues = s.timing.cues.filter fun c =>
      decide (0 < s.cueDistance c) && decide (s.cueDistance c < dayLength s.timing.rate / 2) := by
  have gone : ∀ (p : Cue → Bool) (d : Cue), d ∈ s.timing.cues →
      ((s.cuesInOrder.filter p).all fun c => d.id != c.id) = !p d := by
    intro p d hd
    rw [Bool.eq_iff_iff, List.all_eq_true]
    refine ⟨fun h => ?_, fun h c hc => ?_⟩
    · by_contra hp
      have listed : d ∈ s.cuesInOrder.filter p := List.mem_filter.mpr ⟨(mem_cuesInOrder s d).mpr hd, by simpa using hp⟩
      simpa using h d listed
    · obtain ⟨hc, hpc⟩ := List.mem_filter.mp hc
      have other : d.id ≠ c.id := fun e => by
        have same : d = c := List.inj_on_of_nodup_map nodup hd ((mem_cuesInOrder s c).mp hc) e
        rw [same, hpc] at h
        cases h
      simpa using other
  unfold fireCues
  simp only
  rw [foldl_fireCue_cues, foldl_fireCue_cues, List.filter_filter]
  refine List.filter_congr fun d hd => ?_
  rw [gone _ d hd, gone _ d hd, Bool.eq_iff_iff]
  simp [State.cueLate]

/-- Of distinct elements of which one alone meets a test, the test finds that one. -/
theorem filter_eq_singleton {α : Type} {p : α → Bool} {l : List α} {a : α} (nodup : l.Nodup) (mem : a ∈ l)
    (holds : p a = true) (alone : ∀ b ∈ l, b ≠ a → p b = false) : l.filter p = [a] := by
  obtain ⟨before, after, rfl, fresh⟩ := List.eq_append_cons_of_mem mem
  have rest : a ∉ after := (List.nodup_cons.mp (List.nodup_append.mp nodup).2.1).1
  have nothing : ∀ l' : List α, a ∉ l' → (∀ b ∈ l', b ∈ before ++ a :: after) → l'.filter p = [] := by
    refine fun l' absent sub => List.filter_eq_nil_iff.mpr fun b hb => ?_
    simp [alone b (sub b hb) fun e => absent (e ▸ hb)]
  rw [List.filter_append, List.filter_cons_of_pos holds, nothing before fresh fun b hb => List.mem_append_left _ hb,
    nothing after rest fun b hb => List.mem_append_right _ (List.mem_cons_of_mem _ hb)]
  rfl

/-- When one cue alone fires, the firing is that of this cue: late or on time. -/
theorem fireCues_one (due : Vector Staged 6) {cue : Cue} (mem : cue ∈ s.timing.cues) (nodup : s.timing.cues.Nodup)
    (fires : s.cueDistance cue = 0 ∨ dayLength s.timing.rate / 2 ≤ s.cueDistance cue)
    (alone : ∀ d ∈ s.timing.cues, d ≠ cue →
      ¬(s.cueDistance d = 0 ∨ dayLength s.timing.rate / 2 ≤ s.cueDistance d)) :
    ∃ outcome, fireCues due s = fireCue due outcome s cue := by
  have listed : s.cuesInOrder.Nodup := (sortByKey_perm _ _).nodup_iff.mpr nodup
  have lateAlone : ∀ d ∈ s.cuesInOrder, d ≠ cue → s.cueLate d = false := fun d hd e => by
    simpa [State.cueLate] using (not_or.mp (alone d ((mem_cuesInOrder s d).mp hd) e)).2
  have timeAlone : ∀ d ∈ s.cuesInOrder, d ≠ cue → (s.cueDistance d == 0) = false := fun d hd e => by
    simpa using (not_or.mp (alone d ((mem_cuesInOrder s d).mp hd) e)).1
  have found := fun (p : Cue → Bool) (holds : p cue = true) others =>
    filter_eq_singleton (p := p) listed ((mem_cuesInOrder s cue).mpr mem) holds others
  have missed : ∀ p : Cue → Bool, p cue = false → (∀ d ∈ s.cuesInOrder, d ≠ cue → p d = false) →
      s.cuesInOrder.filter p = [] := by
    intro p hp others
    refine List.filter_eq_nil_iff.mpr fun d hd => ?_
    by_cases e : d = cue
    · simp [e, hp]
    · simp [others d hd e]
  have positive := dayLength_pos s.timing.rate
  rcases fires with onTime | late
  · refine ⟨.onTime, ?_⟩
    have notLate : s.cueLate cue = false := by
      simp only [State.cueLate, onTime, decide_eq_false_iff_not]
      omega
    simp only [fireCues, missed s.cueLate notLate lateAlone,
      found (fun c => s.cueDistance c == 0) (beq_iff_eq.mpr onTime) timeAlone, List.foldl_nil, List.foldl_cons]
  · refine ⟨.late, ?_⟩
    have notOnTime : (s.cueDistance cue == 0) = false := by
      simp only [beq_eq_false_iff_ne]
      omega
    simp only [fireCues, found s.cueLate (decide_eq_true late) lateAlone,
      missed (fun c => s.cueDistance c == 0) notOnTime timeAlone, List.foldl_nil, List.foldl_cons]

end firing

end Sys2Proof.Machine

namespace Sys2Proof.Machine

/-! ## A tick at which cues fire (R6, R10, R11) -/

section fired

variable {s t w : State} {i : Instr}

/-- A command that ticks is a tick of the part, once the time, the reference state and the last pulse are set and the lock
is reported. -/
theorem exec_of_ticksBy (ticks : s.ticksBy i) (ran : exec i s = .next t) : ∃ w, AfterTick w t
    ∧ w.timing = { s.timing with refState := w.timing.refState, lastPulse := w.timing.lastPulse }
    ∧ w.coders = s.coders ∧ w.mixer = s.mixer := by
  have one : ∀ {result : Result} {w : State}, (∃ u, result = .next u ∧ AfterTick w u) → exec i s = result →
      AfterTick w t := by
    rintro result w ⟨u, e, after⟩ e'
    rw [ran, e] at e'
    cases e'
    exact after
  cases i with
  | oscillatorTick =>
    have tick : exec .oscillatorTick s = finish (pictureTick (s.passTo (s.timing.lastTick + period s.timing.rate))) :=
      congrArg finish (oscillatorTick_unlocked ticks)
    exact ⟨_, one (finish_pictureTick _) tick, rfl, rfl, rfl⟩
  | referencePulse elapsed =>
    rcases ticks with ⟨free, half⟩ | ⟨locked, last, pulse, past, within⟩
    · obtain ⟨-, coders, mixer, -, timing⟩ := lockedBy_keeps (s.elapse elapsed)
      have tick : exec (.referencePulse elapsed) s = finish (pictureTick (lockedBy (s.elapse elapsed))) :=
        congrArg finish ((referencePulse_unlocked (s := s.elapse elapsed) free).trans (relock_half half))
      exact ⟨_, one (finish_pictureTick _) tick, by rw [timing]; rfl, coders, mixer⟩
    · have tick : exec (.referencePulse elapsed) s = _ :=
        congrArg finish (referencePulse_inside (s := s.elapse elapsed) locked pulse past within)
      exact ⟨_, one (finish_pictureTick _) tick, rfl, rfl, rfl⟩
  | lossWindowExpiry =>
    obtain ⟨locked, last, pulse⟩ := ticks
    have tick : exec .lossWindowExpiry s = finish (raise .refLost (pictureTick (heldOver last s))) :=
      congrArg finish (lossExpiry_locked locked pulse)
    exact ⟨_, one (finish_raise_pictureTick _ _) tick, rfl, rfl, rfl⟩
  | _ => exact absurd ticks id

/-- The changes of coders due at a tick. -/
theorem dueAt (w : State) (c : Fin 6) :
    (vecMap (fun k : CoderChannel => k.staged) (endPictures w).coders)[c] = w.coders[c].staged := by
  rw [vecMap_get]
  exact congrArg Settings.staged (endPictures_staged w c)

/-- The cues left once those of the tick have fired, or have been cleared by a rate that takes (R6, R10). -/
theorem fixedTick_cues (nodup : (w.timing.cues.map fun c => c.id).Nodup) : (fixedTick w).timing.cues =
    if w.timing.stagedRate.isSome then [] else w.timing.cues.filter fun c =>
      decide (0 < distance w.timing.rate w.tickTimecode c.target)
        && decide (distance w.timing.rate w.tickTimecode c.target < dayLength w.timing.rate / 2) := by
  obtain ⟨-, -, -, timing⟩ := fixedTimecode_keeps w
  rw [fixedTick_eq]
  split
  · obtain ⟨-, cleared, -⟩ := takeRate_keeps w.timing.rate (fixedTimecode w)
    rw [cleared]
  · rename_i free
    have rate : w.timing.stagedRate = none := by simpa using free
    rw [fireCues_cues _ (by rw [timing]; exact nodup)]
    unfold State.cueDistance
    rw [timing, rate]
    rfl

/-- The settings of a channel while the cues of a tick fire: nothing staged, and what was in force (R20). -/
theorem fixedTimecode_settings (w : State) (c : Fin 6) :
    (fixedTimecode w).coders[c].settings = { w.coders[c].settings with staged := Staged.empty } := by
  obtain ⟨-, -, coders, -⟩ := takeTimecode_keeps (beginPeriod (endPictures w))
  rw [fixedTimecode, coders, ← endPictures_staged w c]
  simp [beginPeriod, CoderChannel.settings]

/-- A channel's settings after a tick without a rate take: those while the cues fired, with what was due written. -/
theorem pictureTick_settings (rate : w.timing.stagedRate = none) (c : Fin 6) : (pictureTick w).coders[c].settings =
    (fixedTick w).coders[c].settings.write w.coders[c].staged := by
  obtain ⟨-, timing, -, -⟩ := endPictures_keeps w
  have free : (endPictures w).timing.stagedRate.isSome = false := by rw [timing, rate]; rfl
  rw [pictureTick_eq, free]
  rw [foldl_once (fun u : State => u.coders[c].settings) (·.write _) (.coder c)
    (fun u agent => agentTurn_staged _ _ u c agent) (tickOrder_nodup _) (mem_tickOrder _ _), dueAt]

/-- The mixer's turn takes the changes that were on the list before the tick, and no other agent's turn touches the list
(R11, R129). -/
theorem agentTurn_changes (due : Vector Staged 6) (changes : Nat) (taken : Bool) (s : State) (agent : TickAgent) :
    (agentTurn due changes taken s agent).mixer.changes =
      if agent = .mixer then s.mixer.changes.drop changes else s.mixer.changes := by
  rw [agentTurn, (serve_only _).mixer]
  cases agent with
  | coder c =>
    rw [if_neg (by simp), (agentTick_coder due changes taken s c).mixer]
  | scheduler =>
    rw [if_neg (by simp), agentTick_scheduler, (schedulerTick_only s).mixer]
  | mixer =>
    have applied := applyChanges_mixer changes
      (s.modTiming fun t => { t with blockNumber := t.blockNumber + 1, lastBlock := s.now })
    rw [if_pos rfl, agentTick_mixer, (blockTick_mixer changes s).changes, id applied]
    rfl

/-- What cues put on the change list waits for the next block tick (R11). -/
theorem pictureTick_changes (w : State) :
    (pictureTick w).mixer.changes = (fixedTick w).mixer.changes.drop w.mixer.changes.length := by
  obtain ⟨-, -, mixer, -⟩ := endPictures_keeps w
  rw [pictureTick_eq, mixer, foldl_once (fun u : State => u.mixer.changes) (List.drop _) .mixer
    (agentTurn_changes _ _ _) (tickOrder_nodup _) (mem_tickOrder _ _)]

/-! ### What a cue's action stages -/

/-- What carries out an action whose body has a right length (R11). -/
def actionOwner (due : Vector Staged 6) : CueAction → List Byte → State → Reply × State
  | .coderSet => coderSet due
  | .sceneRecall => sceneRecall
  | .clipOpen => clipOpen .cue
  | .clipClose => clipClose .cue
  | .clipMark => clipMark

theorem performAction_eq {action : CueAction} {body : List Byte} (due : Vector Staged 6) (s : State)
    (length : actionLengthOk action body = true) : performAction due action body s = actionOwner due action body s := by
  unfold performAction
  rw [length]
  cases action <;> rfl

theorem performAction_badLength {action : CueAction} {body : List Byte} (due : Vector Staged 6) (s : State)
    (length : actionLengthOk action body = false) : performAction due action body s = refuse .badLength s := by
  unfold performAction
  rw [length]
  rfl

theorem toNat_byteOf {n : Nat} (h : n < 256) : (byteOf n).toNat = n := by
  simp [byteOf, Nat.mod_eq_of_lt h]

/-- A CODER_SET body of the weight alone. -/
def weightBody (c : Fin 6) (weight : Byte) : List Byte := [byteOf c.val, 0, 4, weight]

theorem coderMask_weightBody (c : Fin 6) (weight : Byte) : coderMask (weightBody c weight) = 4 := rfl

theorem coderSetLengthOk_weightBody (c : Fin 6) (weight : Byte) : coderSetLengthOk (weightBody c weight) = true := by
  rw [coderSetLengthOk, coderMask_weightBody]
  rfl

/-- A CODER_SET of the weight alone is staged when the bounds of q then staged are in order (R18). -/
theorem coderSet_weight (due : Vector Staged 6) (c : Fin 6) {weight : Byte} (small : weight.toNat ≤ 15)
    (settings : s.coders[c].settings.staged = Staged.empty)
    (ordered : (newBounds s.coders[c] due[c]).1 ≤ (newBounds s.coders[c] due[c]).2) :
    (coderSet due (weightBody c weight) s).2 =
      s.modCoder c fun k => { k with staged := { Staged.empty with weight := some (max 1 weight.toNat) } } := by
  have channel : finOf 6 (field (weightBody c weight) 0 1) = some c := by
    rw [weightBody, field_zero_one, toNat_byteOf (by omega), finOf_val]
  have declared : declaredFields 4 (weightBody c weight) coderFieldSizes 0 3 =
      [none, none, some weight.toNat, none, none, none, none, none, none] := by
    rw [← field_zero_one weight []]
    rfl
  have read : readStaged (weightBody c weight) =
      { Staged.empty with weight := some (max 1 weight.toNat) } := by
    rw [readStaged, coderMask_weightBody, declared]
    rfl
  have inRange : stagedInRange (weightBody c weight) = true := by
    rw [stagedInRange, coderMask_weightBody, declared]
    simp [maskDefined, small]
  have staged : s.coders[c].staged = Staged.empty := settings
  have bounds : ∀ new : Staged, new.qMin = none → new.qMax = none →
      newBounds s.coders[c] (mergeStaged new (mergeStaged Staged.empty due[c])) = newBounds s.coders[c] due[c] := by
    intro new low high
    simp [newBounds, mergeStaged, low, high, Staged.empty]
  simp only [coderSet, channel, inRange, read, staged]
  rw [bounds _ rfl rfl, if_neg (Nat.not_lt.mpr ordered)]
  simp [Staged.empty, mergeStaged, answerAccepted]

end fired

end Sys2Proof.Machine

namespace Sys2Proof.Machine

/-! ### A cue that fires alone (R11) -/

section single

variable {s w : State} {cue : Cue}

/-- SCENE_RECALL of a stored scene joins a change list that has room (R131). -/
theorem sceneRecall_stored {slot : Fin 16} {high low : Byte} {scene : Scene} (stored : s.mixer.scenes[slot] = some scene)
    (room : s.mixer.changes.length < 64) : (sceneRecall [byteOf slot.val, high, low] s).2 =
      s.modMixer fun m => { m with
        changes := m.changes ++ [.recallScene slot (min 255 (high.toNat * 256 + low.toNat)) scene] } := by
  simp [sceneRecall, toNat_byteOf (show slot.val < 256 by omega), stored, joinChange, Nat.not_le.mpr room]

/-- At a tick without a rate take the one cue that fires is the tick's firing. -/
theorem fixedTick_one (rate : w.timing.stagedRate = none) (mem : cue ∈ w.timing.cues) (fires : w.cueFires cue)
    (alone : ∀ d ∈ w.timing.cues, d ≠ cue → ¬w.cueFires d) (nodup : w.timing.cues.Nodup) :
    ∃ outcome, fixedTick w =
      fireCue (vecMap (fun k : CoderChannel => k.staged) (endPictures w).coders) outcome (fixedTimecode w) cue := by
  obtain ⟨-, -, -, timing⟩ := fixedTimecode_keeps w
  have away : ∀ d : Cue, (fixedTimecode w).cueDistance d = distance w.timing.rate w.tickTimecode d.target := by
    intro d
    rw [State.cueDistance, timing, rate]
    rfl
  have day : (fixedTimecode w).timing.rate = w.timing.rate := by
    rw [timing, rate]
    rfl
  rw [fixedTick_eq, rate]
  refine fireCues_one _ (by rw [timing]; exact mem) (by rw [timing]; exact nodup) ?_ ?_
  · rw [away, day]
    exact fires
  · intro d hd
    rw [away, day]
    rw [timing] at hd
    exact alone d hd

/-- A part that a tick finds with the same timing record but for the reference input: the same cues fire. -/
theorem cueFires_congr
    (timing : w.timing = { s.timing with refState := w.timing.refState, lastPulse := w.timing.lastPulse }) (d : Cue) : w.cueFires d ↔ s.cueFires d := by
  unfold State.cueFires State.tickTimecode
  rw [timing]

/-- The bounds of q are read from the settings. -/
theorem newBounds_congr {k l : CoderChannel} {staged : Staged} (h : k.settings = { l.settings with staged := staged })
    (due : Staged) : newBounds k due = newBounds l due := by
  have low : k.qMin = l.qMin := congrArg Settings.qMin h
  have high : k.qMax = l.qMax := congrArg Settings.qMax h
  rw [newBounds, newBounds, low, high]

/-- What a cue's CODER_SET of the weight stages is staged once the cues have fired (R11, R18). -/
theorem fixedTick_coderSet {c : Fin 6} {weight : Byte} {outcome : CueOutcome}
    (fired : fixedTick w =
      fireCue (vecMap (fun k : CoderChannel => k.staged) (endPictures w).coders) outcome (fixedTimecode w) cue)
    (action : cue.action = .coderSet) (body : cue.body = weightBody c weight) (small : weight.toNat ≤ 15)
    (ordered : (newBounds w.coders[c] w.coders[c].staged).1 ≤ (newBounds w.coders[c] w.coders[c].staged).2) :
    (fixedTick w).coders[c].settings =
      { w.coders[c].settings with staged := { Staged.empty with weight := some (max 1 weight.toNat) } } := by
  have before : (withoutCue cue (fixedTimecode w)).coders[c].settings = _ := fixedTimecode_settings w c
  have length : actionLengthOk .coderSet (weightBody c weight) = true := coderSetLengthOk_weightBody c weight
  have set := coderSet_weight (s := withoutCue cue (fixedTimecode w))
    (vecMap (fun k : CoderChannel => k.staged) (endPictures w).coders) c small (congrArg Settings.staged before) (by
      rw [dueAt, newBounds_congr before]
      exact ordered)
  rw [fired, fireCue_eq, raise_coders, action, body, performAction_eq _ _ length]
  show (coderSet _ _ _).2.coders[c].settings = _
  rw [set]
  have staged : ∀ (f : CoderChannel → CoderChannel) (u : State), (u.modCoder c f).coders[c] = f u.coders[c] := by simp
  rw [staged]
  exact congrArg (fun k : Settings => { k with staged := { Staged.empty with weight := some (max 1 weight.toNat) } })
    before

/-- What a cue's SCENE_RECALL does joins the change list behind the changes due at the tick (R11, R131). -/
theorem fixedTick_sceneRecall {slot : Fin 16} {high low : Byte} {scene : Scene} {outcome : CueOutcome}
    (fired : fixedTick w =
      fireCue (vecMap (fun k : CoderChannel => k.staged) (endPictures w).coders) outcome (fixedTimecode w) cue)
    (action : cue.action = .sceneRecall) (body : cue.body = [byteOf slot.val, high, low])
    (stored : w.mixer.scenes[slot] = some scene) (room : w.mixer.changes.length < 64) :
    (fixedTick w).mixer.changes =
      w.mixer.changes ++ [.recallScene slot (min 255 (high.toNat * 256 + low.toNat)) scene] := by
  obtain ⟨-, -, mixer, -⟩ := fixedTimecode_keeps w
  have without : (withoutCue cue (fixedTimecode w)).mixer = w.mixer := mixer
  rw [← without] at stored room
  rw [fired, fireCue_eq, raise_mixer, action, body, performAction_eq (action := .sceneRecall) _ _ rfl]
  show (sceneRecall _ _).2.mixer.changes = _
  rw [sceneRecall_stored stored room, State.modMixer_mixer, without]

end single

/-! ### The clauses of O16 -/

/-- The cues of the tick leave the list, all of them when a rate takes. -/
theorem ticksBy_cues {s t : State} {i : Instr} (ticks : s.ticksBy i)
    (nodup : (s.timing.cues.map fun c => c.id).Nodup) (ran : exec i s = .next t) : t.timing.cues =
      if s.timing.stagedRate.isSome then [] else s.timing.cues.filter fun c =>
        decide (0 < distance s.timing.rate s.tickTimecode c.target)
          && decide (distance s.timing.rate s.tickTimecode c.target < dayLength s.timing.rate / 2) := by
  obtain ⟨w, after, timing, -, -⟩ := exec_of_ticksBy ticks ran
  obtain ⟨-, -, ticked⟩ := pictureTick_keeps w
  have code : w.tickTimecode = s.tickTimecode := by
    unfold State.tickTimecode
    rw [timing]
  have left := fixedTick_cues (w := w) (by rw [timing]; exact nodup)
  rw [code, timing] at left
  rw [after.timing, ticked]
  exact left

/-- What a cue that fires alone stages waits: its CODER_SET for the tick after, its SCENE_RECALL for the next block. -/
theorem ticksBy_waits {s t : State} {i : Instr} {cue : Cue} (ticks : s.ticksBy i) (ran : exec i s = .next t)
    (rate : s.timing.stagedRate = none) (mem : cue ∈ s.timing.cues) (fires : s.cueFires cue)
    (alone : ∀ d ∈ s.timing.cues, d ≠ cue → ¬s.cueFires d) (nodup : s.timing.cues.Nodup) :
    (∀ (c : Fin 6) (weight : Byte), cue.action = .coderSet → cue.body = weightBody c weight → weight.toNat ≤ 15 →
      (newBounds s.coders[c] s.coders[c].staged).1 ≤ (newBounds s.coders[c] s.coders[c].staged).2 →
      t.coders[c].staged = { Staged.empty with weight := some (max 1 weight.toNat) }
        ∧ t.coders[c].weight = s.coders[c].staged.weight.getD s.coders[c].weight)
    ∧ ∀ (slot : Fin 16) (high low : Byte) (scene : Scene), cue.action = .sceneRecall →
        cue.body = [byteOf slot.val, high, low] → s.mixer.scenes[slot] = some scene → s.mixer.changes.length < 64 →
        t.mixer.changes = [.recallScene slot (min 255 (high.toNat * 256 + low.toNat)) scene] := by
  obtain ⟨w, after, timing, coders, mixer⟩ := exec_of_ticksBy ticks ran
  have cues : w.timing.cues = s.timing.cues := by rw [timing]
  have free : w.timing.stagedRate = none := by rw [timing]; exact rate
  obtain ⟨outcome, fired⟩ := fixedTick_one free (cues ▸ mem) ((cueFires_congr timing cue).mpr fires)
    (fun d hd e fires => alone d (cues ▸ hd) e ((cueFires_congr timing d).mp fires)) (cues ▸ nodup)
  refine ⟨fun c weight action body small ordered => ?_, fun slot high low scene action body stored room => ?_⟩
  · have settings : t.coders[c].settings =
        { s.coders[c].settings with staged := { Staged.empty with weight := some (max 1 weight.toNat) } }.write
          s.coders[c].staged := by
      rw [after.coders, pictureTick_settings free,
        fixedTick_coderSet fired action body small (by rw [coders]; exact ordered), coders]
    exact ⟨congrArg Settings.staged settings, congrArg Settings.weight settings⟩
  · rw [after.mixer, pictureTick_changes, fixedTick_sceneRecall fired action body (by rw [mixer]; exact stored)
      (by rw [mixer]; exact room), List.drop_left]

/-- The cues that fire are those at distance 0 and those that are late: late ones first, each in list order. -/
theorem fireCues_order (due : Vector Staged 6) (s : State) : ∃ fired : List (CueOutcome × Cue),
    fireCues due s = fired.foldl (fun u e => fireCue due e.1 u e.2) s
      ∧ (∀ e ∈ fired, s.cueAway e.2 = 0 ∧ e.1 = .onTime
          ∨ dayLength s.timing.rate / 2 ≤ s.cueAway e.2 ∧ e.1 = .late)
      ∧ fired.Pairwise (fun a b => a.1 = .late ∧ b.1 = .onTime ∨ a.1 = b.1 ∧ s.cueAway a.2 ≤ s.cueAway b.2)
      ∧ ∀ d : Nat, d = 0 ∨ dayLength s.timing.rate / 2 ≤ d →
          (fired.map fun e => e.2).filter (fun c => s.cueAway c == d) =
            s.timing.cues.filter fun c => s.cueAway c == d := by
  have sorted : ∀ p : Cue → Bool, (s.cuesInOrder.filter p).Pairwise fun a b => s.cueAway a ≤ s.cueAway b := fun p =>
    (sortByKey_sorted s.cueDistance s.timing.cues).sublist List.filter_sublist
  refine ⟨(s.cuesInOrder.filter s.cueLate).map (fun c => (.late, c))
    ++ (s.cuesInOrder.filter fun c => s.cueDistance c == 0).map (fun c => (.onTime, c)), ?_, ?_, ?_, ?_⟩
  · rw [List.foldl_append, List.foldl_map, List.foldl_map]
    rfl
  · intro e he
    rcases List.mem_append.mp he with he | he
    · obtain ⟨c, hc, rfl⟩ := List.mem_map.mp he
      exact .inr ⟨of_decide_eq_true (List.mem_filter.mp hc).2, rfl⟩
    · obtain ⟨c, hc, rfl⟩ := List.mem_map.mp he
      exact .inl ⟨beq_iff_eq.mp (List.mem_filter.mp hc).2, rfl⟩
  · refine List.pairwise_append.mpr ⟨?_, ?_, ?_⟩
    · exact List.pairwise_map.mpr ((sorted _).imp fun h => .inr ⟨rfl, h⟩)
    · exact List.pairwise_map.mpr ((sorted _).imp fun h => .inr ⟨rfl, h⟩)
    · intro a ha b hb
      obtain ⟨c, -, rfl⟩ := List.mem_map.mp ha
      obtain ⟨d, -, rfl⟩ := List.mem_map.mp hb
      exact .inl ⟨rfl, rfl⟩
  · intro d hd
    have positive := dayLength_pos s.timing.rate
    have listed : s.cuesInOrder.filter (fun c => s.cueDistance c == d) =
        s.timing.cues.filter fun c => s.cueDistance c == d := filter_sortByKey s.cueDistance d s.timing.cues
    have only : ∀ p : Cue → Bool, ∀ b : Bool, (∀ c, s.cueDistance c = d → p c = b) →
        (s.cuesInOrder.filter p).filter (fun c => s.cueDistance c == d) =
          if b then s.timing.cues.filter fun c => s.cueDistance c == d else [] := by
      intro p b h
      rw [← listed, List.filter_filter]
      cases b with
      | true => exact List.filter_congr fun c _ => by by_cases e : s.cueDistance c = d <;> simp [e, h c]
      | false => exact List.filter_eq_nil_iff.mpr fun c _ => by by_cases e : s.cueDistance c = d <;> simp [e, h c]
    have late : ∀ c, s.cueDistance c = d → s.cueLate c = decide (dayLength s.timing.rate / 2 ≤ d) := fun c e => by
      rw [State.cueLate, e]
    have onTime : ∀ c, s.cueDistance c = d → (s.cueDistance c == 0) = (d == 0) := fun c e => by rw [e]
    show List.filter (fun c => s.cueDistance c == d) _ = List.filter (fun c => s.cueDistance c == d) _
    rw [List.map_append, List.map_map, List.map_map, List.filter_append]
    show List.filter _ (List.map id _) ++ List.filter _ (List.map id _) = _
    rw [List.map_id, List.map_id, only _ _ late, only _ _ onTime]
    rcases hd with rfl | hd
    · rw [if_neg (by simp; omega), if_pos (by simp)]
      rfl
    · rw [if_pos (by simp [hd]), if_neg (by simp; omega), List.append_nil]

end Sys2Proof.Machine

namespace Sys2Proof.Machine

/-! ## The request of a cue (R11) -/

/-! ### Refusals -/

section refusals

variable {s : State} {answer : Reply × State}

/-- An answer that is neither OK nor ACCEPTED leaves the state as it was. -/
def RefusalKeeps (s : State) (answer : Reply × State) : Prop :=
  answer.1.code ≠ .ok → answer.1.code ≠ .accepted → answer.2 = s

theorem RefusalKeeps.of_refuse (code : ResultCode) (s : State) : RefusalKeeps s (refuse code s) := fun _ _ => rfl

theorem RefusalKeeps.of_ok (h : answer.1.code = .ok) : RefusalKeeps s answer := fun ne _ => absurd h ne

theorem RefusalKeeps.of_accepted (h : answer.1.code = .accepted) : RefusalKeeps s answer := fun _ ne => absurd h ne

theorem coderSet_refusalKeeps (due : Vector Staged 6) (body : List Byte) (s : State) :
    RefusalKeeps s (coderSet due body s) := by
  unfold coderSet
  split
  · exact .of_refuse _ s
  · simp only
    repeat' split
    case _ => exact .of_refuse _ s
    case _ => exact .of_refuse _ s
    case _ => exact .of_refuse _ s
    case _ => exact .of_refuse _ s
    case _ => exact .of_ok rfl
    case _ => exact .of_accepted rfl

theorem sceneRecall_refusalKeeps (body : List Byte) (s : State) : RefusalKeeps s (sceneRecall body s) := by
  unfold sceneRecall
  split
  · exact .of_refuse _ s
  · split
    · exact .of_refuse _ s
    · unfold joinChange
      split
      · exact .of_refuse _ s
      · exact .of_accepted rfl

/-- CLIP_MARK refuses, or is carried out (R103). -/
theorem clipMark_cases (body : List Byte) (s : State) :
    (∃ code, code ≠ .ok ∧ code ≠ .accepted ∧ clipMark body s = refuse code s) ∨ (clipMark body s).1.code = .ok := by
  unfold clipMark
  simp only
  repeat' split
  case _ => exact .inl ⟨.badValue, nofun, nofun, rfl⟩
  case _ => exact .inl ⟨.notFound, nofun, nofun, rfl⟩
  case _ => exact .inl ⟨.badState, nofun, nofun, rfl⟩
  case _ => exact .inl ⟨.badValue, nofun, nofun, rfl⟩
  case _ => exact .inl ⟨.noRoom, nofun, nofun, rfl⟩
  case _ => exact .inr rfl

/-- CLIP_OPEN refuses, or creates a clip, whoever asks (R94). -/
theorem clipOpen_cases (body : List Byte) (s : State) :
    (∃ code, ∀ origin, clipOpen origin body s = refuse code s)
      ∨ ∃ slot c placed, ∀ origin, clipOpen origin body s = createClip slot c placed origin s := by
  unfold clipOpen
  simp only
  repeat' split
  case _ => exact .inl ⟨.badValue, fun _ => rfl⟩
  case _ => exact .inl ⟨.badValue, fun _ => rfl⟩
  case _ => exact .inl ⟨.badState, fun _ => rfl⟩
  case _ => exact .inl ⟨.badValue, fun _ => rfl⟩
  case _ => exact .inl ⟨.noRoom, fun _ => rfl⟩
  case _ => exact .inl ⟨.noRoom, fun _ => rfl⟩
  case _ => exact .inl ⟨.noRoom, fun _ => rfl⟩
  case _ => exact .inr ⟨_, _, _, fun _ => rfl⟩

theorem createClip_code (slot : Nat) (c : Fin 6) (placed : PlacedIn) (origin : Origin) (s : State) :
    (createClip slot c placed origin s).1.code = .ok := rfl

/-- CLIP_CLOSE refuses, or begins the close of the clip named, whoever asks (R99). -/
theorem clipClose_cases (body : List Byte) (s : State) :
    (∃ code, code ≠ .ok ∧ code ≠ .accepted ∧ ∀ origin, clipClose origin body s = refuse code s)
      ∨ ∃ c out, bodyClip body s = some c ∧ ∀ origin, clipClose origin body s = beginClose c out origin s := by
  unfold clipClose
  simp only
  repeat' split
  case _ => exact .inl ⟨.badValue, nofun, nofun, fun _ => rfl⟩
  case _ => exact .inl ⟨.notFound, nofun, nofun, fun _ => rfl⟩
  case _ => exact .inl ⟨.badState, nofun, nofun, fun _ => rfl⟩
  case _ => exact .inl ⟨.badValue, nofun, nofun, fun _ => rfl⟩
  case _ c e _ _ => exact .inr ⟨c, _, e, fun _ => rfl⟩

theorem beginClose_code (c : Clip) (out : Timecode) (origin : Origin) (s : State) :
    (beginClose c out origin s).1.code = .accepted := by
  unfold beginClose
  simp only
  split <;> rfl

/-- A firing cue whose request is refused changes nothing (R11). -/
theorem performAction_refusalKeeps (due : Vector Staged 6) (action : CueAction) (body : List Byte) (s : State) :
    RefusalKeeps s (performAction due action body s) := by
  cases length : actionLengthOk action body with
  | false =>
    rw [performAction_badLength due s length]
    exact .of_refuse _ s
  | true =>
    rw [performAction_eq due s length]
    cases action with
    | coderSet => exact coderSet_refusalKeeps due body s
    | sceneRecall => exact sceneRecall_refusalKeeps body s
    | clipOpen =>
      show RefusalKeeps s (clipOpen .cue body s)
      rcases clipOpen_cases body s with ⟨code, h⟩ | ⟨slot, c, placed, h⟩
      · rw [h]
        exact .of_refuse code s
      · rw [h]
        exact .of_ok (createClip_code slot c placed .cue s)
    | clipClose =>
      show RefusalKeeps s (clipClose .cue body s)
      rcases clipClose_cases body s with ⟨code, -, -, h⟩ | ⟨c, out, -, h⟩
      · rw [h]
        exact .of_refuse code s
      · rw [h]
        exact .of_accepted (beginClose_code c out .cue s)
    | clipMark =>
      show RefusalKeeps s (clipMark body s)
      rcases clipMark_cases body s with ⟨code, -, -, h⟩ | h
      · rw [h]
        exact .of_refuse code s
      · exact .of_ok h

end refusals

/-! ### Work that does not read the clip table -/

section apart

variable {u v : State}

/-- Two states that differ at most in the control port and the Clip Log. -/
def Apart (u v : State) : Prop := v = { u with control := v.control, clipLog := v.clipLog }

namespace Apart

theorem store (h : Apart u v) : v.store = u.store := by rw [id h]

theorem segment? (h : Apart u v) (id : Nat) : v.segment? id = u.segment? id := by
  unfold State.segment?
  rw [h.store]

theorem firstUnpinned (h : Apart u v) : v.firstUnpinned = u.firstUnpinned := by
  unfold State.firstUnpinned
  rw [h.store, funext h.segment?]

theorem modStore (h : Apart u v) (f : Store → Store) : Apart (u.modStore f) (v.modStore f) := by
  rw [id h]
  rfl

theorem modReads (h : Apart u v) (f : DemandRead → DemandRead) : Apart (u.modReads f) (v.modReads f) := by
  rw [id h]
  rfl

theorem raise (h : Apart u v) {body body' : NoticeBody} (hb : protocolPath body = none)
    (hb' : protocolPath body' = none) : Apart (Machine.raise body u) (Machine.raise body' v) := by
  rw [raise_of_not_protocol u hb, raise_of_not_protocol v hb']
  rw [id h]
  rfl

theorem releasePages (bad pages : List Nat) (h : Apart u v) :
    Apart (Machine.releasePages bad pages u) (Machine.releasePages bad pages v) := by
  induction pages generalizing u v with
  | nil => exact h
  | cons page rest ih =>
    rw [Machine.releasePages, Machine.releasePages]
    refine ih ?_
    split
    · exact (h.modStore _).raise rfl rfl
    · exact h.modStore _

theorem freeSegment (id : Nat) (h : Apart u v) : Apart (Machine.freeSegment id u) (Machine.freeSegment id v) := by
  unfold Machine.freeSegment
  rw [h.segment?]
  split
  · exact h
  · exact ((h.releasePages _ _).modReads _).modStore _

theorem reclaimLoop (n : Nat) (h : Apart u v) : Apart (Machine.reclaimLoop n u) (Machine.reclaimLoop n v) := by
  induction n generalizing u v with
  | zero => exact h
  | succ n ih =>
    rw [Machine.reclaimLoop, Machine.reclaimLoop, h.store, h.firstUnpinned]
    split
    · split
      · exact ih (h.freeSegment _)
      · exact h
    · exact h

theorem unpin (id : Nat) (h : Apart u v) : Apart (Machine.unpin id u) (Machine.unpin id v) := by
  have pinned : Apart (u.modSegment id fun g => { g with pinCount := g.pinCount - 1 })
    (v.modSegment id fun g => { g with pinCount := g.pinCount - 1 }) := h.modStore _
  unfold Machine.unpin
  simp only
  rw [pinned.segment?]
  split
  · split
    · unfold reclaimPages
      rw [pinned.store]
      exact pinned.reclaimLoop _
    · exact pinned
  · exact pinned

theorem unpinAll (ids : List Nat) (h : Apart u v) : Apart (Machine.unpinAll ids u) (Machine.unpinAll ids v) := by
  induction ids generalizing u v with
  | nil => exact h
  | cons id rest ih => exact ih (h.unpin id)

end Apart

theorem unpinAll_clipLog (ids : List Nat) (s : State) : (unpinAll ids s).clipLog = s.clipLog := by
  rw [id (unpinAll_only ids s)]

end apart

/-! ### A close by a request and by a cue -/

section byRequest

variable {u v : State} {n : Nat}

/-- A clip whose close, once begun, is a request's. -/
def Clip.byRequest (k : Clip) : Clip := { k with closeOrigin := k.closeOrigin.map fun _ => .request }

theorem Clip.byRequest_id (k : Clip) : k.byRequest.id = k.id := rfl

def requested (n : Nat) (k : Clip) : Clip := if k.id = n then k.byRequest else k

/-- The second state is the first but for notices, and for the origin of the close of one clip. -/
def ByRequest (n : Nat) (u v : State) : Prop :=
  Apart u v ∧ v.clipLog = { u.clipLog with clips := u.clipLog.clips.map (requested n) }

namespace ByRequest

theorem clip? (h : ByRequest n u v) : v.clip? n = (u.clip? n).map Clip.byRequest := by
  obtain ⟨-, clips⟩ := h
  unfold State.clip?
  rw [clips]
  show (List.map _ _).find? _ = _
  refine (find?_map_clip (f := Clip.byRequest) _ fun _ => rfl).trans ?_
  cases e : u.clipLog.clips.find? fun c => c.id == n with
  | none => rfl
  | some c =>
    have named : c.id = n := by simpa using List.find?_some e
    simp [named]

theorem modClip (h : ByRequest n u v) (f : Clip → Clip) (same : ∀ k, (f k).id = k.id := by exact fun _ => rfl)
    (commutes : ∀ k, f k.byRequest = (f k).byRequest := by exact fun _ => rfl) :
    ByRequest n (u.modClip n f) (v.modClip n f) := by
  obtain ⟨apart, clips⟩ := h
  refine ⟨?_, ?_⟩
  · rw [id apart]
    rfl
  · simp only [State.modClip, State.modClipLog_clipLog, clips, List.map_map]
    congr 2
    funext k
    by_cases e : k.id = n <;> simp [requested, e, same, commutes, Clip.byRequest_id]

theorem unpinAll (h : ByRequest n u v) (ids : List Nat) : ByRequest n (unpinAll ids u) (Machine.unpinAll ids v) := by
  obtain ⟨apart, clips⟩ := h
  refine ⟨apart.unpinAll ids, ?_⟩
  rw [unpinAll_clipLog, unpinAll_clipLog, clips]

theorem modReads (h : ByRequest n u v) (f : DemandRead → DemandRead) : ByRequest n (u.modReads f) (v.modReads f) :=
  ⟨h.1.modReads f, h.2⟩

theorem raise (h : ByRequest n u v) {body body' : NoticeBody} (hb : protocolPath body = none)
    (hb' : protocolPath body' = none) : ByRequest n (Machine.raise body u) (Machine.raise body' v) := by
  refine ⟨h.1.raise hb hb', ?_⟩
  rw [raise_clipLog, raise_clipLog]
  exact h.2

theorem timing (h : ByRequest n u v) : v.timing = u.timing := by rw [id h.1]

theorem gapsAfterClose (h : ByRequest n u v) (out : Timecode) (removed : List Nat) (gaps : List Gap) :
    Machine.gapsAfterClose v out removed gaps = Machine.gapsAfterClose u out removed gaps := by
  unfold Machine.gapsAfterClose State.earlier State.age
  rw [h.timing]

theorem digestOf (h : ByRequest n u v) (range : List Nat) : v.digestOf range = u.digestOf range := by
  unfold State.digestOf
  rw [funext h.1.segment?]

theorem placeOut (h : ByRequest n u v) (c : Clip) (out : Timecode) : v.placeOut c out = u.placeOut c out := by
  rw [id h.1]
  rfl

theorem completeClose (h : ByRequest n u v) (out : Option Nat) (cause cause' : CloseCause) :
    ByRequest n (completeClose n out cause u) (Machine.completeClose n out cause' v) := by
  unfold Machine.completeClose
  rw [h.clip?]
  cases u.clip? n with
  | none => exact h
  | some c =>
    simp only [Option.map_some, h.gapsAfterClose, h.digestOf]
    refine ByRequest.raise ?_ rfl rfl
    refine ByRequest.modClip ?_ _
    refine ByRequest.unpinAll (ByRequest.modReads ?_ _) _
    exact h.modClip _

theorem closeInSegment (h : ByRequest n u v) (segment : Nat) (cause cause' : CloseCause) :
    ByRequest n (closeInSegment n segment cause u) (Machine.closeInSegment n segment cause' v) := by
  unfold Machine.closeInSegment
  rw [h.1.segment?]
  split
  · exact h.completeClose _ _ _
  · split
    · exact h.completeClose _ _ _
    · exact h.modClip _

/-- The close of a clip begun by a cue, and by a request. -/
theorem begin_close (s : State) (n : Nat) (out : Timecode) :
    ByRequest n (s.modClip n fun c => { c with outPoint := some out, closeOrigin := some .cue })
      (s.modClip n fun c => { c with outPoint := some out, closeOrigin := some .request }) := by
  refine ⟨rfl, ?_⟩
  simp only [State.modClip, State.modClipLog_clipLog, List.map_map]
  congr 2
  funext k
  by_cases e : k.id = n <;> simp [requested, e, Clip.byRequest]

end ByRequest

/-- A close that begins goes on alike, but for its origin and its notice, whether a request or a cue began it (R11). -/
theorem beginClose_byRequest (c : Clip) (out : Timecode) (s : State) :
    (beginClose c out .request s).1 = (beginClose c out .cue s).1
      ∧ ByRequest c.id (beginClose c out .cue s).2 (beginClose c out .request s).2 := by
  have begun := ByRequest.begin_close s c.id out
  unfold beginClose
  simp only
  rw [begun.placeOut]
  generalize s.modClip c.id (fun c => { c with outPoint := some out, closeOrigin := some .cue }) = u at *
  generalize s.modClip c.id (fun c => { c with outPoint := some out, closeOrigin := some .request }) = v at *
  split
  · exact ⟨rfl, begun.modClip _⟩
  · exact ⟨rfl, begun.closeInSegment _ _ _⟩
  · rw [begun.1.segment?]
    refine ⟨rfl, ByRequest.closeInSegment ?_ _ _ _⟩
    exact begun.modClip _
  · exact ⟨rfl, begun.completeClose _ _ _⟩

/-- A clip is created alike, but for its notices, whether a request or a cue opens it (R11). -/
theorem createClip_byRequest (slot : Nat) (c : Fin 6) (placed : PlacedIn) (s : State) :
    (createClip slot c placed .request s).1 = (createClip slot c placed .cue s).1
      ∧ ∃ control, (createClip slot c placed .request s).2 =
          { (createClip slot c placed .cue s).2 with control := control } := by
  refine ⟨rfl, (createClip slot c placed .request s).2.control, ?_⟩
  unfold createClip answerOk
  simp only
  split
  · rw [raise_of_not_protocol _ rfl, raise_of_not_protocol _ rfl, raise_of_not_protocol _ rfl,
      raise_of_not_protocol _ rfl]
  · rw [raise_of_not_protocol _ rfl, raise_of_not_protocol _ rfl]

end byRequest

/-! ### What a request does and what a cue does -/

section requests

variable {s : State} {body : List Byte}

/-- A state that is as a request leaves it, from the state that a cue leaves. -/
theorem ByRequest.state {n : Nat} {u v : State} (h : ByRequest n u v) : v = { u with
    control := v.control, clipLog := { u.clipLog with clips := u.clipLog.clips.map (requested n) } } :=
  h.2 ▸ h.1

theorem thenServe_of_ok {owner : List Byte → State → Reply × State}
    (h : (owner body s).1.code = .ok ∨ (owner body s).1.code = .accepted) :
    thenServe owner body s = ((owner body s).1, serve (owner body s).2) := by
  unfold thenServe
  rcases h with h | h <;> simp only [h]

theorem thenServe_of_refuse {owner : List Byte → State → Reply × State} {code : ResultCode}
    (h : owner body s = refuse code s) (ok : code ≠ .ok) (accepted : code ≠ .accepted) :
    thenServe owner body s = refuse code s := by
  unfold thenServe
  rw [h]
  cases code with
  | ok => exact absurd rfl ok
  | accepted => exact absurd rfl accepted
  | _ => rfl

/-- A request carried out as the action of a cue is, does what that action does with no change due. -/
theorem runRequest_action {kind : RequestKind} {action : CueAction} (asks : s.asks kind body)
    (lengths : lengthOk kind body = actionLengthOk action body) : runRequest kind (actionOwner noneDue action) s =
      answered (performAction noneDue action body s).1 (performAction noneDue action body s).2 := by
  cases length : actionLengthOk action body with
  | true =>
    rw [performAction_eq _ s length]
    exact runRequest_eq asks (lengths.trans length)
  | false =>
    rw [performAction_badLength _ s length]
    exact runRequest_badLength asks (lengths.trans length)

theorem exec_coderSet (asks : s.asks .coderSet body) : exec .coderSet s =
    answered (performAction noneDue .coderSet body s).1 (performAction noneDue .coderSet body s).2 :=
  runRequest_action (action := .coderSet) asks rfl

theorem exec_sceneRecall (asks : s.asks .sceneRecall body) : exec .sceneRecall s =
    answered (performAction noneDue .sceneRecall body s).1 (performAction noneDue .sceneRecall body s).2 :=
  runRequest_action (action := .sceneRecall) asks rfl

/-- CLIP_MARK does what the action of a cue does, and lets the scheduler go on. -/
theorem exec_clipMark (asks : s.asks .clipMark body) : exec .clipMark s =
    answered (performAction noneDue .clipMark body s).1 (if (performAction noneDue .clipMark body s).1.code = .ok
      then serve (performAction noneDue .clipMark body s).2 else (performAction noneDue .clipMark body s).2) := by
  cases length : actionLengthOk .clipMark body with
  | true =>
    have ran : exec .clipMark s = _ := runRequest_eq asks length
    rw [performAction_eq _ s length, ran]
    show _ = answered (clipMark body s).1
      (if (clipMark body s).1.code = .ok then serve (clipMark body s).2 else (clipMark body s).2)
    rcases clipMark_cases body s with ⟨code, ok, accepted, refused⟩ | done
    · rw [thenServe_of_refuse refused ok accepted, refused, refuse_fst, refuse_snd, if_neg ok]
    · rw [thenServe_of_ok (.inl done), if_pos done]
  | false =>
    rw [performAction_badLength _ s length]
    exact runRequest_badLength asks length

/-- CLIP_OPEN does what the action of a cue does, but for its notices. -/
theorem exec_clipOpen (asks : s.asks .clipOpen body) : ∃ control, exec .clipOpen s =
    answered (performAction noneDue .clipOpen body s).1
      { (performAction noneDue .clipOpen body s).2 with control := control } := by
  cases length : actionLengthOk .clipOpen body with
  | true =>
    have ran : exec .clipOpen s = _ := runRequest_eq asks length
    rw [performAction_eq _ s length, ran]
    show ∃ control, answered (clipOpen .request body s).1 (clipOpen .request body s).2 =
      answered (clipOpen .cue body s).1 { (clipOpen .cue body s).2 with control := control }
    rcases clipOpen_cases body s with ⟨code, refused⟩ | ⟨slot, c, placed, created⟩
    · rw [refused, refused]
      exact ⟨s.control, rfl⟩
    · obtain ⟨reply, control, e⟩ := createClip_byRequest slot c placed s
      rw [created, created, reply, e]
      exact ⟨control, rfl⟩
  | false =>
    rw [performAction_badLength _ s length]
    exact ⟨s.control, runRequest_badLength asks length⟩

/-- CLIP_CLOSE is refused as the action of a cue is, and begins the same close as a request's. -/
theorem exec_clipClose (asks : s.asks .clipClose body) :
    ((performAction noneDue .clipClose body s).1.code ≠ .accepted →
      exec .clipClose s = answered (performAction noneDue .clipClose body s).1 s)
    ∧ ((performAction noneDue .clipClose body s).1.code = .accepted → ∃ v,
      ByRequest (field body 0 2) (performAction noneDue .clipClose body s).2 v
        ∧ exec .clipClose s = answered (performAction noneDue .clipClose body s).1 (serve v)) := by
  cases length : actionLengthOk .clipClose body with
  | true =>
    have ran : exec .clipClose s = _ := runRequest_eq asks length
    rw [performAction_eq _ s length, ran]
    show ((clipClose .cue body s).1.code ≠ _ → _ = answered (clipClose .cue body s).1 s)
      ∧ ((clipClose .cue body s).1.code = _ → ∃ v, ByRequest _ (clipClose .cue body s).2 v
        ∧ _ = answered (clipClose .cue body s).1 (serve v))
    rcases clipClose_cases body s with ⟨code, ok, accepted, refused⟩ | ⟨c, out, named, begun⟩
    · rw [thenServe_of_refuse (refused .request) ok accepted, refused]
      exact ⟨fun _ => rfl, fun h => absurd h accepted⟩
    · obtain ⟨reply, same⟩ := beginClose_byRequest c out s
      have code := beginClose_code c out .request s
      have called : c.id = field body 0 2 := by
        have := List.find?_some named
        simp at this
        exact this.1
      rw [← begun .request] at reply same code
      rw [thenServe_of_ok (.inr code), ← begun .cue] at *
      refine ⟨fun h => absurd (beginClose_code c out .cue s) (begun .cue ▸ h), fun _ => ⟨_, called ▸ same, ?_⟩⟩
      rw [reply]
  | false =>
    rw [performAction_badLength _ s length]
    exact ⟨fun _ => runRequest_badLength asks length, nofun⟩

end requests

end Sys2Proof.Machine

namespace Sys2Proof.Machine

/-- Settles O16: the cues of a tick fire in order and leave the list, each does what its request would do, and what it
stages waits. -/
theorem cuesThatFireLeaveTheList : Obligations.CuesThatFireLeaveTheList := by
  refine ⟨fun s t i ticks nodup ran => ?_, fun s t i cue ticks ran rate mem fires alone nodup => ?_, fireCues_order,
    fun due outcome s cue => ⟨?_, ?_⟩, fun s body => ⟨fun action length => ?_, exec_coderSet, exec_sceneRecall,
      exec_clipMark, exec_clipOpen, fun asks => ?_⟩⟩
  · rw [ticksBy_cues ticks nodup ran]
    cases s.timing.stagedRate <;> rfl
  · exact ticksBy_waits ticks ran rate mem fires alone nodup
  · have code := congrArg Timing.timecode (performAction_only due cue.action cue.body (withoutCue cue s)).2
    rw [fireCue_eq, raise_of_not_protocol _ rfl, code]
    rfl
  · exact performAction_refusalKeeps due cue.action cue.body _
  · exact performAction_badLength noneDue s length
  · obtain ⟨refused, closes⟩ := exec_clipClose asks
    refine ⟨refused, fun accepted => ?_⟩
    obtain ⟨v, same, ran⟩ := closes accepted
    refine ⟨v.control, ran.trans ?_⟩
    rw [same.state]
    rfl

end Sys2Proof.Machine

namespace Sys2Proof.Machine

/-! ## Modes of a channel (02, section 2.3) -/

theorem isLive_iff (m : CoderMode) : m.isLive = true ↔ m ∈ [CoderMode.live, .both] := by
  cases m <;> decide

theorem isRecording_iff (m : CoderMode) : m.isRecording = true ↔ m ∈ [CoderMode.record, .both] := by
  cases m <;> decide

theorem isActive_iff (m : CoderMode) : m.isActive = true ↔ m ∈ [CoderMode.live, .record, .both] := by
  cases m <;> decide

/-! ## Picture start (R34, R36, R57) -/

section pictureStart

variable {input : InputState} {held new : Bool} {state : RateState} {ff : Nat}

theorem chooseKind_noPicture (forced : Bool) (h : input = .lost ∨ held = false ∨ new = false) :
    chooseKind input held new forced state ff = .repeated .input := if_pos h

/-- With a picture to code, forced repeat comes before the rate state (R36). -/
theorem chooseKind_picture (forced : Bool) (hi : input = .present) (hh : held = true) (hn : new = true) :
    chooseKind input held new forced state ff =
      if forced then .repeated .overflow
      else if state = .starved then .repeated .starved
      else if state = .halfRate ∧ ff % 2 = 1 then .repeated .halfRate
      else .coded := by
  simp [chooseKind, hi, hh, hn]

end pictureStart

/-- The budget and the rate state of a live channel are the allocator's, of any other its record rate and FULL (R34, R55). -/
theorem readBudget_eq (s : State) (c : Fin 6) : s.readBudget c =
    (if s.coders[c].mode ∈ [CoderMode.live, .both] then s.alloc.budget[c] else s.coders[c].recordRate,
      if s.coders[c].mode ∈ [CoderMode.live, .both] then s.alloc.rateState[c] else .full) := by
  unfold State.readBudget
  by_cases live : s.coders[c].mode ∈ [CoderMode.live, .both]
  · rw [if_pos ((isLive_iff _).mpr live), if_pos live, if_pos live]
  · rw [if_neg (mt (isLive_iff _).mp live), if_neg live, if_neg live]

/-- Settles O22: the picture in flight is what picture start reads, and its kind is the first case of R36 that applies. -/
theorem aPictureStartChoosesKindAndBudget : Obligations.APictureStartChoosesKindAndBudget := by
  intro s c k port live state budget t
  have read : s.readBudget c = (budget, state) := readBudget_eq s c
  refine ⟨⟨chooseKind k.input port.held.isSome port.heldNew k.forcedRepeat state s.timing.timecode.ff, port.held, k.q,
    budget * 31, s.timing.timecode⟩, ?_, rfl, rfl, rfl, rfl, ?_, ?_, fun other ne => ?_, ?_⟩
  · show (pictureStart c s).coders[c] = _
    rw [pictureStart, read]
    exact vecModify_same _ _ _
  · intro none
    refine chooseKind_noPicture _ ?_
    simpa using none
  · intro present held new
    have kind := chooseKind_picture (state := state) (ff := s.timing.timecode.ff) k.forcedRepeat present
      (Option.isSome_iff_ne_none.mpr held) new
    refine ⟨fun forced => kind.trans (by simp [forced]), fun unforced => ⟨fun h => kind.trans (by simp [unforced, h]),
      fun h odd => kind.trans (by simp [unforced, h, odd]), fun h even => kind.trans (by simp [unforced, h, even]),
      fun h => kind.trans (by simp [unforced, h])⟩⟩
  · exact vecModify_other _ _ _ _ ne
  · rfl

/-! ## The video ports (R14, R15) -/

section ports

variable {s t : State}

/-- A channel copies the new input state of its port, and reports it when it is not OFF (R15). -/
def copyInput (p : Fin 8) (state : InputState) (s : State) (c : Fin 6) : State :=
  let s := s.modCoder c fun k => { k with input := state }
  if s.coders[c].mode = .off then s else raise (inputNotice c p state) s

theorem portChange_eq (p : Fin 8) (state : InputState) (s : State) : portChange p state s =
    (vecWhere (fun k : CoderChannel => k.source == p) s.coders).foldl (copyInput p state)
      (s.modPort p fun port => { port with input := state }) := rfl

theorem protocolPath_inputNotice (c : Fin 6) (p : Fin 8) (state : InputState) :
    protocolPath (inputNotice c p state) = none := by
  cases state <;> rfl

theorem copyInput_only (p : Fin 8) (state : InputState) (s : State) (c : Fin 6) :
    copyInput p state s c = { s with
      coders := vecModify s.coders c fun k => { k with input := state }
      control := (copyInput p state s c).control } := by
  unfold copyInput
  simp only
  split
  · rfl
  · rw [raise_of_not_protocol _ (protocolPath_inputNotice c p state)]
    rfl

/-- Copying for some channels gives each of them the state, and changes no other. -/
theorem foldl_copyInput_coders (p : Fin 8) (state : InputState) (l : List (Fin 6)) (s : State) (c : Fin 6) :
    (l.foldl (copyInput p state) s).coders[c] =
      if c ∈ l then { s.coders[c] with input := state } else s.coders[c] := by
  induction l generalizing s with
  | nil => rfl
  | cons d rest ih =>
    rw [List.foldl_cons, ih, copyInput_only]
    by_cases e : c = d
    · subst e
      simp
    · simp [e]

theorem foldl_copyInput_only (p : Fin 8) (state : InputState) (l : List (Fin 6)) (s : State) :
    l.foldl (copyInput p state) s = { s with
      coders := (l.foldl (copyInput p state) s).coders
      control := (l.foldl (copyInput p state) s).control } := by
  refine foldl_related (fun u v : State => v = { u with coders := v.coders, control := v.control }) (fun _ => rfl)
    (fun h h' => ?_) (fun u c => ?_) l s
  · exact Eq.trans h' (by rw [h])
  · rw [copyInput_only]

/-- The channels whose source the port is have its new input state, and no other channel changes (R15). -/
theorem portChange_coders (p : Fin 8) (state : InputState) (s : State) (c : Fin 6) :
    (portChange p state s).coders[c] =
      if s.coders[c].source = p then { s.coders[c] with input := state } else s.coders[c] := by
  rw [portChange_eq, foldl_copyInput_coders]
  simp [vecWhere]

/-- All that a new input state of a port changes (R15). -/
theorem portChange_only (p : Fin 8) (state : InputState) (s : State) : portChange p state s = { s with
    ports := vecModify s.ports p fun port => { port with input := state }
    coders := (portChange p state s).coders
    control := (portChange p state s).control } := by
  rw [portChange_eq, foldl_copyInput_only]
  rfl

/-- After a change at a port the silent selections are emptied and the command ends, in the mixer and the control port. -/
theorem finish_emptySilent (u : State) : ∃ t, finish (emptySilent u) = .next t ∧ t.now = u.now ∧ t.ports = u.ports
    ∧ t.coders = u.coders ∧ t = { u with mixer := t.mixer, control := t.control } :=
  ⟨_, finish_eq _, rfl, rfl, rfl, rfl⟩

/-- The same after a new input state of a port (R15). -/
theorem finish_portChange (p : Fin 8) (state : InputState) (u : State) :
    ∃ t, finish (emptySilent (portChange p state u)) = .next t ∧ t.now = u.now
      ∧ (t.ports = vecModify u.ports p fun port => { port with input := state })
      ∧ (∀ c : Fin 6, t.coders[c] = if u.coders[c].source = p then { u.coders[c] with input := state } else u.coders[c])
      ∧ t = { u with ports := t.ports, coders := t.coders, mixer := t.mixer, control := t.control } := by
  have only := portChange_only p state u
  obtain ⟨t, e, now, ports, coders, frame⟩ := finish_emptySilent (portChange p state u)
  refine ⟨t, e, ?_, ?_, fun c => ?_, ?_⟩
  · rw [now, only]
  · rw [ports, only]
  · rw [coders]
    exact portChange_coders p state u c
  · rw [frame, only]

theorem formatOfLines_eq_none {lines : Nat} (h : lines ≠ 1080) (h' : lines ≠ 720) : formatOfLines lines = none := by
  simp [formatOfLines, h, h']

theorem formatOfLines_lines (format : Format) : formatOfLines format.lines = some format := by
  cases format <;> rfl

/-- A port at which a picture of a format starts, with its input state still to be set (R14). -/
def startedPort (format : Format) (pairs : Vector Bool 4) (now : Time) (p : VideoPort) : VideoPort :=
  { p with lastStart := some now, arriving := some ⟨format, pairs, false⟩ }

/-- A picture that starts on a port that is PRESENT changes that port's record alone. -/
theorem exec_videoPictureStart_present {elapsed : Nat} {port : Fin 8} {format : Format} {pairs : Vector Bool 4}
    (present : s.ports[port].input = .present) : exec (.videoPictureStart elapsed port format.lines pairs) s =
      finish (emptySilent ((s.elapse elapsed).modPort port (startedPort format pairs (s.now + elapsed)))) := by
  show execVideoPictureStart elapsed port format.lines pairs s = _
  rw [execVideoPictureStart, formatOfLines_lines]
  simp only [State.elapse_ports, present]
  rfl

/-- A picture that starts on a port that is LOST makes it PRESENT, with no picture new since the return (R15). -/
theorem exec_videoPictureStart_lost {elapsed : Nat} {port : Fin 8} {format : Format} {pairs : Vector Bool 4}
    (lost : s.ports[port].input = .lost) : exec (.videoPictureStart elapsed port format.lines pairs) s =
      finish (emptySilent (portChange port .present ((s.elapse elapsed).modPort port fun p =>
        { startedPort format pairs (s.now + elapsed) p with heldNew := false }))) := by
  show execVideoPictureStart elapsed port format.lines pairs s = _
  rw [execVideoPictureStart, formatOfLines_lines]
  simp only [State.elapse_ports, lost, State.modPort, vecModify_vecModify]
  rfl

end ports

/-- Settles O17: a picture start is its case by the state of the port, and each case writes that port. -/
theorem aPictureStartMakesThePortPresent : Obligations.APictureStartMakesThePortPresent := by
  refine fun s elapsed port lines pairs => ⟨fun h h' => ?_, ?_⟩
  · show execVideoPictureStart elapsed port lines pairs s = _
    rw [execVideoPictureStart, formatOfLines_eq_none h h']
    rfl
  · rintro format rfl
    cases input : s.ports[port].input with
    | present =>
      obtain ⟨t, e, now, ports, coders, frame⟩ := finish_emptySilent
        ((s.elapse elapsed).modPort port (startedPort format pairs (s.now + elapsed)))
      have started : t.ports[port] = startedPort format pairs (s.now + elapsed) s.ports[port] :=
        (congrArg (fun v => v[port]) ports).trans (vecModify_same _ _ _)
      refine ⟨t, (exec_videoPictureStart_present input).trans e, now, ?_, ?_, ?_, ?_, fun other ne => ?_, nofun,
        fun _ => ⟨coders, ?_⟩, ?_⟩
      · exact (congrArg VideoPort.input started).trans input
      · rw [started, now]
        rfl
      · rw [started]
        rfl
      · rw [started]
        rfl
      · exact (congrArg (fun v => v[other]) ports).trans (vecModify_other _ _ _ _ ne)
      · rw [started]
        rfl
      · rw [frame]
        rfl
    | lost =>
      obtain ⟨t, e, now, ports, coders, frame⟩ := finish_portChange port .present
        ((s.elapse elapsed).modPort port fun p => { startedPort format pairs (s.now + elapsed) p with heldNew := false })
      rw [State.modPort_ports, vecModify_vecModify] at ports
      have started : t.ports[port] =
          { startedPort format pairs (s.now + elapsed) s.ports[port] with heldNew := false, input := .present } :=
        (congrArg (fun v => v[port]) ports).trans (vecModify_same _ _ _)
      refine ⟨t, (exec_videoPictureStart_lost input).trans e, now, ?_, ?_, ?_, ?_, fun other ne => ?_,
        fun _ => ⟨?_, coders⟩, nofun, ?_⟩
      · rw [started]
      · rw [started, now]
        rfl
      · rw [started]
        rfl
      · rw [started]
        rfl
      · exact (congrArg (fun v => v[other]) ports).trans (vecModify_other _ _ _ _ ne)
      · rw [started]
      · rw [frame]
        rfl

/-! ### Held pictures and the loss of an input (R14, R15) -/

/-- An end that completes the picture arriving in its own format, with the lines of that format, is held (R14). -/
theorem exec_videoPictureComplete_whole {s : State} {elapsed : Nat} {port : Fin 8} {picture : Picture} {a : Arriving}
    (arriving : s.ports[port].arriving = some a) (open_ : a.complete = false) (format : a.format = picture.format)
    (lines : picture.luma.length = picture.format.lines) : exec (.videoPictureComplete elapsed port picture) s =
      finish ((s.elapse elapsed).modPort port fun p => { p with
        held := some (receivedPicture (s.now + elapsed) port picture)
        heldNew := true
        arriving := some { a with complete := true } }) := by
  show execVideoPictureComplete elapsed port picture s = _
  have kept : ¬(a.complete = true ∨ a.format ≠ picture.format ∨ picture.luma.length ≠ picture.format.lines) := by
    simp [open_, format, lines]
  unfold execVideoPictureComplete
  simp only [State.elapse_ports, arriving]
  exact if_neg kept

/-- Any other end of a picture changes the time alone (notes/assumptions/18.md). -/
theorem exec_videoPictureComplete_other {s : State} {elapsed : Nat} {port : Fin 8} {picture : Picture}
    (other : ∀ a, s.ports[port].arriving = some a →
      a.complete = true ∨ a.format ≠ picture.format ∨ picture.luma.length ≠ picture.format.lines) :
    exec (.videoPictureComplete elapsed port picture) s = finish (s.elapse elapsed) := by
  show execVideoPictureComplete elapsed port picture s = _
  unfold execVideoPictureComplete
  simp only [State.elapse_ports]
  split
  · rfl
  · rename_i a h
    exact if_pos (other a h)

/-- Settles O18: an end of a picture is held or has no effect, and a loss clears its port. -/
theorem aPictureIsHeldUntilTheLoss : Obligations.APictureIsHeldUntilTheLoss := by
  refine ⟨fun s elapsed port picture => ⟨fun none => ?_, fun lines => ?_, fun a arriving => ⟨fun h => ?_,
    fun open_ format lines => ?_⟩⟩, fun s port start started => ?_⟩
  · exact exec_videoPictureComplete_other fun a h => nomatch none.symm.trans h
  · exact exec_videoPictureComplete_other fun a _ => .inr (.inr lines)
  · refine exec_videoPictureComplete_other fun b hb => ?_
    obtain rfl : a = b := Option.some.inj (arriving.symm.trans hb)
    exact h.imp_right .inl
  · exact ⟨receivedPicture (s.now + elapsed) port picture, receivedPicture_format _ _ _, receivedPicture_wellFormed _ _ _,
      fun whole => receivedPicture_of_wellFormed whole _ _,
      exec_videoPictureComplete_whole arriving open_ format lines⟩
  · obtain ⟨t, e, now, ports, coders, frame⟩ := finish_portChange port .lost
      ((s.passTo (start + 3 * period s.timing.rate / 2)).modPort port fun p =>
        { p with held := none, heldNew := false, lastStart := none, arriving := none })
    refine ⟨t, ?_, now, ?_, coders, ?_⟩
    · rw [← e]
      show execInputLossExpiry port s = _
      unfold execInputLossExpiry
      rw [started]
    · rw [ports, State.modPort_ports, vecModify_vecModify]
      rfl
    · rw [frame]
      rfl

end Sys2Proof.Machine

namespace Sys2Proof.Machine

/-! ## Requests for an item (R16, R24, R144, R173) -/

section items

variable {s : State} {n : Byte}

/-- A listing gives entries from the first on, and counts those it leaves out (R198). -/
theorem fitEntries_eq {α : Type} (build : List α → Nat → ReplyContents) (entries : List α) :
    ∃ shown omitted, fitEntries build entries = build shown omitted ∧ shown.length + omitted = entries.length
      ∧ shown <+: entries := by
  have longest : ∀ m ≤ entries.length, ∃ shown omitted, fitEntries.longest build entries m = build shown omitted
      ∧ shown.length + omitted = entries.length ∧ shown <+: entries := by
    intro m
    induction m with
    | zero => exact fun _ => ⟨[], entries.length, rfl, by simp, List.nil_prefix⟩
    | succ m ih =>
      intro h
      unfold fitEntries.longest
      simp only
      split
      · refine ⟨_, _, rfl, ?_, List.take_prefix _ _⟩
        rw [List.length_take]
        omega
      · exact ih (by omega)
  exact longest _ le_rfl

theorem inputInfo_unnamed (h : 8 ≤ n.toNat) : inputInfo [n] s = refuse .badValue s := by
  rw [inputInfo, field_zero_one, finOf_of_le h]

theorem inputInfo_named {p : Fin 8} (h : n.toNat = p.val) : inputInfo [n] s =
    answerOk (.input s.ports[p].input (s.ports[p].held.map fun picture => picture.format)
      (s.ports[p].lastStart.map fun t => (s.now - t) / period s.timing.rate)
      ((List.finRange 6).filter fun c => s.coders[c].source == p)) s := by
  rw [inputInfo, field_zero_one, h, finOf_val]
  rfl

theorem coderInfo_unnamed (h : 6 ≤ n.toNat) : coderInfo [n] s = refuse .badValue s := by
  rw [coderInfo, field_zero_one, finOf_of_le h]

theorem coderInfo_named {c : Fin 6} (h : n.toNat = c.val) :
    coderInfo [n] s = answerOk (.coder s.coders[c].report) s := by
  rw [coderInfo, field_zero_one, h, finOf_val]

theorem pathInfo_unnamed (h : 4 ≤ n.toNat) : pathInfo [n] s = refuse .badValue s := by
  rw [pathInfo, field_zero_one, finOf_of_le h]

/-- PATH_INFO gives the record, with as many retry entries as fit (R173, R198). -/
theorem pathInfo_named {p : Fin 4} (h : n.toNat = p.val) : ∃ shown omitted,
    pathInfo [n] s = answerOk (.path (s.paths[p].report s.now) shown s.alloc.pathRate[p] omitted) s
      ∧ shown.length + omitted = s.paths[p].retry.length ∧ shown <+: s.paths[p].retry.map RetryEntry.info := by
  obtain ⟨shown, omitted, e, length, first⟩ := fitEntries_eq
    (fun shown omitted => .path (s.paths[p].report s.now) shown s.alloc.pathRate[p] omitted)
    (s.paths[p].retry.map RetryEntry.info)
  refine ⟨shown, omitted, ?_, length.trans (List.length_map _), first⟩
  rw [pathInfo, field_zero_one, h, finOf_val, ← e]

/-- The replay position that PATH_INFO gives, and none when there is none (notes/assumptions/47.md). -/
theorem report_replay (path : Path) (now : Time) : (path.report now).replay =
    match path.replay with
    | none => none
    | some place => path.retry[place]?.map fun e => e.start := by
  cases h : path.replay with
  | none => simp [Path.report, h]
  | some place => simp [Path.report, h]

/-- The kinds of the control frames that wait (Table 10-6). -/
theorem report_control (path : Path) (now : Time) : (path.report now).control =
    path.control.map fun waiting => match waiting with
      | .hello _ => (0x02 : Byte)
      | .credit _ => 0x01
      | .retryMark _ => 0x04
      | .close => 0x05 := by
  refine List.map_congr_left fun f _ => ?_
  cases f <;> rfl

theorem mixerInfo_named {selector : Byte} {contents : ReplyContents}
    (h : s.mixerPart selector.toNat n.toNat = some contents) : mixerInfo [selector, n] s = answerOk contents s := by
  rw [mixerInfo, field_zero_one, field_succ, field_zero_one, h]

theorem mixerInfo_unnamed {selector : Byte} (h : s.mixerPart selector.toNat n.toNat = none) :
    mixerInfo [selector, n] s = refuse .badValue s := by
  rw [mixerInfo, field_zero_one, field_succ, field_zero_one, h]

/-- MIXER_INFO gives the part of the mixer that its selector and its number name (R144). -/
theorem exec_mixerInfo_named {selector : Byte} {contents : ReplyContents} (asks : s.asks .mixerInfo [selector, n])
    (h : s.mixerPart selector.toNat n.toNat = some contents) : exec .mixerInfo s = answered ⟨.ok, contents⟩ s := by
  have run : exec .mixerInfo s = _ := runRequest_eq (owner := mixerInfo) asks rfl
  rw [run, mixerInfo_named h, answerOk_fst, answerOk_snd]

theorem mixerPart_unnamed {selector number : Nat} (h : selector = 0 ∨ 7 ≤ selector ∨ selector = 1 ∧ 32 ≤ number
    ∨ selector = 2 ∧ 12 ≤ number ∨ selector = 3 ∧ 16 ≤ number ∨ selector = 4 ∧ 2 ≤ number
    ∨ selector = 5 ∧ 4 ≤ number) : s.mixerPart selector number = none := by
  rcases h with rfl | h | ⟨rfl, h⟩ | ⟨rfl, h⟩ | ⟨rfl, h⟩ | ⟨rfl, h⟩ | ⟨rfl, h⟩
  · rfl
  · unfold State.mixerPart
    split <;> first | omega | rfl
  all_goals simp [State.mixerPart, finOf_of_le h]

/-- A selection is silent when its port is LOST or the picture that last started does not carry its pair (R123). -/
theorem silent_eq (s : State) : s.silent = fun e => decide (s.ports[e.port].input = .lost)
    || (match s.ports[e.port].arriving with
      | none => true
      | some a => !a.pairs[e.pair]) := by
  funext e
  unfold State.silent
  cases s.ports[e.port].arriving <;> rfl

end items

/-- Settles O27: each owner finds the item that the number names, or refuses it. -/
theorem requestsForAnItem : Obligations.RequestsForAnItem := by
  refine fun s n => ⟨fun asks => ⟨fun h => ?_, fun p h => ?_⟩, fun asks => ⟨fun h => ?_, fun c h => ?_⟩,
    fun asks => ⟨fun h => ?_, fun p h => ?_⟩, fun selector asks => ?_⟩
  · exact runRequest_refused asks rfl (inputInfo_unnamed h)
  · have run : exec .inputInfo s = _ := runRequest_eq (owner := inputInfo) asks rfl
    rw [run, inputInfo_named h]
    rfl
  · exact runRequest_refused asks rfl (coderInfo_unnamed h)
  · have run : exec .coderInfo s = _ := runRequest_eq (owner := coderInfo) asks rfl
    rw [run, coderInfo_named h]
    rfl
  · exact runRequest_refused asks rfl (pathInfo_unnamed h)
  · have run : exec .pathInfo s = _ := runRequest_eq (owner := pathInfo) asks rfl
    obtain ⟨shown, omitted, e, length, first⟩ := pathInfo_named (s := s) h
    refine ⟨s.paths[p].report s.now, shown, omitted, ?_, length, first, rfl, rfl, rfl, rfl, rfl, rfl, rfl, rfl, rfl,
      report_replay _ _, report_control _ _, rfl, rfl, rfl, rfl, rfl, rfl, rfl, rfl, rfl, rfl, rfl, rfl, rfl, rfl, rfl,
      rfl, rfl, rfl⟩
    rw [run, e]
    rfl
  · refine ⟨fun sel c h => ?_, fun sel b h => ?_, fun sel i h => ?_, fun sel i h => ?_, fun sel slot h => ?_,
      fun sel => ?_, fun unnamed => runRequest_refused asks rfl (mixerInfo_unnamed (mixerPart_unnamed unnamed))⟩
    case _ => exact exec_mixerInfo_named asks (by rw [sel, h, State.mixerPart, finOf_val]; rfl)
    case _ => exact exec_mixerInfo_named asks (by rw [sel, h, State.mixerPart, finOf_val]; rfl)
    case _ => exact exec_mixerInfo_named asks (by rw [sel, h, State.mixerPart, finOf_val]; rfl)
    case _ => exact exec_mixerInfo_named asks (by rw [sel, h, State.mixerPart, finOf_val]; rfl)
    case _ => exact exec_mixerInfo_named asks (by rw [sel, h, State.mixerPart, finOf_val]; rfl)
    case _ =>
      refine exec_mixerInfo_named asks (contents := .mixer _) ?_
      rw [sel]
      show some (ReplyContents.mixer s.mixerReport) = _
      rw [State.mixerReport, silent_eq]
      rfl

end Sys2Proof.Machine

namespace Sys2Proof.Machine

/-! ## CODER_SET (R18, Table 2-3) -/

section coderSet

variable {s : State} {c : Fin 6} {body : List Byte}

/-- The values of the nine fields as a CODER_SET body gives them, those not given being absent (Table 10-4). -/
structure CoderFields where
  mode         : Option Nat := none
  source       : Option Nat := none
  weight       : Option Nat := none
  floor        : Option Nat := none
  recordRate   : Option Nat := none
  qMin         : Option Nat := none
  qMax         : Option Nat := none
  segLength    : Option Nat := none
  liveDeadline : Option Nat := none

/-- The fields in bit order. -/
def CoderFields.list (g : CoderFields) : List (Option Nat) :=
  [g.mode, g.source, g.weight, g.floor, g.recordRate, g.qMin, g.qMax, g.segLength, g.liveDeadline]

/-- The fields clamped, as they are staged (R18). -/
def CoderFields.staged (g : CoderFields) : Staged where
  mode := g.mode.bind modeOf
  source := g.source.bind (finOf 8)
  weight := g.weight.map (max 1)
  floor := g.floor.map (min 4095)
  recordRate := g.recordRate.map fun r => max 1 (min 4095 r)
  qMin := g.qMin
  qMax := g.qMax
  segLength := g.segLength.map fun g => max 10 (min 100 g)
  liveDeadline := g.liveDeadline.map fun d => max 1 (min 8 d)

/-- The fields that have a range are within it (check 2 of R18). -/
def CoderFields.inRange (g : CoderFields) : Bool :=
  g.mode.all (fun m => (modeOf m).isSome) && g.source.all (fun p => decide (p < 8))
    && g.weight.all (fun w => decide (w ≤ 15)) && g.qMin.all (fun q => decide (q ≤ 51))
    && g.qMax.all (fun q => decide (q ≤ 51))

/-- A body declares its fields with a mask that sets only bits in use, and has the length that the mask gives. -/
structure Declares (body : List Byte) (g : CoderFields) : Prop where
  mask : coderMask body < 512
  length : coderSetLengthOk body = true
  fields : declaredFields (coderMask body) body coderFieldSizes 0 3 = g.list

theorem Declares.readStaged {g : CoderFields} (h : Declares body g) : readStaged body = g.staged := by
  have clamp : ∀ low high x : Nat, low ≤ high → min high (max low x) = max low (min high x) := by omega
  rw [Machine.readStaged, h.fields]
  simp [CoderFields.list, CoderFields.staged, clamp]

theorem Declares.stagedInRange {g : CoderFields} (h : Declares body g) : stagedInRange body = g.inRange := by
  rw [Machine.stagedInRange, h.fields]
  simp [CoderFields.list, CoderFields.inRange, maskDefined, h.mask]

theorem stagedInRange_undefined (h : 512 ≤ coderMask body) : stagedInRange body = false := by
  have undefined : maskDefined (coderMask body) 9 = false := by simpa [maskDefined] using h
  unfold stagedInRange
  split
  · simp [undefined]
  · rfl

/-- Nothing merged behind the staged change leaves it. -/
theorem mergeStaged_nothing (st : Staged) : mergeStaged st Staged.empty = st := by
  obtain ⟨mode, source, weight, floor, recordRate, qMin, qMax, segLength, liveDeadline⟩ := st
  simp [mergeStaged, Staged.empty]

theorem coderSet_unnamed {n : Byte} (due : Vector Staged 6) (h : 6 ≤ n.toNat) :
    coderSet due (n :: body) s = refuse .badValue s := by
  rw [coderSet, field_zero_one, finOf_of_le h]

/-- A value out of range is refused, whatever channel is named (check 2 of R18). -/
theorem coderSet_outOfRange (due : Vector Staged 6) (h : stagedInRange body = false) :
    coderSet due body s = refuse .badValue s := by
  unfold coderSet
  split
  · rfl
  · rw [h]
    rfl

/-- RECORD and BOTH wait for 1024 initialised pages (R66). -/
theorem storeReady_eq_false (s : State) : s.storeReady = false ↔ s.store.initPosition < 1024 :=
  decide_eq_false_iff_not.trans Nat.not_le

/-- CODER_SET of a channel by its fields: the checks of R18 in their order, and the fields staged beside the others. -/
def coderSetFields (g : CoderFields) (c : Fin 6) (s : State) : Reply × State :=
  let k := s.coders[c]
  let new := mergeStaged g.staged k.staged
  if g.inRange = false then refuse .badValue s
  else if (newBounds k new).2 < (newBounds k new).1 then refuse .badValue s
  else if g.staged.mode.all (modeAllowed k.mode) = false then refuse .badState s
  else if g.staged.mode.any (fun m => m.isRecording) = true ∧ s.store.initPosition < 1024 then refuse .notReady s
  else if g.staged = Staged.empty then answerOk .none s
  else answerAccepted (.staged new) { s with coders := vecSet s.coders c { k with staged := new } }

theorem coderSet_declared {g : CoderFields} (h : Declares (byteOf c.val :: body) g) :
    coderSet noneDue (byteOf c.val :: body) s = coderSetFields g c s := by
  have channel : finOf 6 (field (byteOf c.val :: body) 0 1) = some c := by
    rw [field_zero_one, toNat_byteOf (by omega), finOf_val]
  have none : mergeStaged s.coders[c].staged noneDue[c] = s.coders[c].staged := by
    rw [show noneDue[c] = Staged.empty by simp [noneDue], mergeStaged_nothing]
  rw [coderSet, channel]
  simp only [h.stagedInRange, h.readStaged, none]
  refine if_congr (by simp) rfl (if_congr Iff.rfl rfl (if_congr (by simp) rfl (if_congr ?_ rfl rfl)))
  rw [Bool.and_eq_true, Bool.not_eq_true', storeReady_eq_false]

/-! ### The answers to the fields of a CODER_SET -/

variable {g : CoderFields}

theorem exec_coderSet_declared (asks : s.asks .coderSet (byteOf c.val :: body)) (h : Declares (byteOf c.val :: body) g) :
    exec .coderSet s = answered (coderSetFields g c s).1 (coderSetFields g c s).2 := by
  rw [← coderSet_declared h]
  exact runRequest_eq asks h.length

variable (asks : s.asks .coderSet (byteOf c.val :: body)) (h : Declares (byteOf c.val :: body) g)
include asks h

theorem exec_coderSet_outOfRange (out : g.inRange = false) : exec .coderSet s = refusedWith .badValue s := by
  rw [exec_coderSet_declared asks h, coderSetFields, if_pos out, answered_refuse]

theorem exec_coderSet_disordered (disordered : (newBounds s.coders[c] (mergeStaged g.staged s.coders[c].staged)).2 <
    (newBounds s.coders[c] (mergeStaged g.staged s.coders[c].staged)).1) :
    exec .coderSet s = refusedWith .badValue s := by
  rw [exec_coderSet_declared asks h]
  unfold coderSetFields
  simp only [if_pos disordered, ite_self, answered_refuse]

variable (inRange : g.inRange = true)
  (ordered : (newBounds s.coders[c] (mergeStaged g.staged s.coders[c].staged)).1 ≤
    (newBounds s.coders[c] (mergeStaged g.staged s.coders[c].staged)).2)
include inRange ordered

/-- In range and with the bounds in order, the mode decides (checks 4 and 5 of R18). -/
theorem exec_coderSet_ordered : exec .coderSet s =
    if g.staged.mode.all (modeAllowed s.coders[c].mode) = false then refusedWith .badState s
    else if g.staged.mode.any (fun m => m.isRecording) = true ∧ s.store.initPosition < 1024 then refusedWith .notReady s
    else if g.staged = Staged.empty then answered ⟨.ok, .none⟩ s
    else answered ⟨.accepted, .staged (mergeStaged g.staged s.coders[c].staged)⟩ { s with
      coders := vecSet s.coders c { s.coders[c] with staged := mergeStaged g.staged s.coders[c].staged } } := by
  rw [exec_coderSet_declared asks h]
  unfold coderSetFields
  simp only [inRange, if_neg (Nat.not_lt.mpr ordered), Bool.true_eq_false, if_false]
  split_ifs <;> rfl

/-- Fields with a mode that is allowed, or with none, are staged beside the others. -/
theorem exec_coderSet_stages (allowed : g.staged.mode.all (modeAllowed s.coders[c].mode) = true)
    (ready : g.staged.mode.any (fun m => m.isRecording) = false) (given : g.staged ≠ Staged.empty) : exec .coderSet s =
      answered ⟨.accepted, .staged (mergeStaged g.staged s.coders[c].staged)⟩ { s with
        coders := vecSet s.coders c { s.coders[c] with staged := mergeStaged g.staged s.coders[c].staged } } := by
  rw [exec_coderSet_ordered asks h inRange ordered, allowed, ready]
  exact if_neg given

end coderSet

/-- Table 2-3: from one active mode to another there is no request. -/
theorem modeAllowed_eq_false (inForce requested : CoderMode) : modeAllowed inForce requested = false ↔
    inForce ∈ [CoderMode.live, .record, .both] ∧ requested ∈ [CoderMode.live, .record, .both] := by
  rw [← isActive_iff, ← isActive_iff]
  simp [modeAllowed]

/-! ### Bodies of CODER_SET (Table 10-4) -/

section bodies

variable (n : Byte) {body : List Byte} {g : CoderFields}

theorem coderMask_cons (high low : Byte) (rest : List Byte) :
    coderMask (n :: high :: low :: rest) = high.toNat * 256 + low.toNat := by
  rw [coderMask, field_succ, field_zero_two]

theorem Declares.of_mask {mask : Nat} (hm : coderMask body = mask) (small : mask < 512)
    (length : (decide (3 ≤ body.length) && body.length == 3 + declaredSize mask coderFieldSizes 0) = true)
    (fields : declaredFields mask body coderFieldSizes 0 3 = g.list) : Declares body g := by
  subst hm
  exact ⟨small, length, fields⟩

theorem declares_nothing : Declares [n, 0, 0] {} := .of_mask (mask := 0) rfl (by decide) rfl rfl

theorem declares_mode (m : Byte) : Declares [n, 0, 1, m] { mode := some m.toNat } := by
  refine .of_mask (mask := 1) rfl (by decide) rfl ?_
  rw [← field_zero_one m []]
  rfl

theorem declares_source (p : Byte) : Declares [n, 0, 2, p] { source := some p.toNat } := by
  refine .of_mask (mask := 2) rfl (by decide) rfl ?_
  rw [← field_zero_one p []]
  rfl

theorem declares_weight (w : Byte) : Declares [n, 0, 4, w] { weight := some w.toNat } := by
  refine .of_mask (mask := 4) rfl (by decide) rfl ?_
  rw [← field_zero_one w []]
  rfl

theorem declares_floor (high low : Byte) :
    Declares [n, 0, 8, high, low] { floor := some (high.toNat * 256 + low.toNat) } := by
  refine .of_mask (mask := 8) rfl (by decide) rfl ?_
  rw [← field_zero_two high low []]
  rfl

theorem declares_recordRate (high low : Byte) :
    Declares [n, 0, 16, high, low] { recordRate := some (high.toNat * 256 + low.toNat) } := by
  refine .of_mask (mask := 16) rfl (by decide) rfl ?_
  rw [← field_zero_two high low []]
  rfl

theorem declares_qMin (q : Byte) : Declares [n, 0, 32, q] { qMin := some q.toNat } := by
  refine .of_mask (mask := 32) rfl (by decide) rfl ?_
  rw [← field_zero_one q []]
  rfl

theorem declares_qMax (q : Byte) : Declares [n, 0, 64, q] { qMax := some q.toNat } := by
  refine .of_mask (mask := 64) rfl (by decide) rfl ?_
  rw [← field_zero_one q []]
  rfl

theorem declares_segLength (g : Byte) : Declares [n, 0, 128, g] { segLength := some g.toNat } := by
  refine .of_mask (mask := 128) rfl (by decide) rfl ?_
  rw [← field_zero_one g []]
  rfl

theorem declares_liveDeadline (d : Byte) : Declares [n, 1, 0, d] { liveDeadline := some d.toNat } := by
  refine .of_mask (mask := 256) rfl (by decide) rfl ?_
  rw [← field_zero_one d []]
  rfl

theorem declares_all (m p w fh fl rh rl q1 q2 g d : Byte) : Declares [n, 1, 255, m, p, w, fh, fl, rh, rl, q1, q2, g, d]
    { mode := some m.toNat
      source := some p.toNat
      weight := some w.toNat
      floor := some (fh.toNat * 256 + fl.toNat)
      recordRate := some (rh.toNat * 256 + rl.toNat)
      qMin := some q1.toNat
      qMax := some q2.toNat
      segLength := some g.toNat
      liveDeadline := some d.toNat } := by
  have offsets : ∀ body : List Byte, declaredFields 511 body coderFieldSizes 0 3 =
      [some (field body 3 1), some (field body 4 1), some (field body 5 1), some (field body 6 2), some (field body 8 2),
        some (field body 10 1), some (field body 11 1), some (field body 12 1), some (field body 13 1)] := fun _ => rfl
  refine .of_mask (mask := 511) rfl (by decide) rfl ?_
  rw [offsets]
  simp [CoderFields.list]

end bodies

theorem modeOf_of_le {m : Nat} (h : 5 ≤ m) : modeOf m = none := by
  unfold modeOf
  split
  case _ => omega
  case _ => omega
  case _ => omega
  case _ => omega
  case _ => omega
  case _ => rfl

/-- Settles O19: each body declares its fields, and the answer is that of R18's checks to them. -/
theorem coderSetStagesAllowedFields : Obligations.CoderSetStagesAllowedFields := by
  refine ⟨fun s n body asks length bad => ?_, fun s c ordered => ?_⟩
  · refine runRequest_refused asks length ?_
    rcases bad with h | ⟨high, rest, rfl, h⟩
    · exact coderSet_unnamed noneDue h
    · refine coderSet_outOfRange noneDue (stagedInRange_undefined ?_)
      cases rest with
      | nil => exact absurd length (by simp [lengthOk, coderSetLengthOk])
      | cons low rest =>
        rw [coderMask_cons]
        omega
  · intro staging old low high
    refine ⟨fun p asks => ⟨fun h => ?_, fun port h => ?_⟩, fun h l asks => ?_, fun q asks => ?_, fun q asks => ?_,
      fun g asks => ?_, fun d asks => ?_, fun m p w fh fl rh rl q1 q2 g d mode port asks hm hp hw h1 h2 => ?_,
      fun m asks h => ?_, fun w asks => ?_, fun h l asks => ?_, fun asks => ?_, fun m mode asks hm => ?_⟩
    · exact exec_coderSet_outOfRange asks (declares_source _ p) (by simpa [CoderFields.inRange] using h)
    · have named : CoderFields.staged { source := some p.toNat } = { Staged.empty with source := some port } := by
        simp [CoderFields.staged, Staged.empty, h]
      have stages := exec_coderSet_stages asks (declares_source _ p) (by simp [CoderFields.inRange, h]) ordered rfl rfl
        (by simp [named, Staged.empty])
      rw [named] at stages
      exact stages
    · exact exec_coderSet_stages asks (declares_recordRate _ h l) rfl ordered rfl rfl nofun
    · split_ifs with bad
      · by_cases large : 51 < q.toNat
        · exact exec_coderSet_outOfRange asks (declares_qMin _ q) (by simpa [CoderFields.inRange] using large)
        · exact exec_coderSet_disordered asks (declares_qMin _ q) (bad.resolve_left large)
      · obtain ⟨small, below⟩ := not_or.mp bad
        exact exec_coderSet_stages asks (declares_qMin _ q) (by simpa [CoderFields.inRange] using small)
          (Nat.not_lt.mp below) rfl rfl nofun
    · split_ifs with bad
      · by_cases large : 51 < q.toNat
        · exact exec_coderSet_outOfRange asks (declares_qMax _ q) (by simpa [CoderFields.inRange] using large)
        · exact exec_coderSet_disordered asks (declares_qMax _ q) (bad.resolve_left large)
      · obtain ⟨small, above⟩ := not_or.mp bad
        exact exec_coderSet_stages asks (declares_qMax _ q) (by simpa [CoderFields.inRange] using small)
          (Nat.not_lt.mp above) rfl rfl nofun
    · exact exec_coderSet_stages asks (declares_segLength _ g) rfl ordered rfl rfl nofun
    · exact exec_coderSet_stages asks (declares_liveDeadline _ d) rfl ordered rfl rfl nofun
    · have declared := declares_all (byteOf c.val) m p w fh fl rh rl q1 q2 g d
      refine ⟨fun disordered => exec_coderSet_disordered asks declared disordered, fun ordered inactive => ?_⟩
      have named : CoderFields.staged
          { mode := some m.toNat
            source := some p.toNat
            weight := some w.toNat
            floor := some (fh.toNat * 256 + fl.toNat)
            recordRate := some (rh.toNat * 256 + rl.toNat)
            qMin := some q1.toNat
            qMax := some q2.toNat
            segLength := some g.toNat
            liveDeadline := some d.toNat } =
          { mode := some mode
            source := some port
            weight := some (max 1 w.toNat)
            floor := some (min 4095 (fh.toNat * 256 + fl.toNat))
            recordRate := some (max 1 (min 4095 (rh.toNat * 256 + rl.toNat)))
            qMin := some q1.toNat
            qMax := some q2.toNat
            segLength := some (max 10 (min 100 g.toNat))
            liveDeadline := some (max 1 (min 8 d.toNat)) } := by
        simp [CoderFields.staged, hm, hp]
      have stages := exec_coderSet_stages asks declared (by simp [CoderFields.inRange, hm, hp, hw, h1, h2]) ordered
      rw [named] at stages
      rcases List.mem_pair.mp inactive with rfl | rfl
      · exact stages (by simp [modeAllowed, CoderMode.isActive, CoderMode.isLive, CoderMode.isRecording]) rfl nofun
      · exact stages (by simp [modeAllowed, CoderMode.isActive, CoderMode.isLive, CoderMode.isRecording]) rfl nofun
    · exact exec_coderSet_outOfRange asks (declares_mode _ m) (by simp [CoderFields.inRange, modeOf_of_le h])
    · split_ifs with small
      · exact exec_coderSet_stages asks (declares_weight _ w) (by simpa [CoderFields.inRange] using small) ordered rfl rfl
          nofun
      · exact exec_coderSet_outOfRange asks (declares_weight _ w)
          (by simpa [CoderFields.inRange] using Nat.not_le.mp small)
    · exact exec_coderSet_stages asks (declares_floor _ h l) rfl ordered rfl rfl nofun
    · exact exec_coderSet_ordered asks (declares_nothing _) rfl ordered
    · have named : CoderFields.staged { mode := some m.toNat } = { Staged.empty with mode := some mode } := by
        simp [CoderFields.staged, Staged.empty, hm]
      have decided := exec_coderSet_ordered asks (declares_mode _ m) (by simp [CoderFields.inRange, hm]) ordered
      rw [named] at decided
      rw [decided]
      refine if_congr (modeAllowed_eq_false _ _) rfl (if_congr (and_congr_left' (isRecording_iff _)) rfl (if_neg nofun))

end Sys2Proof.Machine

namespace Sys2Proof.Machine

/-! ## The coding arithmetic (02, sections 2.5 and 2.6; 03, R59 and R60) -/

/-! ### Quantisation (R27, R28) -/

section quantise

/-- Six indices on, the step is twice as large (R27, Table 2-4). -/
theorem quantiserStep_add_six (q : Nat) : quantiserStep (q + 6) = 2 * quantiserStep q := by
  simp only [quantiserStep, Nat.add_mod_right, show (q + 6) / 6 = q / 6 + 1 by omega, pow_succ]
  ring

theorem limitLevel_bounds (x : Int) : -1023 ≤ limitLevel x ∧ limitLevel x ≤ 1023 := by
  unfold limitLevel
  omega

variable {c : Int} {n : Nat}

/-- A level within the limits keeps its magnitude and the sign of its coefficient. -/
theorem limitLevel_sign (small : n ≤ 1023) (zero : c = 0 → n = 0) :
    (limitLevel (c.sign * n)).natAbs = n ∧ 0 ≤ c * limitLevel (c.sign * n) := by
  rcases lt_trichotomy c 0 with neg | rfl | pos
  · have level : limitLevel (c.sign * n) = -n := by
      rw [Int.sign_eq_neg_one_of_neg neg, limitLevel]
      omega
    rw [level]
    exact ⟨by omega, by nlinarith⟩
  · simp [zero, limitLevel]
  · have level : limitLevel (c.sign * n) = n := by
      rw [Int.sign_eq_one_of_pos pos, limitLevel]
      omega
    rw [level]
    exact ⟨by omega, by positivity⟩

/-- A level beyond the limits is cut to 1023 with the sign of its coefficient. -/
theorem limitLevel_sign_of_large (large : 1023 ≤ n) (nonzero : c ≠ 0) :
    (limitLevel (c.sign * n)).natAbs = 1023 ∧ 0 ≤ c * limitLevel (c.sign * n) := by
  rcases lt_or_gt_of_ne nonzero with neg | pos
  · have level : limitLevel (c.sign * n) = -1023 := by
      rw [Int.sign_eq_neg_one_of_neg neg, limitLevel]
      omega
    rw [level]
    exact ⟨rfl, by omega⟩
  · have level : limitLevel (c.sign * n) = 1023 := by
      rw [Int.sign_eq_one_of_pos pos, limitLevel]
      omega
    rw [level]
    exact ⟨rfl, by omega⟩

/-- A quotient rounded by adding `step` before dividing by `m` steps: what it is within. -/
theorem div_steps {m step x : Nat} (hm : 0 < m) (hs : 0 < step) :
    m * step * ((m * x + step) / (m * step)) ≤ m * x + step
      ∧ m * x + step < m * step * ((m * x + step) / (m * step) + 1) := by
  have positive : 0 < m * step := Nat.mul_pos hm hs
  exact ⟨Nat.mul_div_le _ _, Nat.lt_mul_div_succ _ positive⟩

/-- The levels of both kinds are limited (R27). -/
theorem level_within {m step : Nat} (hm : 1 < m) (hs : 0 < step) (h : m * c.natAbs + step < m * step * 1024) :
    let level := limitLevel (c.sign * ((m * c.natAbs + step) / (m * step) : Nat))
    m * step * level.natAbs ≤ m * c.natAbs + step ∧ m * c.natAbs + step < m * step * (level.natAbs + 1)
      ∧ 0 ≤ c * level := by
  have positive : 0 < m * step := Nat.mul_pos (by omega) hs
  have small : (m * c.natAbs + step) / (m * step) < 1024 := (Nat.div_lt_iff_lt_mul positive).mpr (by linarith)
  have zero : c = 0 → (m * c.natAbs + step) / (m * step) = 0 := by
    rintro rfl
    exact Nat.div_eq_of_lt (by simp; nlinarith)
  obtain ⟨same, sign⟩ := limitLevel_sign (Nat.le_of_lt_succ small) zero
  obtain ⟨low, high⟩ := div_steps (x := c.natAbs) (show 0 < m by omega) hs
  refine ⟨?_, ?_, sign⟩
  · rw [same]
    exact low
  · rw [same]
    exact high

end quantise

/-! ### The transform (R26) -/

section transform

/-- The rows of a block of 16 samples. -/
def blockOf (block : Fin 4 → Fin 4 → Pixel) : List (List Pixel) := List.ofFn fun y => List.ofFn (block y)

/-- The signs of the transform's basis (R26). -/
def transformSign (i x : Nat) : Int :=
  (([[1, 1, 1, 1], [1, 1, -1, -1], [1, -1, -1, 1], [1, -1, 1, -1]] : List (List Int))[i]?.getD [])[x]?.getD 0

/-- A coefficient: the sum of the centred samples under the signs of its row and its column. -/
def blockCoefficient (block : Fin 4 → Fin 4 → Pixel) (i j : Nat) : Int :=
  ((List.finRange 4).map fun y => ((List.finRange 4).map fun x =>
    transformSign i y.val * transformSign j x.val * (((block y x).toNat : Int) - 512)).sum).sum

theorem coefficients_blockOf (block : Fin 4 → Fin 4 → Pixel) : coefficients (blockOf block) =
    (List.range 4).map fun i => (List.range 4).map fun j => blockCoefficient block i j := by
  have rows : blockOf block = [[block 0 0, block 0 1, block 0 2, block 0 3], [block 1 0, block 1 1, block 1 2, block 1 3],
      [block 2 0, block 2 1, block 2 2, block 2 3], [block 3 0, block 3 1, block 3 2, block 3 3]] := rfl
  have range : List.range 4 = [0, 1, 2, 3] := rfl
  have finRange : List.finRange 4 = [0, 1, 2, 3] := rfl
  rw [rows, range]
  simp only [coefficients, List.map, transform4, transpose4, blockCoefficient, finRange, List.sum_cons, List.sum_nil]
  simp [transformSign]
  refine ⟨⟨?_, ?_, ?_, ?_⟩, ⟨?_, ?_, ?_, ?_⟩, ⟨?_, ?_, ?_, ?_⟩, ?_, ?_, ?_, ?_⟩
  all_goals ring

end transform

end Sys2Proof.Machine

namespace Sys2Proof.Machine

/-! ### Levels, predictors and tokens (R27 to R31) -/

section levels

theorem dcLevel_bounds (step : Nat) (c : Int) : -1023 ≤ dcLevel step c ∧ dcLevel step c ≤ 1023 := limitLevel_bounds _

theorem acLevel_bounds (step : Nat) (c : Int) : -1023 ≤ acLevel step c ∧ acLevel step c ≤ 1023 := limitLevel_bounds _

/-- A DC level below the limit is the nearest quotient. -/
theorem dcLevel_within {step : Nat} {c : Int} (positive : 0 < step) (h : 2 * c.natAbs < 2047 * step) :
    2 * step * (dcLevel step c).natAbs ≤ 2 * c.natAbs + step
      ∧ 2 * c.natAbs + step < 2 * step * ((dcLevel step c).natAbs + 1) ∧ 0 ≤ c * dcLevel step c :=
  level_within (by omega) positive (by omega)

theorem dcLevel_limit {step : Nat} {c : Int} (positive : 0 < step) (h : 2047 * step ≤ 2 * c.natAbs) :
    (dcLevel step c).natAbs = 1023 ∧ 0 ≤ c * dcLevel step c := by
  refine limitLevel_sign_of_large ?_ (by omega)
  rw [Nat.le_div_iff_mul_le (by omega)]
  omega

/-- An AC level below the limit rounds up from two thirds of a step on. -/
theorem acLevel_within {step : Nat} {c : Int} (positive : 0 < step) (h : 3 * c.natAbs < 3071 * step) :
    3 * step * (acLevel step c).natAbs ≤ 3 * c.natAbs + step
      ∧ 3 * c.natAbs + step < 3 * step * ((acLevel step c).natAbs + 1) ∧ 0 ≤ c * acLevel step c :=
  level_within (by omega) positive (by omega)

theorem dcDifference_rule (predictor level : Int) :
    -1023 ≤ dcDifference predictor level ∧ dcDifference predictor level ≤ 1023
      ∧ (-1023 ≤ level - predictor → level - predictor ≤ 1023 → dcDifference predictor level = level - predictor)
      ∧ (1023 < level - predictor → dcDifference predictor level = 1023)
      ∧ (level - predictor < -1023 → dcDifference predictor level = -1023) := by
  unfold dcDifference limitLevel
  refine ⟨?_, ?_, ?_, ?_, ?_⟩ <;> omega

theorem Predictors.get_put (p : Predictors) (x : Int) (k other : Component) :
    (p.put x k).get other = if other = k then x else p.get other := by
  cases k <;> cases other <;> rfl

end levels

section tokens

theorem length_bitsOf (count n : Nat) : (bitsOf count n).length = count := by simp [bitsOf]

/-- A bit of a number is a digit of its quotient. -/
theorem bitsOf_eq (count n : Nat) :
    bitsOf count n = (List.range count).map fun i => decide (n / 2 ^ (count - 1 - i) % 2 = 1) := by
  simp only [bitsOf, Nat.testBit_eq_decide_div_mod_eq]

theorem coefficientToken_eq (run : Nat) {level : Int} (nonzero : level ≠ 0) :
    ∃ k, 2 ^ k ≤ level.natAbs ∧ level.natAbs < 2 ^ (k + 1)
      ∧ coefficientToken run level = true :: ((List.range 4).map fun i => decide (run / 2 ^ (3 - i) % 2 = 1))
          ++ List.replicate k true ++ false :: ((List.range k).map fun i => decide (level.natAbs / 2 ^ (k - 1 - i) % 2 = 1))
          ++ [decide (level < 0)] := by
  refine ⟨level.natAbs.log2, Nat.log2_self_le (by omega), Nat.lt_log2_self, ?_⟩
  simp only [coefficientToken, bitsOf_eq]

theorem skipToken_of_pos {count : Nat} (h : 1 ≤ count) :
    skipToken count = false :: true :: (List.range 10).map fun i => decide ((count - 1) / 2 ^ (9 - i) % 2 = 1) := by
  rw [skipToken, if_neg (by omega), bitsOf_eq]

theorem length_skipToken_le (count : Nat) : (skipToken count).length ≤ 12 := by
  unfold skipToken
  split <;> simp [length_bitsOf]

theorem blockTokens_zeros (run zeros : Nat) : blockTokens run (List.replicate zeros 0) = [false, false] := by
  induction zeros generalizing run with
  | zero => rfl
  | succ zeros ih => simpa [List.replicate_succ, blockTokens] using ih (run + 1)

/-- Zeros before a value lengthen its run. -/
theorem blockTokens_zeros_append (run zeros : Nat) {level : Int} (rest : List Int) (nonzero : level ≠ 0) :
    blockTokens run (List.replicate zeros 0 ++ level :: rest)
      = coefficientToken (run + zeros) level ++ blockTokens 0 rest := by
  induction zeros generalizing run with
  | zero => simp [blockTokens, nonzero]
  | succ zeros ih =>
    have shifted := ih (run + 1)
    rw [Nat.add_right_comm, Nat.add_assoc] at shifted
    simpa [List.replicate_succ, blockTokens] using shifted

end tokens

end Sys2Proof.Machine

namespace Sys2Proof.Machine

/-! ### The blocks of a slice (R28 to R31) -/

section scan

/-- The scan visits each raster position once. -/
theorem scanOrder_perm : scanOrder.Perm (List.range 16) := by decide

/-- The values of a block in scan order are its values. -/
theorem scanned_perm {values : List Int} (length : values.length = 16) :
    (scanOrder.map fun i => values[i]?.getD 0).Perm values := by
  have raster : (List.range 16).map (fun i => values[i]?.getD 0) = values := by
    apply List.ext_getElem
    · simp [length]
    · intro i _ bound
      simp [List.getElem?_eq_getElem bound]
  rw [← raster]
  simpa only [raster] using scanOrder_perm.map fun i => values[i]?.getD 0

/-- A block is empty when no value of its scan differs from 0. -/
theorem all_zero_iff_scanned {values : List Int} (length : values.length = 16) :
    values.all (· == 0) = true ↔ ∀ v ∈ scanOrder.map fun i => values[i]?.getD 0, v = 0 := by
  simp only [(scanned_perm length).mem_iff, List.all_eq_true, beq_iff_eq]

end scan

section blocks

/-- The level of a block at a row and a column (R27). -/
def levelAt (q : Nat) (block : List (List Pixel)) (i j : Nat) : Int :=
  let c := ((coefficients block)[i]?.getD [])[j]?.getD 0
  if i = 0 ∧ j = 0 then dcLevel (quantiserStep q) c else acLevel (quantiserStep q) c

/-- The raster positions after the first, as rows and columns. -/
def acPositions : List (Nat × Nat) :=
  [(0, 1), (0, 2), (0, 3), (1, 0), (1, 1), (1, 2), (1, 3), (2, 0), (2, 1), (2, 2), (2, 3), (3, 0), (3, 1), (3, 2), (3, 3)]

/-- The scan as rows and columns (R29). -/
def scanPositions : List (Nat × Nat) :=
  [(0, 0), (0, 1), (1, 0), (2, 0), (1, 1), (0, 2), (0, 3), (1, 2), (2, 1), (3, 0),
    (3, 1), (2, 2), (1, 3), (2, 3), (3, 2), (3, 3)]

variable (q : Nat) (pixel : Fin 4 → Fin 4 → Pixel)

theorem blockLevels_blockOf : blockLevels q (blockOf pixel) =
    levelAt q (blockOf pixel) 0 0 :: acPositions.map fun at_ => levelAt q (blockOf pixel) at_.1 at_.2 := by
  simp only [blockLevels, levelAt, coefficients_blockOf]
  rfl

/-- The values of a block in scan order: the difference of its DC level, then its other levels. -/
theorem scanned_values (difference : Int) (level : Nat → Nat → Int) :
    (scanOrder.map fun i => (difference :: acPositions.map fun at_ => level at_.1 at_.2)[i]?.getD 0) =
      scanPositions.map fun at_ => if at_ = (0, 0) then difference else level at_.1 at_.2 := rfl

theorem sliceBits_blockOf (p : Predictors) (empty : Nat) (k : Component) (rest : List (Component × List (List Pixel))) :
    let level := levelAt q (blockOf pixel)
    let difference := dcDifference (p.get k) (level 0 0)
    let values := scanPositions.map fun at_ => if at_ = (0, 0) then difference else level at_.1 at_.2
    let p' := p.put (p.get k + difference) k
    sliceBits q p empty ((k, blockOf pixel) :: rest) =
      if ∀ v ∈ values, v = 0 then sliceBits q p' (empty + 1) rest
      else skipToken empty ++ blockTokens 0 values ++ sliceBits q p' 0 rest := by
  intro level difference values p'
  have scanned := scanned_values difference level
  have empties := all_zero_iff_scanned (values := difference :: acPositions.map fun at_ => level at_.1 at_.2) rfl
  rw [scanned] at empties
  simp only [sliceBits, blockLevels_blockOf]
  exact if_congr empties rfl (by rw [scanned])

end blocks

end Sys2Proof.Machine

namespace Sys2Proof.Machine

/-! ### The bytes of a slice (R32) -/

section pack

/-- The bits of a number spelled from its most significant bit on. -/
theorem testBit_foldl_bits (bits : List Bool) (n i : Nat) :
    (bits.foldl (fun n b => 2 * n + b.toNat) n).testBit i =
      if i < bits.length then bits[bits.length - 1 - i]?.getD false else n.testBit (i - bits.length) := by
  induction bits generalizing n with
  | nil => rfl
  | cons b bits ih =>
    rw [List.foldl_cons, ih, ← Nat.bit_val, List.length_cons]
    rcases Nat.lt_trichotomy i bits.length with below | rfl | above
    · rw [if_pos below, if_pos (by omega), show bits.length + 1 - 1 - i = bits.length - 1 - i + 1 by omega]
      rfl
    · simp
    · rw [if_neg (by omega), if_neg (by omega), show i - bits.length = i - (bits.length + 1) + 1 by omega,
        Nat.testBit_bit_succ]

theorem getLsbD_byteOfBits {bits : List Bool} (length : bits.length = 8) {j : Nat} (h : j < 8) :
    (packBits.byteOfBits bits).getLsbD (7 - j) = bits[j]?.getD false := by
  rw [packBits.byteOfBits, BitVec.getLsbD_ofNat, testBit_foldl_bits, length, if_pos (by omega),
    show 8 - 1 - (7 - j) = j by omega]
  simp [show 7 - j < 8 by omega]

/-- The eight bits from a place on, with zeros after the last. -/
def octet (bits : List Bool) (n : Nat) : List Bool := (List.range 8).map fun j => bits[8 * n + j]?.getD false

theorem octet_cons (b7 b6 b5 b4 b3 b2 b1 b0 : Bool) (bits : List Bool) (n : Nat) :
    octet (b7 :: b6 :: b5 :: b4 :: b3 :: b2 :: b1 :: b0 :: bits) (n + 1) = octet bits n := by
  have shift : ∀ j, 8 * (n + 1) + j = 8 * n + j + 8 := by omega
  simp only [octet, shift]
  rfl

theorem octet_of_short {bits : List Bool} (short : bits.length ≤ 8) :
    octet bits 0 = bits ++ List.replicate (8 - bits.length) false := by
  apply List.ext_getElem
  · simp [octet, short]
  · intro j _ _
    by_cases h : j < bits.length <;> simp [octet, h, List.getElem_append]

theorem packBits_eq (bits : List Bool) :
    packBits bits = (List.range ((bits.length + 7) / 8)).map fun n => packBits.byteOfBits (octet bits n) := by
  induction bits using packBits.induct with
  | case1 b7 b6 b5 b4 b3 b2 b1 b0 rest ih =>
    rw [packBits, ih]
    simp only [List.length_cons, show (rest.length + 1 + 1 + 1 + 1 + 1 + 1 + 1 + 1 + 7) / 8 = (rest.length + 7) / 8 + 1 by omega,
      List.range_succ_eq_map, List.map_cons, List.map_map, Function.comp_def, Nat.succ_eq_add_one, octet_cons]
    rfl
  | case2 => rfl
  | case3 rest long nonempty =>
    have short : rest.length < 8 := by
      match rest, long with
      | [], _ | [_], _ | [_, _], _ | [_, _, _], _ | [_, _, _, _], _ | [_, _, _, _, _], _ | [_, _, _, _, _, _], _
      | [_, _, _, _, _, _, _], _ => simp
      | _ :: _ :: _ :: _ :: _ :: _ :: _ :: _ :: _, long => exact (long _ _ _ _ _ _ _ _ _ rfl).elim
    have positive : 0 < rest.length := List.length_pos_iff.mpr nonempty
    rw [packBits, show (rest.length + 7) / 8 = 1 by omega, ← octet_of_short short.le]
    · rfl
    · exact long
    · exact nonempty

theorem length_packBits (bits : List Bool) : (packBits bits).length = (bits.length + 7) / 8 := by simp [packBits_eq]

/-- A bit of a slice stands in its byte, from the most significant bit on. -/
theorem packBits_bit (bits : List Bool) {i : Nat} (h : i < 8 * ((bits.length + 7) / 8)) :
    ∃ byte, (packBits bits)[i / 8]? = some byte ∧ byte.getLsbD (7 - i % 8) = bits[i]?.getD false := by
  refine ⟨packBits.byteOfBits (octet bits (i / 8)), ?_, ?_⟩
  · simp [packBits_eq, List.getElem?_range (show i / 8 < (bits.length + 7) / 8 by omega)]
  · rw [getLsbD_byteOfBits (by simp [octet]) (Nat.mod_lt _ (by omega))]
    simp [octet, List.getElem?_range (Nat.mod_lt i (show 8 > 0 by omega)), Nat.div_add_mod]

end pack

end Sys2Proof.Machine

namespace Sys2Proof.Machine

/-! ### The blocks of a picture (R25) -/

section picture

/-- Runs of four, by their places. -/
theorem chunks4_eq {α : Type} (d : α) (n : Nat) (l : List α) (length : l.length = 4 * n) :
    chunks4 l = (List.range n).map fun k => (List.range 4).map fun i => l[4 * k + i]?.getD d := by
  induction n generalizing l with
  | zero =>
    obtain rfl := List.eq_nil_of_length_eq_zero length
    rfl
  | succ n ih =>
    match l, length with
    | a :: b :: c :: e :: rest, length =>
      have shift : ∀ k i, 4 * (k + 1) + i = 4 * k + i + 4 := by omega
      rw [chunks4, ih rest (by simpa [Nat.mul_add] using length)]
      simp only [List.range_succ_eq_map (n := n), List.map_cons, List.map_map, Function.comp_def, Nat.succ_eq_add_one, shift]
      rfl

theorem zipRows_map {ι : Type} (ks : List ι) (r0 r1 r2 r3 : ι → List Pixel) :
    planeBlocks.zipRows (ks.map r0) (ks.map r1) (ks.map r2) (ks.map r3) =
      ks.map fun k => [r0 k, r1 k, r2 k, r3 k] := by
  induction ks with
  | nil => rfl
  | cons k ks ih => simp only [List.map_cons, planeBlocks.zipRows, ih]

/-- The 4×4 block of a plane at a line and a column. -/
def blockAt (plane : List (List Pixel)) (top left : Nat) : List (List Pixel) :=
  (List.range 4).map fun y => (List.range 4).map fun x => (plane[top + y]?.getD [])[left + x]?.getD 0

theorem planeBlocks_eq {plane : List (List Pixel)} {lines n : Nat} (size : planeHasSize plane lines (4 * n) = true)
    {top : Nat} (within : top + 4 ≤ lines) :
    planeBlocks ((List.range 4).map fun y => plane[top + y]?.getD []) =
      (List.range n).map fun k => blockAt plane top (4 * k) := by
  simp only [planeHasSize, Bool.and_eq_true, beq_iff_eq, List.all_eq_true] at size
  obtain ⟨height, width⟩ := size
  have row : ∀ y < 4, (plane[top + y]?.getD []).length = 4 * n := by
    intro y below
    have inside : top + y < plane.length := by omega
    rw [List.getElem?_eq_getElem inside]
    exact width _ (List.getElem_mem inside)
  have runs : ∀ y < 4, chunks4 (plane[top + y]?.getD []) = (List.range n).map fun k => (List.range 4).map fun x =>
      (plane[top + y]?.getD [])[4 * k + x]?.getD 0 := fun y below => chunks4_eq 0 n _ (row y below)
  calc planeBlocks ((List.range 4).map fun y => plane[top + y]?.getD [])
      = planeBlocks.zipRows (chunks4 (plane[top + 0]?.getD [])) (chunks4 (plane[top + 1]?.getD []))
          (chunks4 (plane[top + 2]?.getD [])) (chunks4 (plane[top + 3]?.getD [])) := rfl
    _ = (List.range n).map fun k => blockAt plane top (4 * k) := by
      rw [runs 0 (by omega), runs 1 (by omega), runs 2 (by omega), runs 3 (by omega), zipRows_map]
      rfl

theorem groupBlocks_eq (n : Nat) (luma cb cr : Nat → List (List Pixel)) :
    groupBlocks ((List.range (2 * n)).map luma) ((List.range n).map cb) ((List.range n).map cr) =
      (List.range n).flatMap fun g =>
        [(.luma, luma (2 * g)), (.luma, luma (2 * g + 1)), (.cb, cb g), (.cr, cr g)] := by
  induction n generalizing luma cb cr with
  | zero => rfl
  | succ n ih =>
    have shift : ∀ g, 2 * (g + 1) = 2 * g + 1 + 1 := by omega
    simp only [List.range_succ_eq_map, shift, List.map_cons, List.map_map, List.flatMap_cons, List.flatMap_map, groupBlocks,
      Function.comp_def, Nat.succ_eq_add_one, ih, List.cons_append, List.nil_append]

/-- The blocks of a slice of a picture, group by group. -/
def sliceBlocks (p : Picture) (slice : Nat) : List (Component × List (List Pixel)) :=
  (List.range (p.format.columns / 8)).flatMap fun g =>
    [(.luma, blockAt p.luma (4 * slice) (8 * g)), (.luma, blockAt p.luma (4 * slice) (8 * g + 4)),
      (.cb, blockAt p.cb (4 * slice) (4 * g)), (.cr, blockAt p.cr (4 * slice) (4 * g))]

theorem lines_eq_slices (f : Format) : f.lines = 4 * (f.lines / 4) := by cases f <;> rfl

theorem columns_eq_groups (f : Format) : f.columns = 8 * (f.columns / 8) := by cases f <;> rfl

theorem length_sliceBlocks (p : Picture) (slice : Nat) : (sliceBlocks p slice).length = p.format.columns / 2 := by
  have columns := columns_eq_groups p.format
  simp only [sliceBlocks, List.length_flatMap, List.length_cons, List.length_nil, List.map_const', List.sum_replicate,
    List.length_range, smul_eq_mul]
  omega

/-- A picture of its format's size is cut into slices of four lines, and these into groups. -/
theorem pictureSlices_eq {p : Picture} (sized : p.wellFormed = true) :
    pictureSlices p = (List.range (p.format.lines / 4)).map (sliceBlocks p) := by
  simp only [Picture.wellFormed, Bool.and_eq_true] at sized
  obtain ⟨⟨luma, cb⟩, cr⟩ := sized
  have lines := lines_eq_slices p.format
  have columns := columns_eq_groups p.format
  have runs : ∀ {plane : List (List Pixel)} {width : Nat}, planeHasSize plane p.format.lines width = true →
      chunks4 plane = (List.range (p.format.lines / 4)).map fun k => (List.range 4).map fun i => plane[4 * k + i]?.getD [] := by
    intro plane width size
    simp only [planeHasSize, Bool.and_eq_true, beq_iff_eq] at size
    obtain ⟨height, -⟩ := size
    exact chunks4_eq [] _ _ (height.trans lines)
  rw [pictureSlices, runs luma, runs cb, runs cr, List.zip_map', List.zip_map', List.map_map]
  apply List.map_congr_left
  intro slice inside
  have within : 4 * slice + 4 ≤ p.format.lines := by
    rw [List.mem_range] at inside
    omega
  rw [columns, show 8 * (p.format.columns / 8) = 4 * (2 * (p.format.columns / 8)) by omega] at luma
  rw [columns, show 8 * (p.format.columns / 8) / 2 = 4 * (p.format.columns / 8) by omega] at cb cr
  simp only [Function.comp_def]
  rw [planeBlocks_eq luma within, planeBlocks_eq cb within, planeBlocks_eq cr within, groupBlocks_eq, sliceBlocks]
  simp only [show ∀ g, 4 * (2 * g) = 8 * g by omega, show ∀ g, 4 * (2 * g + 1) = 8 * g + 4 by omega]

end picture

end Sys2Proof.Machine

namespace Sys2Proof.Machine

/-! ### The bytes of a picture (R32, R33, R60) -/

section coded

theorem length_sliceBytes (number q : Nat) (cut : Bool) (bits : List Bool) :
    (sliceBytes number q cut bits).length = 4 + (bits.length + 7) / 8 := by
  simp [sliceBytes, length_packBits]

/-- A slice without tokens but its SKIP token has at most six bytes. -/
theorem length_emptySlice_le (number q count : Nat) : (sliceBytes number q true (skipToken count)).length ≤ 6 := by
  have bits := length_skipToken_le count
  rw [length_sliceBytes]
  omega

variable (slices byteBudget qMax : Nat)

theorem codeSlices_cons (done bytes q : Nat) (cut : Bool) (blocks : List (Component × List (List Pixel)))
    (rest : List (List (Component × List (List Pixel)))) :
    let empty := sliceBytes done q true (skipToken blocks.length)
    let coded := if cut then empty else sliceBytes done q false (sliceBits q ⟨0, 0, 0⟩ 0 blocks)
    let exceeds := 262144 < bytes + coded.length + 6 * rest.length
    let slice := if exceeds then empty else coded
    let tail := codeSlices slices byteBudget qMax (done + 1) (bytes + slice.length)
      (guardIndex slices (done + 1) (bytes + coded.length) byteBudget qMax q) (cut || decide exceeds) rest
    codeSlices slices byteBudget qMax done bytes q cut (blocks :: rest) =
      (slice ++ tail.1, if exceeds ∧ cut = false then some done else tail.2) := by
  simp only [codeSlices, pictureLimit, gt_iff_lt, decide_eq_true_eq, Bool.and_eq_true, Bool.not_eq_true']

/-- Each slice has its header, and the picture keeps six bytes for each slice to come (R33). -/
theorem length_codeSlices (done bytes q : Nat) (cut : Bool) (rest : List (List (Component × List (List Pixel))))
    (room : bytes + 6 * rest.length ≤ 262144) :
    4 * rest.length ≤ (codeSlices slices byteBudget qMax done bytes q cut rest).1.length
      ∧ bytes + (codeSlices slices byteBudget qMax done bytes q cut rest).1.length ≤ 262144 := by
  induction rest generalizing done bytes q cut with
  | nil => exact ⟨by simp [codeSlices], by simpa [codeSlices] using room⟩
  | cons blocks rest ih =>
    rw [List.length_cons] at room ⊢
    have small := length_emptySlice_le done q blocks.length
    have header : 4 ≤ (sliceBytes done q true (skipToken blocks.length)).length := by simp [length_sliceBytes]
    have header' : 4 ≤ (sliceBytes done q false (sliceBits q ⟨0, 0, 0⟩ 0 blocks)).length := by simp [length_sliceBytes]
    rw [codeSlices_cons, List.length_append]
    generalize sliceBytes done q true (skipToken blocks.length) = empty at *
    generalize coded_eq : (if cut then empty else sliceBytes done q false (sliceBits q ⟨0, 0, 0⟩ 0 blocks)) = coded
    have header'' : 4 ≤ coded.length := by
      rw [← coded_eq]
      split <;> assumption
    generalize guardIndex slices (done + 1) (bytes + coded.length) byteBudget qMax q = next
    generalize (cut || decide (262144 < bytes + coded.length + 6 * rest.length)) = cut'
    by_cases above : 262144 < bytes + coded.length + 6 * rest.length
    · simp only [if_pos above]
      have later := ih (done + 1) (bytes + empty.length) next cut' (by omega)
      omega
    · simp only [if_neg above]
      have later := ih (done + 1) (bytes + coded.length) next cut' (by omega)
      omega

theorem guardIndex_rule (slices done bytes byteBudget qMax q : Nat) :
    let next := guardIndex slices done bytes byteBudget qMax q
    (next = q ∨ next = q + 1)
      ∧ (next = q + 1 ↔ done % 16 = 0 ∧ 3 * byteBudget * done < 2 * slices * bytes ∧ q < qMax) := by
  intro next
  by_cases raised : done % 16 = 0 ∧ 3 * byteBudget * done < 2 * slices * bytes ∧ q < qMax
  · obtain ⟨every, above, below⟩ := raised
    have up : next = q + 1 := by simp only [next, guardIndex, if_pos (And.intro every above), if_pos below]
    exact ⟨.inr up, fun _ => ⟨every, above, below⟩, fun _ => up⟩
  · have same : next = q := by
      simp only [next, guardIndex]
      split
      · next check =>
        obtain ⟨every, above⟩ := check
        exact if_neg fun below => raised ⟨every, above, below⟩
      · rfl
    exact ⟨.inl same, by omega, fun up => absurd up raised⟩

end coded

section codePicture

variable (c : Fin 6) (sequence : Seq) (qMax : Nat) (f : InFlight)

/-- The header of the coded picture of a picture in flight. -/
def headerBytes (cut : Bool) : List Byte :=
  (Config.pictureHeader ⟨f.kind, f.picture.map (fun picture => picture.format), f.qStart, cut, c, sequence,
    f.timecode⟩).toList

theorem length_headerBytes (cut : Bool) : (headerBytes c sequence f cut).length = 8 := by simp [headerBytes]

theorem codePicture_of_not_coded (kind : f.kind ≠ .coded) :
    codePicture c sequence qMax f = (headerBytes c sequence f false, none) := by
  unfold codePicture
  split
  · next coded _ => exact absurd coded kind
  · rfl

theorem codePicture_of_coded {p : Picture} (kind : f.kind = .coded) (picture : f.picture = some p)
    (sized : p.wellFormed = true) :
    let body := codeSlices (p.format.lines / 4) f.byteBudget qMax 0 8 f.qStart false (pictureSlices p)
    codePicture c sequence qMax f = (headerBytes c sequence f body.2.isSome ++ body.1, body.2) := by
  have count : (pictureSlices p).length = p.format.lines / 4 := by simp [pictureSlices_eq sized]
  simp only [codePicture, headerBytes, kind, picture, count]

/-- A coded picture has at least the headers and at most 262,144 bytes (R33). -/
theorem length_codePicture {p : Picture} (kind : f.kind = .coded) (picture : f.picture = some p)
    (sized : p.wellFormed = true) :
    8 + 4 * (p.format.lines / 4) ≤ (codePicture c sequence qMax f).1.length
      ∧ (codePicture c sequence qMax f).1.length ≤ 262144 := by
  have count : (pictureSlices p).length = p.format.lines / 4 := by simp [pictureSlices_eq sized]
  have lines : p.format.lines ≤ 1080 := by cases p.format <;> decide
  have bounds := length_codeSlices (p.format.lines / 4) f.byteBudget qMax 0 8 f.qStart false (pictureSlices p) (by omega)
  rw [codePicture_of_coded c sequence qMax f kind picture sized, List.length_append, length_headerBytes]
  omega

end codePicture

/-! ### The next q (R59, Table 3-5) -/

section nextIndex

variable {fullness bufferSize : Nat} (qMin qMax qStart : Nat)

/-- The sixteenths of the buffer from `first` to `last` change q alike. -/
theorem nextIndex_of_bands {first last : Nat} {change : Int} (positive : 0 < bufferSize)
    (same : ∀ band, first ≤ band → band < last → bandChange band = change)
    (low : first * bufferSize ≤ 16 * fullness) (high : 16 * fullness < last * bufferSize) :
    nextIndex fullness bufferSize qMin qMax qStart = clampIndex qMin qMax (qStart + change) := by
  rw [nextIndex, if_neg (by omega), same]
  · exact (Nat.le_div_iff_mul_le positive).mpr low
  · exact (Nat.div_lt_iff_lt_mul positive).mpr high

theorem nextIndex_rule (bounds : qMin ≤ qMax) :
    let clamped := clampIndex qMin qMax
    let next := nextIndex fullness bufferSize qMin qMax qStart
    (bufferSize = 0 ∨ 16 * fullness < bufferSize → next = clamped (qStart - 2))
    ∧ (0 < bufferSize → bufferSize ≤ 16 * fullness → 16 * fullness < 4 * bufferSize → next = clamped (qStart - 1))
    ∧ (0 < bufferSize → 4 * bufferSize ≤ 16 * fullness → 16 * fullness < 8 * bufferSize → next = clamped qStart)
    ∧ (0 < bufferSize → 8 * bufferSize ≤ 16 * fullness → 16 * fullness < 12 * bufferSize →
        next = clamped (qStart + 1))
    ∧ (0 < bufferSize → 12 * bufferSize ≤ 16 * fullness → next = clamped (qStart + 3))
    ∧ qMin ≤ next ∧ next ≤ qMax := by
  simp only [Int.sub_eq_add_neg]
  refine ⟨?_, ?_, ?_, ?_, ?_, nextIndex_low _ _ _ _ _, nextIndex_high bounds _ _ _⟩
  · rintro (rfl | low)
    · rfl
    · exact nextIndex_of_bands (first := 0) (last := 1) (change := -2) qMin qMax qStart (Nat.zero_lt_of_lt low)
        (by grind [bandChange]) (by omega) (by omega)
  · intro positive low high
    exact nextIndex_of_bands (first := 1) (last := 4) (change := -1) qMin qMax qStart positive
      (by grind [bandChange]) (by omega) high
  · intro positive low high
    have even := nextIndex_of_bands (first := 4) (last := 8) (change := 0) qMin qMax qStart positive
      (by grind [bandChange]) low high
    rwa [Int.add_zero] at even
  · intro positive low high
    exact nextIndex_of_bands (first := 8) (last := 12) (change := 1) qMin qMax qStart positive
      (by grind [bandChange]) low high
  · intro positive low
    have high : 16 * fullness < (16 * fullness / bufferSize + 1) * bufferSize := by
      rw [mul_comm (_ + 1)]
      exact Nat.lt_mul_div_succ _ positive
    exact nextIndex_of_bands (first := 12) (change := 3) qMin qMax qStart positive (by grind [bandChange]) low high

end nextIndex

/-- Settles O23: each step of the coding arithmetic by its own rule above. -/
theorem theNextQuantiserFollowsTheFullness : Obligations.TheNextQuantiserFollowsTheFullness := by
  unfold Obligations.TheNextQuantiserFollowsTheFullness
  refine ⟨⟨rfl, quantiserStep_add_six⟩, coefficients_blockOf, ?_, dcDifference_rule, Predictors.get_put, ?_,
    fun _ _ _ => ⟨rfl, rfl⟩, fun run zeros => ⟨blockTokens_zeros run zeros, fun _ rest => blockTokens_zeros_append run zeros rest⟩,
    codeSlices_cons, fun run _ => coefficientToken_eq run, fun _ => skipToken_of_pos,
    fun bits => ⟨length_packBits bits, fun _ => packBits_bit bits⟩, ?_, fun _ _ _ _ _ _ _ => rfl, fun _ _ _ _ => rfl,
    guardIndex_rule, ?_, fun _ _ qMin qMax qStart _ => nextIndex_rule qMin qMax qStart⟩
  case refine_1 =>
    intro step c positive
    obtain ⟨dcLow, dcHigh⟩ := dcLevel_bounds step c
    exact ⟨⟨dcLow, dcHigh, acLevel_bounds step c⟩, dcLevel_within positive, dcLevel_limit positive, acLevel_within positive⟩
  case refine_2 =>
    rintro q block ⟨pixel, rfl⟩
    exact sliceBits_blockOf q pixel
  case refine_3 =>
    intro p sized
    rw [pictureSlices_eq sized]
    refine ⟨by simp, fun blocks h => ?_, rfl⟩
    obtain ⟨slice, -, rfl⟩ := List.mem_map.mp h
    exact length_sliceBlocks p slice
  case refine_4 =>
    intro c sequence qMax f
    refine ⟨fun kind => ?_, fun p kind picture sized => ⟨codePicture_of_coded c sequence qMax f kind picture sized,
      length_codePicture c sequence qMax f kind picture sized⟩⟩
    have plain := codePicture_of_not_coded c sequence qMax f kind
    exact ⟨plain, by rw [plain]; exact length_headerBytes c sequence f false⟩

end Sys2Proof.Machine

namespace Sys2Proof.Machine

/-! ## What reclaim leaves of the segments (04, R74, R76, R77) -/

/-! ### Freeing a segment -/

section free

variable (id : Nat) (s : State)

theorem releasePages_segments (bad pages : List Nat) :
    (releasePages bad pages s).store.segments = s.store.segments
      ∧ (releasePages bad pages s).store.completion = s.store.completion := by
  induction pages generalizing s with
  | nil => exact ⟨rfl, rfl⟩
  | cons page rest ih =>
    rw [releasePages]
    split
    · simpa using ih (raise (.pageRetired page .reclaim) (s.modStore _))
    · exact ih (s.modStore _)

theorem freeSegment_segments : (freeSegment id s).store.segments.Sublist s.store.segments := by
  unfold freeSegment
  split
  · exact .refl _
  · simp only [State.modStore_store, State.modReads_store, releasePages_segments]
    exact List.filter_sublist

theorem freeSegment_completion : (freeSegment id s).store.completion.Sublist s.store.completion := by
  unfold freeSegment
  split
  · exact .refl _
  · simp only [State.modStore_store, State.modReads_store, releasePages_segments]
    exact List.filter_sublist

variable {id s}

/-- What reclaim frees first is complete. -/
theorem firstUnpinned_complete (h : s.firstUnpinned = some id) : id ∈ s.store.completion := List.mem_of_find?_eq_some h

/-- A segment that is pinned, or not complete, is not what reclaim frees. -/
def Spared (id : Nat) (s : State) : Prop :=
  id ∉ s.store.completion ∨ ∃ g, s.segment? id = some g ∧ 0 < g.pinCount

theorem Spared.ne_firstUnpinned {other : Nat} (spared : Spared id s) (h : s.firstUnpinned = some other) : id ≠ other := by
  rintro rfl
  rcases spared with incomplete | ⟨g, found, pinned⟩
  · exact incomplete (firstUnpinned_complete h)
  · rw [firstUnpinned_pinCount h found] at pinned
    exact absurd pinned (by omega)

theorem Spared.freeSegment {other : Nat} (spared : Spared id s) (ne : id ≠ other) :
    Spared id (freeSegment other s) ∧ (Machine.freeSegment other s).segment? id = s.segment? id := by
  have kept := segment?_freeSegment_other s ne
  refine ⟨?_, kept⟩
  rcases spared with incomplete | ⟨g, found, pinned⟩
  · exact .inl fun h => incomplete ((freeSegment_completion other s).subset h)
  · exact .inr ⟨g, kept.trans found, pinned⟩

/-- Reclaim leaves the segments that it spares. -/
theorem Spared.reclaimLoop (n : Nat) (spared : Spared id s) : (reclaimLoop n s).segment? id = s.segment? id := by
  induction n generalizing s with
  | zero => rfl
  | succ n ih =>
    rw [Machine.reclaimLoop]
    split
    · split
      · next other first =>
        obtain ⟨still, kept⟩ := spared.freeSegment (spared.ne_firstUnpinned first)
        exact (ih still).trans kept
      · rfl
    · rfl

theorem Spared.reclaimPages (spared : Spared id s) : (reclaimPages s).segment? id = s.segment? id := spared.reclaimLoop _

/-- Reclaim opens no segment. -/
theorem reclaimLoop_of_none (n : Nat) (missing : s.segment? id = none) : (Machine.reclaimLoop n s).segment? id = none := by
  induction n generalizing s with
  | zero => exact missing
  | succ n ih =>
    rw [Machine.reclaimLoop]
    split
    · split
      · next other _ =>
        refine ih ?_
        by_cases same : id = other
        · subst same
          unfold Machine.freeSegment
          rw [missing]
          exact missing
        · rw [segment?_freeSegment_other s same]
          exact missing
      · exact missing
    · exact missing

/-- With the reserve at hand, reclaim does nothing. -/
theorem reclaimPages_of_reserve (h : 256 ≤ s.store.freePool.length) : reclaimPages s = s := by
  have loop : ∀ n, reclaimLoop n s = s := by
    rintro (_ | n)
    · rfl
    · rw [Machine.reclaimLoop, if_neg (by simpa [reserve] using h)]
  exact loop _

end free

/-! ### A change of one record -/

section record

variable {s : State} {id other : Nat} {f : Segment → Segment} {g : Segment}

theorem id_of_segment? (h : s.segment? id = some g) : g.id = id := by simpa using List.find?_some h

theorem segment?_congr {t : State} (h : t.store.segments = s.store.segments) : t.segment? id = s.segment? id := by
  unfold State.segment?
  rw [h]

theorem segment?_modSegment (hf : ∀ g, (f g).id = g.id) :
    (s.modSegment id f).segment? other = (s.segment? other).map fun g => if g.id = id then f g else g := by
  show (List.map _ s.store.segments).find? _ = (s.store.segments.find? _).map _
  induction s.store.segments with
  | nil => rfl
  | cons g rest ih =>
    have same : (if g.id = id then f g else g).id = g.id := by split <;> simp [hf]
    simp only [List.map_cons, List.find?_cons, same]
    split
    · rfl
    · exact ih

theorem segment?_modSegment_same (hf : ∀ g, (f g).id = g.id) (h : s.segment? id = some g) :
    (s.modSegment id f).segment? id = some (f g) := by
  rw [segment?_modSegment hf, h, Option.map_some, if_pos (id_of_segment? h)]

theorem segment?_modSegment_other (hf : ∀ g, (f g).id = g.id) (h : other ≠ id) :
    (s.modSegment id f).segment? other = s.segment? other := by
  rw [segment?_modSegment hf]
  cases found : s.segment? other with
  | none => rfl
  | some g => rw [Option.map_some, if_neg (by rw [id_of_segment? found]; exact h)]

end record

/-! ### Pins of a segment that is not complete -/

/-- Of the first state's segments some may be gone, and none that is not complete is; such a segment has changed at most its
pins. -/
structure SegmentsKept (s t : State) : Prop where
  listed : (t.store.segments.map fun g => (g.id, g.byteLength)).Sublist (s.store.segments.map fun g => (g.id, g.byteLength))
  completion : t.store.completion.Sublist s.store.completion
  incomplete : ∀ id g, s.segment? id = some g → id ∉ s.store.completion →
    ∃ pins, t.segment? id = some { g with pinCount := pins }

namespace SegmentsKept

variable {s t u : State}

theorem of_store (h : t.store = s.store) : SegmentsKept s t := by
  refine ⟨by rw [h], by rw [h], fun id g found _ => ⟨g.pinCount, ?_⟩⟩
  rw [State.segment?, h]
  exact found

theorem refl (s : State) : SegmentsKept s s := of_store rfl

theorem trans (h : SegmentsKept s t) (h' : SegmentsKept t u) : SegmentsKept s u := by
  refine ⟨h'.listed.trans h.listed, h'.completion.trans h.completion, fun id g found outside => ?_⟩
  obtain ⟨pins, here⟩ := h.incomplete id g found outside
  exact h'.incomplete id { g with pinCount := pins } here fun inside => outside (h.completion.subset inside)

/-- What a state with the same store keeps. -/
theorem after (h : SegmentsKept t u) (store : t.store = s.store) : SegmentsKept s u := (of_store store).trans h

theorem modClip (id : Nat) (f : Clip → Clip) (s : State) : SegmentsKept s (s.modClip id f) := of_store rfl

theorem foldl {ι : Type} {f : State → ι → State} (step : ∀ u a, SegmentsKept u (f u a)) (l : List ι) (u : State) :
    SegmentsKept u (l.foldl f u) :=
  foldl_related SegmentsKept refl trans step l u

theorem freeSegment {id : Nat} (complete : id ∈ s.store.completion) : SegmentsKept s (freeSegment id s) := by
  refine ⟨(freeSegment_segments id s).map _, freeSegment_completion id s, fun other g found outside => ⟨g.pinCount, ?_⟩⟩
  rw [segment?_freeSegment_other s fun (same : other = id) => outside (same ▸ complete)]
  exact found

theorem reclaimLoop (n : Nat) (s : State) : SegmentsKept s (reclaimLoop n s) := by
  induction n generalizing s with
  | zero => exact refl s
  | succ n ih =>
    rw [Machine.reclaimLoop]
    split
    · split
      · next first => exact (freeSegment (firstUnpinned_complete first)).trans (ih _)
      · exact refl s
    · exact refl s

/-- A change of the pins of one segment. -/
theorem pins (id : Nat) (f : Nat → Nat) (s : State) :
    SegmentsKept s (s.modSegment id fun g => { g with pinCount := f g.pinCount }) := by
  refine ⟨?_, .refl _, fun other g found _ => ?_⟩
  · have same : ∀ g : Segment, ((if g.id = id then { g with pinCount := f g.pinCount } else g).id,
        (if g.id = id then { g with pinCount := f g.pinCount } else g).byteLength) = (g.id, g.byteLength) := by
      intro g
      split <;> rfl
    simp [State.modSegment, Function.comp_def, same]
  · rw [segment?_modSegment (by intro _; rfl), found, Option.map_some]
    split
    · exact ⟨f g.pinCount, rfl⟩
    · exact ⟨g.pinCount, rfl⟩

theorem unpin (id : Nat) (s : State) : SegmentsKept s (unpin id s) := by
  have pinned := pins id (· - 1) s
  unfold Machine.unpin
  simp only
  repeat' split
  · exact pinned.trans (reclaimLoop _ _)
  · exact pinned
  · exact pinned

theorem unpinAll (ids : List Nat) (s : State) : SegmentsKept s (unpinAll ids s) := foldl (fun u id => unpin id u) ids s

end SegmentsKept

end Sys2Proof.Machine

namespace Sys2Proof.Machine

/-! ## What the clips and the service of an event leave of the store and of the channels -/

section kept

variable {s t : State}

theorem AllocOnly.store (h : AllocOnly s t) : t.store = s.store := by rw [id h]

theorem AllocOnly.coders (h : AllocOnly s t) : t.coders = s.coders := by rw [id h]

theorem SendOnly.store (h : SendOnly s t) : t.store = s.store := by rw [id h]

theorem SendOnly.coders (h : SendOnly s t) : t.coders = s.coders := by rw [id h]

theorem freeClip_segments (id : Nat) (s : State) : SegmentsKept s (freeClip id s) := by
  unfold freeClip
  split
  · exact .refl s
  · next c _ =>
    have pinned : SegmentsKept s (unpinAll c.range ((s.modClipLog fun log =>
        { log with clips := log.clips.filter fun d => d.id != id }).modReads (freeRead id))) :=
      (SegmentsKept.unpinAll _ _).after rfl
    exact pinned.trans (.of_store ((AllocOnly.store (updateDemand_only _)).trans (raise_store _ _)))

theorem completeClose_segments (id : Nat) (outSegment : Option Nat) (cause : CloseCause) (s : State) :
    SegmentsKept s (completeClose id outSegment cause s) := by
  unfold completeClose
  split
  · exact .refl s
  · refine .trans ?_ (.of_store (raise_store _ _))
    refine .trans ?_ (.modClip _ _ _)
    exact (SegmentsKept.unpinAll _ _).after rfl

theorem closeInSegment_segments (id segment : Nat) (cause : CloseCause) (s : State) :
    SegmentsKept s (closeInSegment id segment cause s) := by
  unfold closeInSegment
  repeat' split
  · exact completeClose_segments _ _ _ _
  · exact completeClose_segments _ _ _ _
  · exact .of_store rfl

theorem settleInStored_segments (segment : Nat) (s : State) (id : Nat) : SegmentsKept s (settleInStored segment s id) := by
  unfold settleInStored
  split
  · exact .refl s
  · exact (SegmentsKept.unpinAll _ _).after rfl

theorem settleOutStored_segments (segment : Nat) (s : State) (id : Nat) : SegmentsKept s (settleOutStored segment s id) := by
  unfold settleOutStored
  split
  · exact .refl s
  · exact closeInSegment_segments _ _ _ _

/-- What a stored picture tells the clips leaves its segment. -/
theorem pictureStored_segments (c : Fin 6) (segment : Nat) (s : State) : SegmentsKept s (pictureStored c segment s) :=
  (SegmentsKept.foldl (settleInStored_segments segment) _ s).trans (.foldl (settleOutStored_segments segment) _ _)

end kept

/-! ### The service of an event (R152, R180) -/

/-- Every picture of the channel's live buffer has begun transmission. -/
def CoderChannel.allBegun (k : CoderChannel) : Prop := ∀ picture ∈ k.liveBuffer, picture.started ≠ 0

/-- The start of a frame begins the first picture, or ends it. -/
theorem allBegun_startedBytes {pictures : List LivePicture} (chunk : Nat) (begun : ∀ p ∈ pictures, p.started ≠ 0) :
    ∀ p ∈ startedBytes chunk pictures, p.started ≠ 0 := by
  cases pictures with
  | nil => exact begun
  | cons first rest =>
    rw [List.forall_mem_cons] at begun
    obtain ⟨first_begun, rest_begun⟩ := begun
    rw [startedBytes]
    split
    · exact rest_begun
    · exact List.forall_mem_cons.mpr ⟨fun zero => first_begun (Nat.eq_zero_of_add_eq_zero_right zero), rest_begun⟩

/-- The service of an event leaves F of each channel, brings no picture that has not begun, and leaves of the segments what
reclaim leaves. -/
structure Served (s t : State) : Prop where
  fullness : ∀ c : Fin 6, t.coders[c].fullness = s.coders[c].fullness
  begun : ∀ c : Fin 6, s.coders[c].allBegun → t.coders[c].allBegun
  segments : SegmentsKept s t

namespace Served

variable {s t u : State}

theorem of_same (coders : t.coders = s.coders) (store : t.store = s.store) : Served s t :=
  ⟨fun c => by rw [coders], fun c h => by rw [coders]; exact h, .of_store store⟩

theorem refl (s : State) : Served s s := of_same rfl rfl

theorem trans (h : Served s t) (h' : Served t u) : Served s u :=
  ⟨fun c => (h'.fullness c).trans (h.fullness c), fun c begun => h'.begun c (h.begun c begun), h.segments.trans h'.segments⟩

/-- Service of a state with the same channels and store. -/
theorem after (h : Served t u) (coders : t.coders = s.coders) (store : t.store = s.store) : Served s u :=
  (of_same coders store).trans h

theorem foldl {ι : Type} {f : State → ι → State} (step : ∀ u a, Served u (f u a)) (l : List ι) (u : State) :
    Served u (l.foldl f u) :=
  foldl_related Served refl trans step l u

theorem modPath (p : Fin 4) (f : Path → Path) (s : State) : Served s (s.modPath p f) := of_same rfl rfl

theorem modSched (f : Scheduler → Scheduler) (s : State) : Served s (s.modSched f) := of_same rfl rfl

theorem modCursor (id : Nat) (f : Cursor → Cursor) (s : State) : Served s (s.modCursor id f) := of_same rfl rfl

/-- A change of one channel that leaves its F, and takes back no picture that has begun. -/
theorem modCoder (c : Fin 6) (f : CoderChannel → CoderChannel) (same : ∀ k, (f k).fullness = k.fullness)
    (begun : ∀ k, k.allBegun → (f k).allBegun) (s : State) : Served s (s.modCoder c f) := by
  refine ⟨fun d => ?_, fun d h => ?_, .of_store rfl⟩
  · show (vecModify s.coders c f)[d].fullness = _
    by_cases e : d = c
    · subst e
      rw [vecModify_same, same]
    · rw [vecModify_other _ _ _ _ e]
  · show (vecModify s.coders c f)[d].allBegun
    by_cases e : d = c
    · subst e
      rw [vecModify_same]
      exact begun _ h
    · rw [vecModify_other _ _ _ _ e]
      exact h

theorem setSend (id : Nat) (after : SendState) (cause : SendCause) (s : State) : Served s (setSend id after cause s) :=
  have only := setSend_only id after cause s
  of_same only.coders only.store

theorem freeClip (id : Nat) (s : State) : Served s (freeClip id s) := by
  have only := freeClip_only id s
  refine ⟨fun c => ?_, fun c h => ?_, freeClip_segments id s⟩
  · rw [only]
  · rw [only]
    exact h

/-! #### Paths -/

theorem changeState (p : Fin 4) (after : PathState) (cause : PathCause) (failure : Option (Nat × Nat × Nat)) (s : State) :
    Served s (changeState p after cause failure s) := by
  have only := recompute_only .pathState ((s.modPath p fun path => { path with state := after }).modAlloc fun a =>
    { a with carrying := vecSet a.carrying p (after == .carry) })
  refine of_same ?_ ?_
  · exact (raise_coders _ _).trans only.coders
  · exact (raise_store _ _).trans only.store

theorem endReplay (p : Fin 4) (s : State) : Served s (endReplay p s) := by
  unfold Machine.endReplay
  simp only
  repeat' split
  · exact .trans (.trans (.trans (modPath p _ s) (changeState _ _ _ _ _)) (modPath _ _ _)) (modPath _ _ _)
  · exact (modPath p _ s).trans (.changeState _ _ _ _ _)
  · exact (modPath p _ s).trans (.changeState _ _ _ _ _)

/-- A path that has drained goes DOWN with nothing held: no picture is lost. -/
theorem goDown_drained {p : Fin 4} (h : s.paths[p].drained = true) : Served s (goDown p .drained s) := by
  have empty : s.paths[p].retry.isEmpty = true := by
    simp only [Path.drained, Bool.and_eq_true] at h
    exact h.1.1.2
  unfold Machine.goDown
  simp only [empty]
  exact (modPath p _ s).trans (.changeState _ _ _ _ _)

theorem settleStates (p : Fin 4) (s : State) : Served s (settleStates p s) := by
  have replay : Served s (if s.paths[p].replayDone then Machine.endReplay p s else s) := by
    split
    · exact endReplay p s
    · exact refl s
  unfold Machine.settleStates
  generalize (if s.paths[p].replayDone then Machine.endReplay p s else s) = t at replay ⊢
  simp only
  split
  · next drained => exact replay.trans (goDown_drained drained)
  · exact replay

theorem pathChoice (p : Fin 4) (s : State) : Served s (pathChoice p s) := by
  unfold Machine.pathChoice
  simp only
  repeat' split
  all_goals exact of_same rfl rfl

theorem settlePath (s : State) (p : Fin 4) : Served s (settlePath s p) :=
  .trans (.trans (settleStates p s) (pathChoice p _)) (settleStates p _)

/-! #### The clip class and the choices -/

theorem boundaryChecks {c : Clip} (h : boundaryChecks c s = some t) : Served s t := by
  unfold Machine.boundaryChecks at h
  repeat' split at h
  all_goals cases h
  all_goals exact setSend _ _ _ s

theorem boundaryChecks_getD (c : Clip) {v : State} (h : Served s t) (h' : Served s v) :
    Served s ((Machine.boundaryChecks c t).getD v) := by
  cases e : Machine.boundaryChecks c t with
  | none => exact h'
  | some w => exact h.trans (boundaryChecks e)

theorem passBoundary (id : Nat) (s : State) : Served s (passBoundary id s) := by
  unfold Machine.passBoundary
  split
  · exact refl s
  · exact modCursor _ _ s

theorem reachEnd (c : Clip) (k : Cursor) (s : State) : Served s (reachEnd c k s) := by
  unfold Machine.reachEnd
  repeat' split
  · exact passBoundary _ s
  all_goals exact refl s

theorem reviewLoan (l : Loan) (b : Clip) (s : State) : Served s (reviewLoan l b s) := by
  unfold Machine.reviewLoan
  repeat' split
  · exact of_same rfl rfl
  · exact of_same rfl rfl
  · exact passBoundary _ s

theorem loanStep {l : Loan} (h : loanStep l s = some t) : Served s t := by
  unfold Machine.loanStep at h
  repeat' split at h
  all_goals cases h
  all_goals first
    | exact of_same rfl rfl
    | exact (reachEnd _ _ s).trans (reviewLoan _ _ _)
    | exact reviewLoan _ _ s

theorem sendingStep {c : Clip} (h : sendingStep c s = some t) : Served s t := by
  have waiting : ∀ w u, Served u (setWaiting w u) := fun _ _ => of_same rfl rfl
  unfold Machine.sendingStep at h
  simp only at h
  repeat' split at h
  all_goals cases h
  all_goals first
    | exact of_same rfl rfl
    | exact boundaryChecks_getD _ ((waiting _ s).trans (reachEnd _ _ _))
        (((waiting _ s).trans (reachEnd _ _ _)).trans (passBoundary _ _))
    | exact boundaryChecks_getD _ (refl s) (waiting _ s)

theorem clipStep (h : clipStep s = some t) : Served s t := by
  unfold Machine.clipStep at h
  repeat' split at h
  · cases h
    exact (setSend _ _ _ _).after rfl rfl
  · obtain ⟨l, -, step⟩ := Option.bind_eq_some_iff.mp h
    exact loanStep step
  · exact loanStep h
  · exact sendingStep h

theorem emitted (p : Fin 4) (start : Pointer) (c : Clip) (k : Cursor) (offer : ClipOffer) (s : State) :
    Served s (emitted p start c k offer s) := by
  have first := modCursor c.id (fun k => { k with sequence := k.sequence + 1 }) s
  unfold Machine.emitted
  simp only
  split
  · exact first.trans (freeClip _ _)
  case h_9 => exact (setSend _ _ _ _).after rfl rfl
  all_goals exact of_same rfl rfl

theorem startVideo (p : Fin 4) (c : Fin 6) (picture : LivePicture) (f : FrameContents) (s : State) :
    Served s (startVideo p c picture f s) := by
  have begun := modCoder c (fun k => { k with liveBuffer := startedBytes f.payload.length k.liveBuffer }) (fun _ => rfl)
    (fun _ => allBegun_startedBytes _)
    (s.modPath p (startNew f (.video c picture.sequence picture.timecode) s.now))
  unfold Machine.startVideo
  exact (begun.after (s := s) rfl rfl).trans (modSched _ _)

theorem chooseVideo {within : Bool} {c : Fin 6} (h : chooseVideo within s c = some t) : Served s t := by
  unfold Machine.chooseVideo at h
  repeat' split at h
  · cases h
  · cases h
  · obtain ⟨p, -, rfl⟩ := Option.map_eq_some_iff.mp h
    exact startVideo p c _ _ s

theorem chooseClip {within : Bool} (h : chooseClip within s = some t) : Served s t := by
  unfold Machine.chooseClip at h
  simp only at h
  repeat' split at h
  · cases h
  · cases h
  · obtain ⟨p, -, rfl⟩ := Option.map_eq_some_iff.mp h
    exact (emitted _ _ _ _ _ _).after rfl rfl

theorem chooseAudio (h : chooseAudio s = some t) : Served s t := by
  unfold Machine.chooseAudio at h
  split at h
  · cases h
  · obtain ⟨p, -, rfl⟩ := Option.map_eq_some_iff.mp h
    exact of_same rfl rfl

theorem chooseFrame (h : chooseFrame s = some t) : Served s t := by
  have video : ∀ within, (List.finRange 6).findSome? (Machine.chooseVideo within s) = some t → Served s t := by
    intro within h
    obtain ⟨c, -, chosen⟩ := List.exists_of_findSome?_eq_some h
    exact chooseVideo chosen
  simp only [Machine.chooseFrame, Option.orElse_eq_orElse, Option.orElse_eq_or, Option.or_eq_some_iff] at h
  rcases h with h | ⟨-, h | ⟨-, h | ⟨-, h | ⟨-, h⟩⟩⟩⟩
  · exact chooseAudio h
  · exact video _ h
  · exact chooseClip h
  · exact video _ h
  · exact chooseClip h

theorem serve (s : State) : Served s (serve s) := by
  have loop : ∀ n u, Served u (serveLoop n u) := by
    intro n
    induction n with
    | zero => exact refl
    | succ n ih =>
      intro u
      rw [serveLoop]
      split
      · next step => exact (clipStep step).trans (ih _)
      · split
        · next choice => exact (chooseFrame choice).trans (ih _)
        · exact refl u
  exact .trans (.foldl settlePath _ _) (loop _ _)

end Served

end Sys2Proof.Machine

namespace Sys2Proof.Machine

/-! ## The live buffer (R38, R39, R177) -/

section live

/-- What names a picture of a live buffer, its bytes and how many of them have started; all but the truncate mark of what a
drop can change. -/
def liveName (q : LivePicture) : Timecode × Seq × List Byte × Nat := (q.timecode, q.sequence, q.bytes, q.started)

theorem map_modify_of_same {α β : Type} (l : List α) (i : Nat) {f : α → α} {g : α → β} (same : ∀ a, g (f a) = g a) :
    (l.modify i f).map g = l.map g := by
  apply List.ext_getElem
  · simp
  · intro j _ _
    simp only [List.getElem_map, List.getElem_modify]
    split
    · exact same _
    · rfl

theorem occupancy_congr {l l' : List LivePicture} (h : l.map liveName = l'.map liveName) : occupancy l = occupancy l' := by
  have named : ∀ l : List LivePicture, occupancy l = ((l.map liveName).map fun q => q.2.2.1.length - q.2.2.2).sum := by
    intro l
    simp [occupancy, liveName, Function.comp_def]
  rw [named, named, h]

theorem length_congr {l l' : List LivePicture} (h : l.map liveName = l'.map liveName) : l.length = l'.length := by
  simpa using congrArg List.length h

variable (c : Fin 6) (s : State)

/-- The truncate mark changes no name. -/
theorem markTruncated_coder (place : Nat) : ∃ marked : List LivePicture,
    marked.map liveName = s.coders[c].liveBuffer.map liveName
      ∧ (markTruncated c place s).coders[c] = { s.coders[c] with liveBuffer := marked } := by
  unfold markTruncated
  split
  · exact ⟨s.coders[c].liveBuffer.modify place fun p => { p with truncate := true },
      map_modify_of_same _ place fun _ => rfl, vecModify_same _ _ _⟩
  · exact ⟨_, rfl, rfl⟩

/-- A drop of a live picture: it leaves the buffer, is counted, and sets F to Bv (R39). -/
theorem dropLive_coder (place : Nat) : ∃ left : List LivePicture,
    left.map liveName = (s.coders[c].liveBuffer.eraseIdx place).map liveName
      ∧ (dropLive c place s).coders[c] = { s.coders[c] with
          liveBuffer := left, lateDrops := s.coders[c].lateDrops + 1, fullness := s.coders[c].bufferSize } := by
  have dropped : (lateDrop c (s.modCoder c fun k => { k with liveBuffer := k.liveBuffer.eraseIdx place })).coders[c] =
      { s.coders[c] with
        liveBuffer := s.coders[c].liveBuffer.eraseIdx place
        lateDrops := s.coders[c].lateDrops + 1
        fullness := s.coders[c].bufferSize } := by
    simp [lateDrop]
  obtain ⟨left, names, marked⟩ := markTruncated_coder c
    (lateDrop c (s.modCoder c fun k => { k with liveBuffer := k.liveBuffer.eraseIdx place })) place
  rw [dropped] at names marked
  exact ⟨left, names, marked⟩

theorem dropLive_frame (place : Nat) : (dropLive c place s).control = s.control
    ∧ (dropLive c place s).timing = s.timing ∧ (dropLive c place s).store = s.store := by
  unfold dropLive markTruncated
  split <;> exact ⟨rfl, rfl, rfl⟩

/-! ### Room for a picture (R39) -/

/-- The place of the picture that leaves first: the oldest not begun, or the oldest. -/
def dropPlace (buffer : List LivePicture) : Nat :=
  if (buffer.findIdx fun p => p.started == 0) < buffer.length then buffer.findIdx fun p => p.started == 0 else 0

theorem dropPlace_lt {buffer : List LivePicture} (h : buffer ≠ []) : dropPlace buffer < buffer.length := by
  unfold dropPlace
  split
  · assumption
  · exact List.length_pos_iff.mpr h

theorem dropPlace_eq {before after : List LivePicture} {old : LivePicture} (begun : ∀ q ∈ before, q.started ≠ 0)
    (first : old.started = 0 ∨ before = [] ∧ ∀ q ∈ after, q.started ≠ 0) :
    dropPlace (before ++ old :: after) = before.length := by
  have skipped : (before.findIdx fun p => p.started == 0) = before.length := by
    rw [List.findIdx_eq_length]
    simpa using begun
  have place : ((before ++ old :: after).findIdx fun p => p.started == 0) =
      (old :: after).findIdx (fun p => p.started == 0) + before.length := by
    rw [List.findIdx_append, skipped, if_neg (lt_irrefl _)]
  unfold dropPlace
  rw [place]
  by_cases unbegun : old.started = 0
  · have here : (old :: after).findIdx (fun p => p.started == 0) = 0 := by simp [List.findIdx_cons, unbegun]
    rw [here, if_pos (by simp)]
    exact Nat.zero_add _
  · obtain ⟨rfl, begunAfter⟩ := first.resolve_left unbegun
    have none : (old :: after).findIdx (fun p => p.started == 0) = (old :: after).length := by
      rw [List.findIdx_eq_length]
      simpa [unbegun] using begunAfter
    rw [none, if_neg (by simp)]
    rfl

variable (bytes n : Nat)

theorem makeRoom_of_room (room : occupancy s.coders[c].liveBuffer + bytes ≤ 262144) : makeRoom c bytes n s = s := by
  cases n with
  | zero => rfl
  | succ n => rw [makeRoom]; exact if_pos room

theorem makeRoom_of_empty (empty : s.coders[c].liveBuffer = []) : makeRoom c bytes n s = s := by
  cases n with
  | zero => rfl
  | succ n =>
    rw [makeRoom, empty]
    exact ite_self _

/-- The state after one drop for room. -/
def dropForRoom (p : LivePicture) : State :=
  raise (.liveFull c p.timecode p.sequence) (dropLive c (dropPlace s.coders[c].liveBuffer) s)

variable {c s bytes n}

theorem makeRoom_succ {p : LivePicture} (full : 262144 < occupancy s.coders[c].liveBuffer + bytes)
    (place : s.coders[c].liveBuffer[dropPlace s.coders[c].liveBuffer]? = some p) :
    makeRoom c bytes (n + 1) s = makeRoom c bytes n (dropForRoom c s p) := by
  rw [makeRoom]
  refine (if_neg (Nat.not_le.mpr full)).trans ?_
  unfold dropPlace at place
  simp only [place, dropForRoom, dropPlace]

theorem dropForRoom_coder (c : Fin 6) (s : State) (p : LivePicture) : ∃ left : List LivePicture,
    left.map liveName = (s.coders[c].liveBuffer.eraseIdx (dropPlace s.coders[c].liveBuffer)).map liveName
      ∧ (dropForRoom c s p).coders[c] = { s.coders[c] with
          liveBuffer := left, lateDrops := s.coders[c].lateDrops + 1, fullness := s.coders[c].bufferSize } := by
  obtain ⟨left, names, dropped⟩ := dropLive_coder c s (dropPlace s.coders[c].liveBuffer)
  exact ⟨left, names, by rw [dropForRoom, raise_coders, dropped]⟩

/-- The drops for room: pictures leave until the room is there, and each drop sets F to Bv. -/
theorem makeRoom_coder (enough : s.coders[c].liveBuffer.length ≤ n) : ∃ (kept : List LivePicture) (drops : Counter),
    (kept.map liveName).Sublist (s.coders[c].liveBuffer.map liveName)
      ∧ (bytes ≤ 262144 → occupancy kept + bytes ≤ 262144)
      ∧ (makeRoom c bytes n s).coders[c] = { s.coders[c] with
          liveBuffer := kept
          lateDrops := drops
          fullness := if s.coders[c].liveBuffer ≠ [] ∧ 262144 < occupancy s.coders[c].liveBuffer + bytes then
            s.coders[c].bufferSize else s.coders[c].fullness } := by
  induction n generalizing s with
  | zero =>
    have empty : s.coders[c].liveBuffer = [] := List.eq_nil_of_length_eq_zero (by omega)
    refine ⟨s.coders[c].liveBuffer, s.coders[c].lateDrops, .refl _, ?_, ?_⟩
    · intro small
      rw [empty]
      simpa [occupancy] using small
    · rw [if_neg fun ⟨nonempty, _⟩ => nonempty empty]
      rfl
  | succ n ih =>
    by_cases full : s.coders[c].liveBuffer ≠ [] ∧ 262144 < occupancy s.coders[c].liveBuffer + bytes
    · obtain ⟨nonempty, above⟩ := full
      have place := dropPlace_lt nonempty
      obtain ⟨left, names, dropped⟩ := dropForRoom_coder c s (s.coders[c].liveBuffer[dropPlace s.coders[c].liveBuffer])
      have fewer : left.length ≤ n := by
        rw [length_congr names, List.length_eraseIdx_of_lt place]
        omega
      rw [makeRoom_succ above (List.getElem?_eq_getElem place), if_pos ⟨nonempty, above⟩]
      obtain ⟨kept, drops, sub, room, after⟩ := ih (s := dropForRoom c s _) (by rw [dropped]; exact fewer)
      rw [dropped] at sub after
      refine ⟨kept, drops, sub.trans ?_, room, ?_⟩
      · rw [names]
        exact (List.eraseIdx_sublist _ _).map _
      · rw [after, ite_self]
    · have same : makeRoom c bytes (n + 1) s = s := by
        by_cases empty : s.coders[c].liveBuffer = []
        · exact makeRoom_of_empty c s bytes _ empty
        · exact makeRoom_of_room c s bytes _ (by_contra fun h => full ⟨empty, by omega⟩)
      refine ⟨s.coders[c].liveBuffer, s.coders[c].lateDrops, .refl _, ?_, ?_⟩
      · intro small
        by_cases empty : s.coders[c].liveBuffer = []
        · rw [empty]
          simpa [occupancy] using small
        · exact by_contra fun h => full ⟨empty, by omega⟩
      · rw [same, if_neg full]

theorem makeRoom_store (bytes n : Nat) (s : State) : (makeRoom c bytes n s).store = s.store := by
  induction n generalizing s with
  | zero => rfl
  | succ n ih =>
    rw [makeRoom]
    simp only
    repeat' split
    · rfl
    · rfl
    all_goals
      rw [ih, raise_store]
      exact (dropLive_frame _ _ _).2.2

/-! ### The picture that joins -/

theorem joinLive_of (p : LivePicture) {kept : CoderChannel}
    (room : (makeRoom c p.bytes.length s.coders[c].liveBuffer.length s).coders[c] = kept) :
    (joinLive c p s).coders[c] = { kept with liveBuffer := kept.liveBuffer ++ [{ p with
      truncate := (makeRoom c p.bytes.length s.coders[c].liveBuffer.length s).sched.truncatePending[c] }] } := by
  subst room
  exact vecModify_same _ _ _

theorem joinLive_frame (c : Fin 6) (p : LivePicture) (s : State) :
    (joinLive c p s).sched.truncatePending[c] = false ∧ (joinLive c p s).store = s.store
      ∧ (joinLive c p s).control = (makeRoom c p.bytes.length s.coders[c].liveBuffer.length s).control :=
  ⟨vecSet_same _ _ _, makeRoom_store _ _ s, rfl⟩

theorem joinLive_of_room (p : LivePicture) (room : occupancy s.coders[c].liveBuffer + p.bytes.length ≤ 262144) :
    (joinLive c p s).coders[c] = { s.coders[c] with
      liveBuffer := s.coders[c].liveBuffer ++ [{ p with truncate := s.sched.truncatePending[c] }] } := by
  have same := makeRoom_of_room c s p.bytes.length s.coders[c].liveBuffer.length room
  rw [joinLive_of p rfl, same]

/-- One drop makes the room (R39). -/
theorem joinLive_of_drop (p : LivePicture) {before after : List LivePicture} {old : LivePicture}
    (full : 262144 < occupancy s.coders[c].liveBuffer + p.bytes.length)
    (buffer : s.coders[c].liveBuffer = before ++ old :: after) (begun : ∀ q ∈ before, q.started ≠ 0)
    (first : old.started = 0 ∨ before = [] ∧ ∀ q ∈ after, q.started ≠ 0)
    (room : occupancy (before ++ after) + p.bytes.length ≤ 262144) :
    (joinLive c p s).coders[c].liveBuffer.map liveName = (before ++ after ++ [p]).map liveName
      ∧ (joinLive c p s).coders[c].lateDrops = s.coders[c].lateDrops + 1
      ∧ (joinLive c p s).coders[c].fullness = s.coders[c].bufferSize
      ∧ (joinLive c p s).control = queueNotice ⟨.liveFull c old.timecode old.sequence, s.timing.timecode⟩ s.control := by
  have place : dropPlace s.coders[c].liveBuffer = before.length := by rw [buffer, dropPlace_eq begun first]
  have leaves : s.coders[c].liveBuffer[dropPlace s.coders[c].liveBuffer]? = some old := by
    rw [place, buffer]
    simp
  obtain ⟨left, names, dropped⟩ := dropForRoom_coder c s old
  have names' : left.map liveName = (before ++ after).map liveName := by
    rw [names, place, buffer, List.eraseIdx_append_of_length_le (le_refl _)]
    simp
  have once : makeRoom c p.bytes.length s.coders[c].liveBuffer.length s = dropForRoom c s old := by
    rw [show s.coders[c].liveBuffer.length = (before ++ after).length + 1 by rw [buffer]; simp; omega,
      makeRoom_succ full leaves]
    refine makeRoom_of_room _ _ _ _ ?_
    rw [dropped, occupancy_congr names']
    exact room
  have joined := joinLive_of p (once ▸ dropped)
  obtain ⟨control, timing, -⟩ := dropLive_frame c s (dropPlace s.coders[c].liveBuffer)
  refine ⟨?_, ?_, ?_, ?_⟩
  · rw [joined]
    simp [names', liveName]
  · rw [joined]
  · rw [joined]
  · rw [(joinLive_frame c p s).2.2, once, dropForRoom, raise_of_not_protocol _ rfl, control, timing]

/-- Whatever leaves, the picture joins at the end, and the buffer holds at most 262,144 bytes (R38, R39). -/
theorem joinLive_kept (p : LivePicture) : ∃ (kept : List LivePicture) (drops : Counter) (mark : Bool),
    (kept.map liveName).Sublist (s.coders[c].liveBuffer.map liveName)
      ∧ (p.bytes.length ≤ 262144 → occupancy (kept ++ [{ p with truncate := mark }]) ≤ 262144)
      ∧ (joinLive c p s).coders[c] = { s.coders[c] with
          liveBuffer := kept ++ [{ p with truncate := mark }]
          lateDrops := drops
          fullness := if s.coders[c].liveBuffer ≠ [] ∧ 262144 < occupancy s.coders[c].liveBuffer + p.bytes.length then
            s.coders[c].bufferSize else s.coders[c].fullness } := by
  obtain ⟨kept, drops, sub, room, after⟩ := makeRoom_coder (bytes := p.bytes.length) (le_refl s.coders[c].liveBuffer.length)
  refine ⟨kept, drops, _, sub, fun small => ?_, joinLive_of p after⟩
  have fits := room small
  simp only [occupancy, List.map_append, List.sum_append, List.map_cons, List.map_nil, List.sum_cons, List.sum_nil] at fits ⊢
  omega

end live

end Sys2Proof.Machine

namespace Sys2Proof.Machine

/-! ## Rate control and the writer at picture coded (R58, R59, R69) -/

section rate

variable (c : Fin 6) (f : InFlight) (sequence : Seq) (bytes : Nat) (s : State)

/-- F after a picture, before the cut at Bv (R58). -/
def rawFullness (k : CoderChannel) (bytes : Nat) : Nat := k.fullness + bytes - k.byteBudget

/-- The channel after rate control (R58, R59). -/
def rateControlled (k : CoderChannel) : CoderChannel := { k with
  fullness := min (rawFullness k bytes) k.bufferSize
  forcedRepeat := k.forcedRepeat || decide (0 < k.bufferSize ∧ k.bufferSize < rawFullness k bytes)
  q := nextIndex (min (rawFullness k bytes) k.bufferSize) k.bufferSize k.qMin k.qMax f.qStart }

theorem rateControl_eq : rateControl c f sequence bytes s = { s with
    coders := vecSet s.coders c (rateControlled f bytes s.coders[c])
    control := if 0 < s.coders[c].bufferSize ∧ s.coders[c].bufferSize < rawFullness s.coders[c] bytes then
        queueNotice ⟨.overflow c sequence f.timecode bytes s.coders[c].byteBudget (rawFullness s.coders[c] bytes),
          s.timing.timecode⟩ s.control
      else s.control } := by
  have test : (decide (rawFullness s.coders[c] bytes > s.coders[c].bufferSize) && decide (s.coders[c].bufferSize > 0)) =
      decide (0 < s.coders[c].bufferSize ∧ s.coders[c].bufferSize < rawFullness s.coders[c] bytes) := by
    rw [Bool.and_comm, Bool.decide_and]
  unfold rateControl
  simp only
  rw [show s.coders[c].fullness + bytes - s.coders[c].byteBudget = rawFullness s.coders[c] bytes from rfl, test]
  by_cases overflow : 0 < s.coders[c].bufferSize ∧ s.coders[c].bufferSize < rawFullness s.coders[c] bytes
  · rw [if_pos overflow, if_pos (decide_eq_true overflow), raise_of_not_protocol _ rfl]
    simp only [State.modCoder, vecModify_eq_vecSet, vecSet_same, vecSet_vecSet, rateControlled]
  · rw [if_neg overflow, if_neg (by simpa using overflow)]
    simp only [State.modCoder, vecModify_eq_vecSet, vecSet_same, vecSet_vecSet, rateControlled]

theorem rateControl_coder : (rateControl c f sequence bytes s).coders[c] = rateControlled f bytes s.coders[c] := by
  rw [rateControl_eq]
  exact vecSet_same _ _ _

theorem rateControl_store : (rateControl c f sequence bytes s).store = s.store := by rw [rateControl_eq]

end rate

/-! ### A picture that the filling segment has room for (R69, R70) -/

section stored

variable {c : Fin 6} {s : State} {id : Nat} {g : Segment} {bytes : List Byte}

/-- Writing bytes of a segment changes the memory, its errors and the count of free reads. -/
theorem writeSegment_frame (pages : List Nat) (x : Nat) (bytes : List Byte) (s : State) :
    ∃ dram lineErrors uncorrectable freeReads, writeSegment pages x bytes s = { s with
      store := { s.store with dram := dram, lineErrors := lineErrors, uncorrectable := uncorrectable }
      freeReads := freeReads } := by
  unfold writeSegment
  split
  · exact ⟨_, _, _, _, rfl⟩
  · simp only
    rw [readLine_frame]
    exact ⟨_, _, _, _, rfl⟩

theorem writeSegment_segments (pages : List Nat) (x : Nat) (bytes : List Byte) (s : State) :
    (writeSegment pages x bytes s).store.segments = s.store.segments
      ∧ (writeSegment pages x bytes s).store.completion = s.store.completion := by
  obtain ⟨_, _, _, _, write⟩ := writeSegment_frame pages x bytes s
  rw [write]
  exact ⟨rfl, rfl⟩

/-- A segment with one picture more (R70). -/
def Segment.append (g : Segment) (bytes : List Byte) : Segment := { g with
  index := g.index ++ [g.byteLength]
  pictures := g.pictures + 1
  byteLength := g.byteLength + bytes.length
  digest := onesAddBytes g.digest g.byteLength bytes }

theorem appendPicture_segment (pages : List Nat) (found : s.segment? id = some g) :
    (appendPicture { g with pages := pages } bytes s).segment? id = some (g.append bytes)
      ∧ (appendPicture { g with pages := pages } bytes s).store.completion = s.store.completion := by
  obtain ⟨segments, completion⟩ := writeSegment_segments pages g.byteLength bytes s
  obtain rfl := id_of_segment? found
  refine ⟨?_, completion⟩
  unfold appendPicture
  exact segment?_modSegment_same (by intro _; rfl) ((segment?_congr segments).trans found)

theorem obtainPages_zero (s : State) : obtainPages 0 s = (some [], s) := by simp [obtainPages, takePages]

/-- With its pages obtained, a picture is stored in the filling segment (R69, steps 5 and 6). -/
theorem storePicture_of_pages {pages : List Nat} {u : State} (here : s.fillingSegment c = some g)
    (obtained : obtainPages (pagesFor (g.byteLength + bytes.length) - g.pages.length) s = (some pages, u))
    (goesOn : g.pictures + 1 ≠ g.segLength) :
    storePicture c bytes s = (true, pictureStored c g.id (appendPicture { g with pages := g.pages ++ pages } bytes
      (u.modSegment g.id fun g => { g with pages := g.pages ++ pages }))) := by
  unfold storePicture
  rw [here]
  simp only [obtained]
  rw [if_neg goesOn]

/-- A picture that fits the pages in hand is stored, and the segment goes on filling. -/
theorem storePicture_of_room (filling : s.coders[c].filling = some id) (found : s.segment? id = some g)
    (incomplete : id ∉ s.store.completion) (goesOn : g.pictures + 1 < g.segLength)
    (room : g.byteLength + bytes.length ≤ g.pages.length * 65536) :
    (storePicture c bytes s).1 = true ∧ id ∉ (storePicture c bytes s).2.store.completion
      ∧ ∃ pins, (storePicture c bytes s).2.segment? id = some { g.append bytes with pinCount := pins } := by
  have here : s.fillingSegment c = some g := by rw [State.fillingSegment, filling]; exact found
  obtain rfl := id_of_segment? found
  have need : pagesFor (g.byteLength + bytes.length) - g.pages.length = 0 := by
    unfold pagesFor pageSize
    omega
  have paged : (s.modSegment g.id fun g => { g with pages := g.pages ++ [] }).segment? g.id = some g := by
    rw [segment?_modSegment_same (by intro _; rfl) found]
    simp
  obtain ⟨appended, completion⟩ := appendPicture_segment (bytes := bytes) (g.pages ++ []) paged
  have kept := pictureStored_segments c g.id (appendPicture { g with pages := g.pages ++ [] } bytes
    (s.modSegment g.id fun g => { g with pages := g.pages ++ [] }))
  have stored := storePicture_of_pages here (by rw [need, obtainPages_zero]) (Nat.ne_of_lt goesOn)
  rw [stored]
  have outside : g.id ∉ (appendPicture { g with pages := g.pages ++ [] } bytes
      (s.modSegment g.id fun g => { g with pages := g.pages ++ [] })).store.completion := by
    rw [completion]
    exact incomplete
  exact ⟨rfl, fun h => outside (kept.completion.subset h), kept.incomplete _ _ appended outside⟩

/-- The handover of a picture that follows the filling segment and fits it (R69). -/
theorem handOver_of_room {t : Timecode} (writing : s.store.writers[c].state ≠ .paused)
    (filling : s.coders[c].filling = some id) (found : s.segment? id = some g) (incomplete : id ∉ s.store.completion)
    (next : distance g.rate (lastPicture g) t = 1) (goesOn : g.pictures + 1 < g.segLength)
    (room : g.byteLength + bytes.length ≤ g.pages.length * 65536) (limit : g.byteLength + bytes.length ≤ 4194304) :
    id ∉ (handOver c t bytes s).store.completion
      ∧ ∃ pins, (handOver c t bytes s).segment? id = some { g.append bytes with pinCount := pins } := by
  have here : s.fillingSegment c = some g := by rw [State.fillingSegment, filling]; exact found
  have follow : follows g t = true := by simp [follows, next]
  have before : closeBefore c t bytes.length s = s := by
    unfold closeBefore
    rw [here]
    simp only [follow]
    rw [segmentLimit, if_neg (Nat.not_lt.mpr limit)]
    rfl
  obtain ⟨stored, after⟩ := storePicture_of_room filling found incomplete goesOn room
  unfold handOver
  rw [if_neg writing, before]
  have pair : storePicture c bytes s = (true, (storePicture c bytes s).2) := Prod.ext stored rfl
  simp only [filling, Option.isNone_some, Bool.false_eq_true, if_false, Bool.not_true]
  rw [pair]
  exact after

end stored

end Sys2Proof.Machine

namespace Sys2Proof.Machine

/-! ## Picture coded (R35) -/

/-! ### The live buffer after a join depends on the buffer and the waiting mark alone -/

section joined

variable {c : Fin 6} {s t : State}

/-- Two states with the same live buffer of a channel and the same waiting truncate marks. -/
def SameLive (c : Fin 6) (s t : State) : Prop :=
  t.coders[c].liveBuffer = s.coders[c].liveBuffer ∧ t.sched.truncatePending = s.sched.truncatePending

theorem markTruncated_live (c : Fin 6) (place : Nat) (s : State) :
    (markTruncated c place s).coders[c].liveBuffer =
        (if place < s.coders[c].liveBuffer.length then
          s.coders[c].liveBuffer.modify place fun p => { p with truncate := true }
        else s.coders[c].liveBuffer)
      ∧ (markTruncated c place s).sched.truncatePending =
        if place < s.coders[c].liveBuffer.length then s.sched.truncatePending
        else vecSet s.sched.truncatePending c true := by
  unfold markTruncated
  split
  · exact ⟨congrArg CoderChannel.liveBuffer (vecModify_same _ _ _), rfl⟩
  · exact ⟨rfl, rfl⟩

theorem SameLive.markTruncated (h : SameLive c s t) (place : Nat) :
    SameLive c (markTruncated c place s) (markTruncated c place t) := by
  obtain ⟨buffer, pending⟩ := h
  obtain ⟨left, waits⟩ := markTruncated_live c place s
  obtain ⟨left', waits'⟩ := markTruncated_live c place t
  refine ⟨?_, ?_⟩
  · rw [left', left, buffer]
  · rw [waits', waits, buffer, pending]

theorem SameLive.dropLive (h : SameLive c s t) (place : Nat) : SameLive c (dropLive c place s) (dropLive c place t) := by
  obtain ⟨buffer, pending⟩ := h
  have dropped : ∀ u : State, (lateDrop c (u.modCoder c fun k =>
      { k with liveBuffer := k.liveBuffer.eraseIdx place })).coders[c].liveBuffer = u.coders[c].liveBuffer.eraseIdx place := by
    intro u
    simp [lateDrop]
  have late : SameLive c (lateDrop c (s.modCoder c fun k => { k with liveBuffer := k.liveBuffer.eraseIdx place }))
      (lateDrop c (t.modCoder c fun k => { k with liveBuffer := k.liveBuffer.eraseIdx place })) := by
    refine ⟨?_, ?_⟩
    · rw [dropped, dropped, buffer]
    · exact pending
  exact late.markTruncated place

theorem SameLive.dropForRoom (h : SameLive c s t) (p : LivePicture) : SameLive c (dropForRoom c s p) (dropForRoom c t p) := by
  have place := congrArg dropPlace h.1
  obtain ⟨left, waits⟩ := h.dropLive (dropPlace s.coders[c].liveBuffer)
  unfold Machine.dropForRoom SameLive
  rw [place, raise_coders, raise_coders, raise_sched, raise_sched]
  exact ⟨left, waits⟩

theorem SameLive.makeRoom (bytes n : Nat) (h : SameLive c s t) : SameLive c (makeRoom c bytes n s) (makeRoom c bytes n t) := by
  have buffer := h.1
  induction n generalizing s t with
  | zero => exact h
  | succ n ih =>
    by_cases empty : s.coders[c].liveBuffer = []
    · rw [makeRoom_of_empty c s bytes _ empty, makeRoom_of_empty c t bytes _ (buffer.trans empty)]
      exact h
    · by_cases room : occupancy s.coders[c].liveBuffer + bytes ≤ 262144
      · rw [makeRoom_of_room c s bytes _ room, makeRoom_of_room c t bytes _ (by rw [buffer]; exact room)]
        exact h
      · have place := List.getElem?_eq_getElem (dropPlace_lt empty)
        have after := h.dropForRoom (s.coders[c].liveBuffer[dropPlace s.coders[c].liveBuffer]'(dropPlace_lt empty))
        rw [makeRoom_succ (by omega) place, makeRoom_succ (by rw [buffer]; omega) (by rw [buffer]; exact place)]
        exact ih after after.1

theorem SameLive.joinLive (p : LivePicture) (h : SameLive c s t) :
    (joinLive c p t).coders[c].liveBuffer = (joinLive c p s).coders[c].liveBuffer := by
  obtain ⟨left, waits⟩ := h.makeRoom p.bytes.length s.coders[c].liveBuffer.length
  rw [joinLive_of p rfl, joinLive_of p rfl, h.1, left, waits]

end joined

/-! ### The stages of the event -/

section event

variable {c : Fin 6} {s : State} {f : InFlight}

/-- A channel after the count of a picture. -/
def countCoded (f : InFlight) (cut : Option Nat) (k : CoderChannel) : CoderChannel := { k with
  cutPictures := if cut.isSome then k.cutPictures + 1 else k.cutPictures
  sequence := k.sequence + 1
  coded := k.coded + 1
  repeats := if f.kind = .coded then k.repeats else k.repeats + 1
  inFlight := none
  handed := true }

/-- The coded picture as it joins the live buffer (R177, R178). -/
def livePicture (s : State) (c : Fin 6) (f : InFlight) : LivePicture :=
  ⟨s.coders[c].sequence, f.timecode, f.kind, (codePicture c s.coders[c].sequence s.coders[c].qMax f).1, 0,
    s.sched.tickCount, s.sched.tickCount + BitVec.ofNat 32 s.coders[c].liveDeadline, false⟩

theorem pictureCodedEvent_none (h : s.coders[c].inFlight = none) : pictureCodedEvent c s = s := by
  unfold pictureCodedEvent
  rw [h]

/-- The event: the count, the live buffer, the writer, and rate control. -/
theorem pictureCodedEvent_eq (h : s.coders[c].inFlight = some f) : ∃ v : State,
    v = { s with
      coders := vecSet s.coders c (countCoded f (codePicture c s.coders[c].sequence s.coders[c].qMax f).2 s.coders[c])
      control := v.control }
    ∧ pictureCodedEvent c s =
      (let picture := livePicture s c f
       let joined := if s.coders[c].mode.isLive then joinLive c picture v else v
       let recorded := if s.coders[c].mode.isRecording then handOver c f.timecode picture.bytes joined else joined
       rateControl c f s.coders[c].sequence picture.bytes.length recorded) := by
  unfold pictureCodedEvent livePicture
  rw [h]
  simp only
  generalize codePicture c s.coders[c].sequence s.coders[c].qMax f = coded
  rcases coded with ⟨bytes, _ | slice⟩
  · refine ⟨{ s with coders := vecSet s.coders c (countCoded f none s.coders[c]) }, rfl, ?_⟩
    simp only [State.modCoder, vecModify_eq_vecSet, vecSet_same]
    rfl
  · refine ⟨{ s with
      coders := vecSet s.coders c (countCoded f (some slice) s.coders[c])
      control := queueNotice ⟨.pictureCut c f.timecode slice, s.timing.timecode⟩ s.control }, rfl, ?_⟩
    have reported : ∀ u : State, raise (.pictureCut c f.timecode slice) u =
        { u with control := queueNotice ⟨.pictureCut c f.timecode slice, u.timing.timecode⟩ u.control } :=
      fun u => raise_of_not_protocol u rfl
    simp only [reported, State.modCoder, vecModify_eq_vecSet, vecSet_same, vecSet_vecSet]
    rfl

/-- The drops that room for the coded picture takes (R39). -/
abbrev dropsForRoom (s : State) (c : Fin 6) (f : InFlight) : Prop :=
  s.coders[c].mode ∈ [CoderMode.live, .both] ∧ s.coders[c].liveBuffer ≠ []
    ∧ 262144 < occupancy s.coders[c].liveBuffer + (livePicture s c f).bytes.length

theorem joined_coder {v : State} {counted : CoderChannel} (channel : v.coders[c] = counted)
    (buffer : counted.liveBuffer = s.coders[c].liveBuffer) (pending : v.sched.truncatePending = s.sched.truncatePending) :
    ∃ (left : List LivePicture) (drops : Counter),
      (if s.coders[c].mode.isLive then joinLive c (livePicture s c f) v else v).coders[c] = { counted with
        liveBuffer := left
        lateDrops := drops
        fullness := if dropsForRoom s c f then counted.bufferSize else counted.fullness }
      ∧ (s.coders[c].mode ∈ [CoderMode.live, .both] →
          left = (joinLive c (livePicture s c f) s).coders[c].liveBuffer)
      ∧ (s.coders[c].mode ∉ [CoderMode.live, .both] → left = s.coders[c].liveBuffer) := by
  subst channel
  by_cases live : s.coders[c].mode ∈ [CoderMode.live, .both]
  · obtain ⟨kept, drops, mark, -, -, joined⟩ := joinLive_kept (c := c) (s := v) (livePicture s c f)
    have sameLive := SameLive.joinLive (livePicture s c f) (show SameLive c s v from ⟨buffer, pending⟩)
    rw [if_pos ((isLive_iff _).mpr live)]
    refine ⟨kept ++ [{ livePicture s c f with truncate := mark }], drops, joined.trans ?_, fun _ => ?_, fun other => absurd live other⟩
    · simp only [dropsForRoom, live, true_and, buffer]
    · rw [← sameLive, joined]
  · rw [if_neg fun h => live ((isLive_iff _).mp h)]
    refine ⟨s.coders[c].liveBuffer, v.coders[c].lateDrops, ?_, fun h => absurd h live, fun _ => rfl⟩
    rw [if_neg fun ⟨h, _⟩ => live h, ← buffer]

/-- What the event leaves of the channel: the count, the live buffer as the join leaves it, and rate control. -/
theorem pictureCodedEvent_coder (h : s.coders[c].inFlight = some f) :
    ∃ (left : List LivePicture) (drops : Counter) (filling : Option Nat),
      (pictureCodedEvent c s).coders[c] = rateControlled f (livePicture s c f).bytes.length
        { countCoded f (codePicture c s.coders[c].sequence s.coders[c].qMax f).2 s.coders[c] with
          liveBuffer := left
          lateDrops := drops
          fullness := if dropsForRoom s c f then s.coders[c].bufferSize else s.coders[c].fullness
          filling := filling }
      ∧ (s.coders[c].mode ∈ [CoderMode.live, .both] →
          left = (joinLive c (livePicture s c f) s).coders[c].liveBuffer)
      ∧ (s.coders[c].mode ∉ [CoderMode.live, .both] → left = s.coders[c].liveBuffer) := by
  obtain ⟨v, counted, event⟩ := pictureCodedEvent_eq h
  have channel : v.coders[c] = countCoded f (codePicture c s.coders[c].sequence s.coders[c].qMax f).2 s.coders[c] := by
    rw [counted]
    exact vecSet_same _ _ _
  have pending : v.sched.truncatePending = s.sched.truncatePending := by rw [counted]
  obtain ⟨left, drops, joined, live, other⟩ := joined_coder (s := s) (f := f) channel rfl pending
  rw [event]
  simp only
  generalize (if s.coders[c].mode.isLive then joinLive c (livePicture s c f) v else v) = w at joined ⊢
  refine ⟨left, drops, (if s.coders[c].mode.isRecording then handOver c f.timecode (livePicture s c f).bytes w
    else w).coders[c].filling, ?_, live, other⟩
  rw [rateControl_coder]
  refine congrArg (rateControlled f _) ?_
  split
  · rw [(handOver_only c f.timecode (livePicture s c f).bytes w).coder c, joined]
    rfl
  · rw [joined]
    rfl

/-- A channel that is live has no truncate mark waiting once the picture has joined (R177). -/
theorem pictureCodedEvent_pending (h : s.coders[c].inFlight = some f) (live : s.coders[c].mode ∈ [CoderMode.live, .both]) :
    (pictureCodedEvent c s).sched.truncatePending[c] = false := by
  obtain ⟨v, -, event⟩ := pictureCodedEvent_eq h
  rw [event]
  simp only
  rw [if_pos ((isLive_iff _).mpr live)]
  have joined := (joinLive_frame c (livePicture s c f) v).1
  generalize joinLive c (livePicture s c f) v = w at joined ⊢
  rw [rateControl_eq]
  show (ite _ _ _ : State).sched.truncatePending[c] = false
  split
  · rw [(handOver_only c f.timecode (livePicture s c f).bytes w).state]
    exact joined
  · exact joined

/-- The state in which the writer is handed the picture has the store of the state before. -/
theorem pictureCodedEvent_handed (h : s.coders[c].inFlight = some f) : ∃ w : State,
    w.store = s.store ∧ w.coders[c].filling = s.coders[c].filling
      ∧ (pictureCodedEvent c s).store =
        (if s.coders[c].mode.isRecording then handOver c f.timecode (livePicture s c f).bytes w else w).store := by
  obtain ⟨v, counted, event⟩ := pictureCodedEvent_eq h
  have channel : v.coders[c] = countCoded f (codePicture c s.coders[c].sequence s.coders[c].qMax f).2 s.coders[c] := by
    rw [counted]
    exact vecSet_same _ _ _
  obtain ⟨left, drops, joined, -, -⟩ := joined_coder (s := s) (f := f) channel rfl (by rw [counted])
  refine ⟨if s.coders[c].mode.isLive then joinLive c (livePicture s c f) v else v, ?_, ?_, ?_⟩
  · split
    · rw [(joinLive_frame c _ v).2.1, counted]
    · rw [counted]
  · rw [joined]
    rfl
  · rw [event]
    exact rateControl_store _ _ _ _ _

end event

end Sys2Proof.Machine

namespace Sys2Proof.Machine

/-! ### The obligation -/

theorem count_unless (p : Prop) [Decidable p] (n : Counter) : (if p then n else n + 1) = n + if p then 0 else 1 := by
  split <;> simp

theorem count_if (p : Prop) [Decidable p] (n : Counter) : (if p then n + 1 else n) = n + if p then 1 else 0 := by
  split <;> simp

section event

variable {c : Fin 6} {s : State} {f : InFlight}

theorem joinLive_rule (s : State) (c : Fin 6) (p : LivePicture) (small : p.bytes.length ≤ 262144) :
    occupancy (joinLive c p s).coders[c].liveBuffer ≤ 262144
      ∧ ∃ kept, (joinLive c p s).coders[c].liveBuffer.map liveName = kept ++ [liveName p]
        ∧ kept.Sublist (s.coders[c].liveBuffer.map liveName) := by
  obtain ⟨kept, drops, mark, sub, room, joined⟩ := joinLive_kept (c := c) (s := s) p
  rw [joined]
  exact ⟨room small, kept.map liveName, by simp [liveName], sub⟩

/-- Segments at picture coded: without a recording the writer gets nothing, and the service of the event opens none. -/
theorem pictureCoded_listed (h : s.coders[c].inFlight = some f) (other : s.coders[c].mode ∉ [CoderMode.record, .both]) :
    ((serve (pictureCodedEvent c s)).store.segments.map fun g => (g.id, g.byteLength)).Sublist
      (s.store.segments.map fun g => (g.id, g.byteLength)) := by
  obtain ⟨w, store, -, event⟩ := pictureCodedEvent_handed h
  rw [if_neg fun recording => other ((isRecording_iff _).mp recording), store] at event
  rw [← event]
  exact (Served.serve _).segments.listed

/-- A picture that the filling segment has room for is stored there (R69, R70). -/
theorem pictureCoded_stored {id : Nat} {g : Segment} (h : s.coders[c].inFlight = some f)
    (recording : s.coders[c].mode ∈ [CoderMode.record, .both]) (writing : s.store.writers[c].state ≠ .paused)
    (filling : s.coders[c].filling = some id) (found : s.segment? id = some g) (incomplete : id ∉ s.store.completion)
    (next : distance g.rate (lastPicture g) f.timecode = 1) (goesOn : g.pictures + 1 < g.segLength)
    (room : g.byteLength + (livePicture s c f).bytes.length ≤ g.pages.length * 65536)
    (limit : g.byteLength + (livePicture s c f).bytes.length ≤ 4194304) :
    ∃ pins, (serve (pictureCodedEvent c s)).segment? id =
      some { g.append (livePicture s c f).bytes with pinCount := pins } := by
  obtain ⟨w, store, same, event⟩ := pictureCodedEvent_handed h
  rw [if_pos ((isRecording_iff _).mpr recording)] at event
  have here : w.segment? id = some g := (segment?_congr (congrArg Store.segments store)).trans found
  obtain ⟨outside, pins, stored⟩ := handOver_of_room (by rw [store]; exact writing) (same.trans filling) here
    (by rw [store]; exact incomplete) next goesOn room limit
  have after : (pictureCodedEvent c s).segment? id = _ := (segment?_congr (congrArg Store.segments event)).trans stored
  obtain ⟨pins', kept⟩ := (Served.serve (pictureCodedEvent c s)).segments.incomplete id _ after (by rw [event]; exact outside)
  exact ⟨pins', kept⟩

/-- The channel once the event has been served: F as rate control left it, and the rest but for what the service reaches. -/
theorem pictureCoded_served (h : s.coders[c].inFlight = some f) :
    let t := serve (pictureCodedEvent c s)
    let k := s.coders[c]
    let coded := codePicture c k.sequence k.qMax f
    let raw := (if dropsForRoom s c f then k.bufferSize else k.fullness) + coded.1.length - k.byteBudget
    t.coders[c].sequence = k.sequence + 1 ∧ t.coders[c].coded = k.coded + 1
      ∧ t.coders[c].repeats = k.repeats + (if f.kind = .coded then 0 else 1)
      ∧ t.coders[c].inFlight = none ∧ t.coders[c].handed = true ∧ t.coders[c].mode = k.mode
      ∧ t.coders[c].cutPictures = k.cutPictures + (if coded.2.isSome then 1 else 0)
      ∧ t.coders[c].fullness = min raw k.bufferSize
      ∧ t.coders[c].forcedRepeat = (k.forcedRepeat || decide (0 < k.bufferSize ∧ k.bufferSize < raw))
      ∧ t.coders[c].q = nextIndex (min raw k.bufferSize) k.bufferSize k.qMin k.qMax f.qStart := by
  obtain ⟨left, drops, filling, channel, -, -⟩ := pictureCodedEvent_coder h
  have served := (serve_only (pictureCodedEvent c s)).coder c
  have fullness := (Served.serve (pictureCodedEvent c s)).fullness c
  rw [channel] at served fullness
  refine ⟨?_, ?_, ?_, ?_, ?_, ?_, ?_, fullness, ?_, ?_⟩ <;> rw [served]
  case refine_3 => exact count_unless (f.kind = .coded) _
  case refine_7 => exact count_if (Option.isSome _ = true) _
  all_goals rfl

/-- The live buffer before the scheduler's choices of the event. -/
theorem pictureCoded_live (h : s.coders[c].inFlight = some f) :
    (s.coders[c].mode ∈ [CoderMode.live, .both] →
      (pictureCodedEvent c s).coders[c].liveBuffer = (joinLive c (livePicture s c f) s).coders[c].liveBuffer
      ∧ (pictureCodedEvent c s).sched.truncatePending[c] = false
      ∧ (occupancy s.coders[c].liveBuffer + (livePicture s c f).bytes.length ≤ 262144 →
          (pictureCodedEvent c s).coders[c].liveBuffer = s.coders[c].liveBuffer ++
            [{ livePicture s c f with truncate := s.sched.truncatePending[c] }]))
    ∧ (s.coders[c].mode ∉ [CoderMode.live, .both] →
      (pictureCodedEvent c s).coders[c].liveBuffer = s.coders[c].liveBuffer) := by
  obtain ⟨left, drops, filling, channel, joined, kept⟩ := pictureCodedEvent_coder h
  have buffer : (pictureCodedEvent c s).coders[c].liveBuffer = left := by
    rw [channel]
    rfl
  refine ⟨fun live => ⟨buffer.trans (joined live), pictureCodedEvent_pending h live, fun room => ?_⟩,
    fun other => buffer.trans (kept other)⟩
  rw [buffer, joined live, joinLive_of_room _ room]

end event

/-- Settles O21: the join of the live buffer and rate control by their own rules, and the event by its stages; the service
of the event keeps F and what the segments hold. -/
theorem pictureCodedCountsThePicture : Obligations.PictureCodedCountsThePicture := by
  unfold Obligations.PictureCodedCountsThePicture
  refine ⟨fun s c p => ⟨fun room => ⟨joinLive_of_room p room, (joinLive_frame c p s).1⟩,
    fun full before old after buffer begun first room => joinLive_of_drop p full buffer begun first room,
    joinLive_rule s c p⟩, fun s c f sequence bytes => ?_, fun s elapsed c => ⟨fun idle => ?_, fun f h => ?_⟩⟩
  · refine ⟨rateControl_coder c f sequence bytes s, ?_, ?_⟩
    · rw [rateControl_eq]
      rfl
    · rw [rateControl_coder]
      exact (rateControl_eq c f sequence bytes s).trans (by rw [rateControl_eq])
  · show finish (serve (pictureCodedEvent c (s.elapse elapsed))) = _
    rw [pictureCodedEvent_none (s := s.elapse elapsed) idle]
    rfl
  · obtain ⟨z, elapses⟩ : ∃ z, z = s.elapse elapsed := ⟨_, rfl⟩
    have now : z.now = s.now + elapsed := by rw [elapses, State.elapse_now]
    have coders : s.coders = z.coders := by rw [elapses, State.elapse_coders]
    have sched : s.sched = z.sched := by rw [elapses, State.elapse_sched]
    have store : s.store = z.store := by rw [elapses, State.elapse_store]
    have exec_eq : exec (.pictureCoded elapsed c) s = finish (serve (pictureCodedEvent c z)) := by rw [elapses]; rfl
    have event := pictureCodedEvent_only c z
    have service := serve_only (pictureCodedEvent c z)
    obtain ⟨later, -, ports, pending⟩ := outside_eq_iff.mp (service.outside.trans event.outside)
    have flying : z.coders[c].inFlight = some f := coders ▸ h
    obtain ⟨live, other⟩ := pictureCoded_live flying
    obtain ⟨sequence, coded, repeats, landed, handed, mode, cut, fullness, forced, q⟩ := pictureCoded_served flying
    have joined := SameLive.joinLive (c := c) (s := s) (t := z) (livePicture z c f) ⟨by rw [coders], by rw [sched]⟩
    obtain ⟨t, done, same⟩ := finish_next (serve (pictureCodedEvent c z))
    refine ⟨pictureCodedEvent c z, t, exec_eq, exec_eq.trans done, ?_⟩
    have segments : ∀ id, t.segment? id = (serve (pictureCodedEvent c z)).segment? id := fun id =>
      segment?_congr (by rw [same])
    generalize t.control = control at same
    subst same
    rw [coders, sched, store]
    dsimp only
    refine ⟨⟨fun mode => ?_, other⟩, later.trans now, sequence, coded, repeats,
      landed, handed, mode, ⟨cut, fullness, forced, q, pictureCoded_listed flying, ?_⟩, fun d apart => ?_, ?_,
      ?_, ?_, ?_⟩
    · obtain ⟨buffer, waits, room⟩ := live mode
      exact ⟨buffer.trans joined, waits, room⟩
    · intro recording writing id g filling found _ incomplete next goesOn room limit
      obtain ⟨pins, stored⟩ := pictureCoded_stored flying recording writing filling
        ((segment?_congr (congrArg Store.segments store)).symm.trans found) incomplete next goesOn room limit
      exact ⟨_, (segments id).trans stored, rfl⟩
    · have channel : (serve (pictureCodedEvent c z)).coders[d] = _ := service.coder d
      rw [event.others d apart] at channel
      refine ⟨?_, ?_, ?_, ?_⟩ <;> exact (congrArg _ channel).trans rfl
    · exact ports.trans (by rw [elapses]; rfl)
    · exact (service.timing.trans event.timing).trans (by rw [elapses]; rfl)
    · exact (service.mixer.trans event.mixer).trans (by rw [elapses]; rfl)
    · exact pending.trans (by rw [elapses]; rfl)

end Sys2Proof.Machine

namespace Sys2Proof.Machine

/-! ## A close that keeps its whole range (R97, R98, R101) -/

section reading

variable {s u : State} {k : Clip} {range : List Nat}

/-- What a close reads of a segment: its digest and its last picture. -/
def essence (g : Segment) : Digest × Timecode := (g.digest, lastPicture g)

/-- Two states of which a close of a range reads the same. -/
def ReadsAlike (range : List Nat) (s u : State) : Prop :=
  u.timing = s.timing ∧ ∀ id ∈ range, (u.segment? id).map essence = (s.segment? id).map essence

theorem ReadsAlike.digestOf (h : ReadsAlike range s u) : u.digestOf range = s.digestOf range := by
  obtain ⟨-, same⟩ := h
  have digest : ∀ id ∈ range, (u.segment? id).map (·.digest) = (s.segment? id).map (·.digest) := by
    intro id inside
    have alike := congrArg (Option.map Prod.fst) (same id inside)
    rwa [Option.map_map, Option.map_map] at alike
  unfold State.digestOf
  rw [List.filterMap_congr digest]

theorem ReadsAlike.lastOf (h : ReadsAlike k.range s u) : u.lastOf k = s.lastOf k := by
  obtain ⟨-, same⟩ := h
  unfold State.lastOf
  cases last : k.range.getLast? with
  | none => rfl
  | some id =>
    have alike := congrArg (Option.map Prod.snd) (same id (List.mem_of_getLast? last))
    simp only [Option.map_map] at alike
    exact congrArg (Option.getD · k.inPoint) alike

theorem ReadsAlike.closedClip (h : ReadsAlike k.range s u) (out : Option Nat) (last : Timecode) :
    u.closedClip k out [] last = s.closedClip k out [] last := by
  have range : (k.range.filter fun id => !([] : List Nat).contains id) = k.range := by simp
  have digest := h.digestOf
  obtain ⟨timing, -⟩ := h
  unfold State.closedClip State.earlier State.age
  simp only [range, digest, timing]

end reading

section whole

variable {s u : State} {id : Nat} {k : Clip}

/-- A range that ends with a segment, or does not hold it, has nothing after it. -/
theorem segmentsAfter_of_last {range : List Nat} (once : range.Nodup) (last : id ∈ range → range.getLast? = some id) :
    segmentsAfter (some id) range = [] := by
  show (range.dropWhile (· != id)).drop 1 = []
  by_cases inside : id ∈ range
  · obtain ⟨before, split⟩ := List.getLast?_eq_some_iff.mp (last inside)
    have fresh : id ∉ before := by
      rw [split, List.nodup_append] at once
      exact fun h => once.2.2 id h id (by simp) rfl
    have skipped : ∀ x ∈ before, (x != id) = true := fun x h => by simpa using fun same : x = id => fresh (same ▸ h)
    rw [split, List.dropWhile_append_of_pos skipped]
    simp
  · have all : range.dropWhile (· != id) = [] :=
      List.dropWhile_eq_nil_iff.mpr fun x h => by simpa using fun same : x = id => inside (same ▸ h)
    simp [all]

theorem segmentsAfter_getLast? {range : List Nat} (once : range.Nodup) : segmentsAfter range.getLast? range = [] := by
  cases last : range.getLast? with
  | none => exact List.getLast?_eq_none_iff.mp last
  | some id => exact segmentsAfter_of_last once fun _ => last

/-- A change of the clip table that changes one record, and neither the store nor the time. -/
structure OneClip (id : Nat) (change : Clip → Clip) (s u : State) : Prop where
  store : u.store = s.store
  timing : u.timing = s.timing
  ids : u.clipLog.clips.map (·.id) = s.clipLog.clips.map (·.id)
  clips : ∀ i, u.clip? i = if i = id then (s.clip? i).map change else s.clip? i

theorem gapsAfterClose_nil (s : State) (out : Timecode) (gaps : List Gap) :
    gapsAfterClose s out [] gaps = (gaps.filter fun gap =>
        gap.follows.all (fun id => !([] : List Nat).contains id) && !s.earlier out gap.start).map fun gap =>
      { gap with count := some (gap.count.getD (distance s.timing.rate gap.start out)) } := by
  unfold gapsAfterClose
  congr 2
  funext gap
  cases gap.follows <;> rfl

theorem clip?_modClip_eq {f : Clip → Clip} (hf : ∀ k, (f k).id = k.id) (i : Nat) :
    (s.modClip id f).clip? i = if i = id then (s.clip? i).map f else s.clip? i := by
  split
  · next same =>
    subst same
    cases found : s.clip? i with
    | none => exact clip?_modClip_none hf found
    | some k => exact clip?_modClip_same hf found
  · next other => exact clip?_modClip_other hf other

theorem modClip_ids {f : Clip → Clip} (hf : ∀ k, (f k).id = k.id) :
    (s.modClip id f).clipLog.clips.map (·.id) = s.clipLog.clips.map (·.id) := by
  have same : ∀ k : Clip, (if k.id = id then f k else k).id = k.id := by
    intro k
    split <;> simp [hf]
  simp [State.modClip, Function.comp_def, same]

/-- The record that a close which loses nothing leaves, its gaps reckoned and its digest summed beforehand. -/
def wholeClose (s : State) (k : Clip) (out : Option Nat) (c : Clip) : Clip :=
  let outPoint := k.outPoint.getD k.inPoint
  let range := k.range.filter fun g => !([] : List Nat).contains g
  let gaps := gapsAfterClose s outPoint [] k.gaps
  { c with
    range := range
    gaps := gaps
    outPoint := some outPoint
    inPending := false
    outPending := false
    cursor := c.cursor.map (cutCursor [] out gaps.length)
    closeDigest := some (s.digestOf range)
    record := .closed
    outSegment := none
    closeOrigin := none }

theorem wholeClose_self (s : State) (k : Clip) (out : Option Nat) :
    wholeClose s k out k = s.closedClip k out [] (k.outPoint.getD k.inPoint) := by
  unfold wholeClose State.closedClip
  simp only [gapsAfterClose_nil]

/-- A close that loses no segment of its range completes as the record says (R101). -/
theorem completeClose_whole (out : Option Nat) (cause : CloseCause)
    (whole : ∀ k, s.clip? id = some k → segmentsAfter out k.range = []) :
    OneClip id (fun k => s.closedClip k out [] (k.outPoint.getD k.inPoint)) s (completeClose id out cause s) := by
  cases found : s.clip? id with
  | none =>
    have idle : completeClose id out cause s = s := by
      unfold completeClose
      rw [found]
    rw [idle]
    refine ⟨rfl, rfl, rfl, fun i => ?_⟩
    split
    · next same => rw [same, found]; rfl
    · rfl
  | some k =>
    have close : (completeClose id out cause s).clipLog.clips = (s.modClip id (wholeClose s k out)).clipLog.clips
        ∧ (completeClose id out cause s).store = s.store ∧ (completeClose id out cause s).timing = s.timing := by
      unfold completeClose
      rw [found]
      simp only [whole k found, raise_clipLog, raise_store, raise_timing]
      refine ⟨?_, rfl, rfl⟩
      show List.map _ (List.map _ s.clipLog.clips) = List.map _ s.clipLog.clips
      rw [List.map_map]
      refine List.map_congr_left fun c _ => ?_
      by_cases same : c.id = id <;> simp [same, wholeClose]
    obtain ⟨clips, store, timing⟩ := close
    refine ⟨store, timing, by rw [clips]; exact modClip_ids fun _ => rfl, fun i => ?_⟩
    rw [clip?_congr clips, clip?_modClip_eq (by exact fun _ => rfl)]
    split
    · next same =>
      rw [same, found, Option.map_some, Option.map_some, wholeClose_self]
    · rfl

/-- A close at the end of the range (R98). -/
theorem closeAtEnd_whole (cause : CloseCause) (once : ∀ k, s.clip? id = some k → k.range.Nodup) :
    OneClip id (fun k => s.closedClip k k.range.getLast? [] (s.lastOf k)) s (closeAtEnd id cause s) := by
  cases found : s.clip? id with
  | none =>
    have idle : closeAtEnd id cause s = s := by
      unfold closeAtEnd
      rw [found]
    rw [idle]
    refine ⟨rfl, rfl, rfl, fun i => ?_⟩
    split
    · next same => rw [same, found]; rfl
    · rfl
  | some k =>
    have close : closeAtEnd id cause s =
        completeClose id k.range.getLast? cause (s.modClip id fun c => { c with outPoint := some (s.lastOf k) }) := by
      unfold closeAtEnd
      rw [found]
      rfl
    have named : ∀ i, (s.modClip id fun c => { c with outPoint := some (s.lastOf k) }).clip? i = _ :=
      clip?_modClip_eq (by exact fun _ => rfl)
    obtain ⟨store, timing, ids, clips⟩ := completeClose_whole (s := s.modClip id fun c =>
      { c with outPoint := some (s.lastOf k) }) (id := id) k.range.getLast? cause fun c here => by
        rw [named, if_pos rfl, found] at here
        obtain rfl := Option.some.inj here
        exact segmentsAfter_getLast? (once k found)
    rw [close]
    refine ⟨store, timing, ids.trans (modClip_ids (by exact fun _ => rfl)), fun i => ?_⟩
    rw [clips, named]
    split
    · next same =>
      rw [same, found, Option.map_some, Option.map_some, Option.map_some]
      rfl
    · rfl

/-- A change of some records, each by the same rule, of neither the store nor the time. -/
structure SomeClips (names : List Nat) (change : Clip → Clip) (s u : State) : Prop where
  store : u.store = s.store
  timing : u.timing = s.timing
  ids : u.clipLog.clips.map (·.id) = s.clipLog.clips.map (·.id)
  clips : ∀ i, u.clip? i = if i ∈ names then (s.clip? i).map change else s.clip? i

/-- Changes of one record after another, each record once. -/
theorem SomeClips.foldl {ι : Type} {key : ι → Nat} {f : State → ι → State} {change : State → Clip → Clip} (ok : Clip → Prop)
    (step : ∀ u a, (∀ i k, u.clip? i = some k → ok k) → OneClip (key a) (change u) u (f u a))
    (alike : ∀ u v : State, v.store = u.store → v.timing = u.timing → change v = change u)
    (kept : ∀ u k, ok k → ok (change u k)) (l : List ι) (once : (l.map key).Nodup) (u : State)
    (all : ∀ i k, u.clip? i = some k → ok k) : SomeClips (l.map key) (change u) u (l.foldl f u) := by
  induction l generalizing u with
  | nil => exact ⟨rfl, rfl, rfl, fun _ => by simp⟩
  | cons a rest ih =>
    obtain ⟨fresh, once⟩ := List.nodup_cons.mp once
    obtain ⟨store, timing, ids, clips⟩ := step u a all
    have all' : ∀ i k, (f u a).clip? i = some k → ok k := by
      intro i k found
      rw [clips] at found
      split at found
      · obtain ⟨k', found', rfl⟩ := Option.map_eq_some_iff.mp found
        exact kept u k' (all i k' found')
      · exact all i k found
    obtain ⟨store', timing', ids', clips'⟩ := ih once (f u a) all'
    refine ⟨store'.trans store, timing'.trans timing, ids'.trans ids, fun i => ?_⟩
    rw [List.foldl_cons, clips', clips, alike _ _ store timing, List.map_cons]
    by_cases first : i = key a
    · rw [if_neg (first ▸ fresh), if_pos first, if_pos (by simp [first])]
    · simp [first]

theorem closedClip_range (s : State) (k : Clip) (out : Option Nat) (last : Timecode) :
    (s.closedClip k out [] last).range = k.range := by simp [State.closedClip]

theorem ReadsAlike.of_same (store : u.store = s.store) (timing : u.timing = s.timing) (range : List Nat) :
    ReadsAlike range s u :=
  ⟨timing, fun id _ => by rw [segment?_congr (id := id) (congrArg Store.segments store)]⟩

/-- The ids of the records that satisfy a test. -/
theorem mem_clipsWhere {p : Clip → Bool} (once : (s.clipLog.clips.map (·.id)).Nodup) {i : Nat} (found : s.clip? i = some k) :
    i ∈ (s.clipLog.clips.filter p).map (·.id) ↔ p k = true := by
  have here : k ∈ s.clipLog.clips := List.mem_of_find?_eq_some found
  have named : k.id = i := by simpa using List.find?_some found
  refine ⟨fun h => ?_, fun h => List.mem_map.mpr ⟨k, List.mem_filter.mpr ⟨here, h⟩, named⟩⟩
  obtain ⟨k', h', same⟩ := List.mem_map.mp h
  obtain ⟨here', holds⟩ := List.mem_filter.mp h'
  rwa [List.inj_on_of_nodup_map once here' here (same.trans named.symm)] at holds

theorem clipsWhere_nodup (p : Clip → Bool) (once : (s.clipLog.clips.map (·.id)).Nodup) :
    ((s.clipLog.clips.filter p).map (·.id)).Nodup :=
  once.sublist (List.filter_sublist.map _)

/-- The closes that wait on a segment complete when it does (R72, R101). -/
theorem completeCloses_whole (segment : Nat) (once : (s.clipLog.clips.map (·.id)).Nodup)
    (whole : ∀ i k, s.clip? i = some k → segmentsAfter (some segment) k.range = []) :
    SomeClips ((s.clipLog.clips.filter fun c => c.record == .closing && c.outSegment == some segment).map (·.id))
      (fun k => s.closedClip k (some segment) [] (k.outPoint.getD k.inPoint)) s (completeCloses segment s) := by
  refine SomeClips.foldl (key := fun c : Clip => c.id)
    (change := fun u k => u.closedClip k (some segment) [] (k.outPoint.getD k.inPoint))
    (fun k => segmentsAfter (some segment) k.range = []) (fun u c all => ?_) (fun u v store timing => ?_) (fun u k h => ?_) _
    (clipsWhere_nodup _ once) s whole
  · exact completeClose_whole _ _ (all c.id)
  · funext k
    exact (ReadsAlike.of_same store timing k.range).closedClip _ _
  · rw [closedClip_range]
    exact h

/-- The OPEN clips of a channel that leaves recording close at the end of their ranges (R98). -/
theorem closeOpenClips_whole (c : Fin 6) (once : (s.clipLog.clips.map (·.id)).Nodup)
    (ranges : ∀ i k, s.clip? i = some k → k.range.Nodup) :
    SomeClips (s.clipsWhere (openOn c)) (fun k => s.closedClip k k.range.getLast? [] (s.lastOf k)) s
      (closeOpenClips c s) := by
  have fold := SomeClips.foldl (key := fun i : Nat => i) (f := fun u i => closeAtEnd i .leave u)
    (change := fun u k => u.closedClip k k.range.getLast? [] (u.lastOf k)) (fun k => k.range.Nodup)
    (fun u i all => closeAtEnd_whole .leave (all i)) (fun u v store timing => ?_) (fun u k h => ?_) (s.clipsWhere (openOn c))
    (by rw [List.map_id']; exact clipsWhere_nodup _ once) s ranges
  · rwa [List.map_id'] at fold
  · funext k
    have same := ReadsAlike.of_same store timing k.range
    rw [same.closedClip, same.lastOf]
  · rw [closedClip_range]
    exact h

end whole

end Sys2Proof.Machine

namespace Sys2Proof.Machine

/-! ## The segment that closes as its channel leaves recording (R71, R72, R73) -/

section leave

variable {c : Fin 6} {s : State} {g : Segment}

/-- A segment that closed as its channel left recording: padded to whole words, and complete. -/
def Segment.left (g : Segment) : Segment :=
  { g with state := .complete, closeReason := some .leave, byteLength := g.byteLength + g.byteLength % 2 }

/-- The pad byte changes the memory and one record. -/
theorem padSegment_frame (g : Segment) (s : State) :
    ∃ dram lineErrors uncorrectable segments freeReads, padSegment g s = { s with
      store := { s.store with
        dram := dram, lineErrors := lineErrors, uncorrectable := uncorrectable, segments := segments }
      freeReads := freeReads } := by
  unfold padSegment
  split
  · exact ⟨_, _, _, _, _, rfl⟩
  · obtain ⟨_, _, _, _, write⟩ := writeSegment_frame g.pages g.byteLength [0] s
    rw [write]
    exact ⟨_, _, _, _, _, rfl⟩

/-- The record after the pad byte has an even byte length, and every other record is as it was (R71). -/
theorem padSegment_segment? (found : s.segment? g.id = some g) (id : Nat) : (padSegment g s).segment? id =
    if id = g.id then some { g with byteLength := g.byteLength + g.byteLength % 2 } else s.segment? id := by
  unfold padSegment
  by_cases even : g.byteLength % 2 = 0
  · rw [if_pos even, even]
    split
    · next same => rw [same, found]; rfl
    · rfl
  · obtain ⟨segments, -⟩ := writeSegment_segments g.pages g.byteLength [0] s
    rw [if_neg even, show g.byteLength % 2 = 1 by omega]
    split
    · next same =>
      rw [same]
      exact segment?_modSegment_same (by intro _; rfl) ((segment?_congr segments).trans found)
    · next other =>
      rw [segment?_modSegment_other (by intro _; rfl) other, segment?_congr segments]

/-- The state in which the closes that wait on the segment complete. -/
structure Leaving (c : Fin 6) (g : Segment) (s b : State) : Prop where
  control : b.control = s.control
  timing : b.timing = s.timing
  clipLog : b.clipLog = s.clipLog
  alloc : b.alloc = s.alloc
  coders : b.coders = vecModify s.coders c fun k => { k with filling := none }
  writers : b.store.writers = s.store.writers
  freePool : b.store.freePool = s.store.freePool
  completion : b.store.completion = s.store.completion ++ [g.id]
  segments : ∀ id, b.segment? id = if id = g.id then some g.left else s.segment? id
  closed : closeSegment c .leave s =
    if g.pinCount = 0 then reclaimPages (completeCloses g.id b) else completeCloses g.id b

theorem closeSegment_leaving (here : s.fillingSegment c = some g) : ∃ b, Leaving c g s b := by
  have found : s.segment? g.id = some g := by
    obtain ⟨id, -, found⟩ := Option.bind_eq_some_iff.mp here
    rwa [id_of_segment? found]
  have closed : closeSegment c .leave s = if g.pinCount = 0 then
      reclaimPages (completeCloses g.id ((((padSegment g s).modSegment g.id fun g =>
        { g with state := .complete, closeReason := some .leave }).modStore fun st =>
          { st with completion := st.completion ++ [g.id] }).modCoder c fun k => { k with filling := none }))
      else completeCloses g.id ((((padSegment g s).modSegment g.id fun g =>
        { g with state := .complete, closeReason := some .leave }).modStore fun st =>
          { st with completion := st.completion ++ [g.id] }).modCoder c fun k => { k with filling := none }) := by
    unfold closeSegment
    rw [here]
  have padded := padSegment_segment? found
  obtain ⟨_, _, _, _, _, frame⟩ := padSegment_frame g s
  refine ⟨_, ?_, ?_, ?_, ?_, ?_, ?_, ?_, ?_, fun id => ?_, closed⟩
  case refine_9 =>
    refine (segment?_modSegment (s := padSegment g s) (by intro _; rfl)).trans ?_
    rw [padded]
    split
    · next same => simp [Segment.left]
    · next other =>
      cases here : s.segment? id with
      | none => rfl
      | some h => rw [Option.map_some, if_neg (by rw [id_of_segment? here]; exact other)]
  all_goals
    rw [frame]
    rfl

/-- What the closes of a channel that leaves recording ask of the clips: ids and ranges without repetition, no range that
goes on after the filling segment, and every segment of a range safe from reclaim. -/
structure Closable (c : Fin 6) (s : State) : Prop where
  once : (s.clipLog.clips.map fun k => k.id).Nodup
  ranges : ∀ k ∈ s.clipLog.clips, k.range.Nodup ∧
    ∀ id ∈ s.coders[c].filling, id ∈ k.range → k.range.getLast? = some id
  held : 256 ≤ s.store.freePool.length
    ∨ ∀ k ∈ s.clipLog.clips, ∀ id ∈ k.range, ∀ g, s.segment? id = some g → 0 < g.pinCount

/-- The clip waits on the filling segment of the channel. -/
abbrev waitsOn (c : Fin 6) (s : State) (k : Clip) : Prop :=
  k.record = .closing ∧ (s.fillingSegment c).isSome ∧ k.outSegment = s.coders[c].filling

/-- A clip once the filling segment of the channel has closed. -/
def afterSegment (c : Fin 6) (s : State) (k : Clip) : Clip :=
  if waitsOn c s k then s.closedClip k s.coders[c].filling [] (k.outPoint.getD k.inPoint) else k

/-- What the close of the filling segment leaves for the closes that follow. -/
structure SegmentLeft (c : Fin 6) (s u : State) : Prop where
  timing : u.timing = s.timing
  writers : u.store.writers = s.store.writers
  ids : u.clipLog.clips.map (·.id) = s.clipLog.clips.map (·.id)
  alike : ∀ k ∈ s.clipLog.clips, ReadsAlike k.range s u
  clips : ∀ i, u.clip? i = (s.clip? i).map (afterSegment c s)

theorem mem_of_clip? {i : Nat} {k : Clip} (found : s.clip? i = some k) : k ∈ s.clipLog.clips :=
  List.mem_of_find?_eq_some found

theorem segment_of_filling (here : s.fillingSegment c = some g) : s.coders[c].filling = some g.id ∧ s.segment? g.id = some g := by
  obtain ⟨id, filling, found⟩ := Option.bind_eq_some_iff.mp here
  rw [id_of_segment? found]
  exact ⟨filling, found⟩

/-- Reclaim leaves what a close reads of a range whose segments are safe. -/
theorem ReadsAlike.reclaimPages {u : State} {range : List Nat} (h : ReadsAlike range s u)
    (held : 256 ≤ u.store.freePool.length ∨ ∀ id ∈ range, ∀ g, u.segment? id = some g → 0 < g.pinCount) :
    ReadsAlike range s (reclaimPages u) := by
  rcases held with reserve | pinned
  · rw [reclaimPages_of_reserve reserve]
    exact h
  · obtain ⟨timing, same⟩ := h
    refine ⟨(reclaimPages_only u).timing.trans timing, fun id inside => ?_⟩
    rw [← same id inside]
    cases found : u.segment? id with
    | none => rw [Machine.reclaimPages, reclaimLoop_of_none _ found]
    | some g => rw [Spared.reclaimPages (.inr ⟨g, found, pinned id inside g found⟩), found]

theorem Leaving.alike {b : State} (h : Leaving c g s b) (found : s.segment? g.id = some g) (range : List Nat) :
    ReadsAlike range s b := by
  refine ⟨h.timing, fun id _ => ?_⟩
  rw [h.segments]
  split
  · next same =>
    rw [same, found]
    rfl
  · rfl

/-- The close of the filling segment, and of the clips that wait on it (R72). -/
theorem closeSegment_left (closable : Closable c s) : SegmentLeft c s (closeSegment c .leave s) := by
  obtain ⟨once, ranges, held⟩ := closable
  cases here : s.fillingSegment c with
  | none =>
    have idle : closeSegment c .leave s = s := by
      unfold closeSegment
      rw [here]
    have stays : ∀ k, afterSegment c s k = k := fun k => if_neg fun ⟨_, waits, _⟩ => by simp [here] at waits
    rw [idle]
    refine ⟨rfl, rfl, rfl, fun k _ => ⟨rfl, fun _ _ => rfl⟩, fun i => ?_⟩
    rw [funext stays]
    simp
  | some g =>
    obtain ⟨filling, found⟩ := segment_of_filling here
    obtain ⟨b, leaving⟩ := closeSegment_leaving here
    have named : ∀ i, b.clip? i = s.clip? i := fun i => clip?_congr (congrArg ClipLog.clips leaving.clipLog)
    have closes := completeCloses_whole (s := b) g.id (by rw [leaving.clipLog]; exact once) fun i k waits => by
      rw [named] at waits
      obtain ⟨distinct, last⟩ := ranges k (mem_of_clip? waits)
      exact segmentsAfter_of_last distinct (last g.id filling)
    have waiting : SegmentLeft c s (completeCloses g.id b) := by
      refine ⟨closes.timing.trans leaving.timing, by rw [closes.store, leaving.writers], ?_, fun k _ => ?_, fun i => ?_⟩
      · rw [closes.ids, leaving.clipLog]
      · obtain ⟨timing, same⟩ := leaving.alike found k.range
        exact ⟨closes.timing.trans timing, fun id inside => by
          rw [segment?_congr (congrArg Store.segments closes.store), same id inside]⟩
      · rw [closes.clips, leaving.clipLog, named]
        cases clip : s.clip? i with
        | none => simp
        | some k =>
          have waits := mem_clipsWhere (p := fun k => k.record == .closing && k.outSegment == some g.id) once clip
          simp only [Bool.and_eq_true, beq_iff_eq] at waits
          have iff : waitsOn c s k ↔ k.record = .closing ∧ k.outSegment = some g.id := by
            rw [waitsOn, here, filling]
            simp
          rw [Option.map_some, Option.map_some, afterSegment]
          by_cases ends : k.record = .closing ∧ k.outSegment = some g.id
          · rw [if_pos (waits.mpr ends), if_pos (iff.mpr ends), (leaving.alike found k.range).closedClip, filling]
          · rw [if_neg fun h => ends (waits.mp h), if_neg fun h => ends (iff.mp h)]
    rw [leaving.closed]
    split
    · refine ⟨(reclaimPages_only _).timing.trans waiting.timing, ?_, ?_, fun k inside => ?_, fun i => ?_⟩
      · rw [(reclaimPages_only _), waiting.writers]
      · rw [(reclaimPages_only _).clipLog, waiting.ids]
      · refine (waiting.alike k inside).reclaimPages ?_
        rw [closes.store, leaving.freePool]
        refine held.imp_right fun pinned id member h here => ?_
        rw [segment?_congr (congrArg Store.segments closes.store), leaving.segments] at here
        split at here
        · next same =>
          obtain rfl := Option.some.inj here
          exact pinned k inside id member g (same ▸ found)
        · exact pinned k inside id member h here
      · rw [clip?_congr (congrArg ClipLog.clips (reclaimPages_only _).clipLog), waiting.clips]
    · exact waiting

/-! ### The pause and the OPEN clips (R73, R97, R98) -/

/-- The open gaps of a clip counted up to a timecode (R97). -/
def countGaps (rate : PictureRate) (stop : Timecode) (k : Clip) : Clip :=
  { k with gaps := k.gaps.map fun gap => { gap with count := some (gap.count.getD (distance rate gap.start stop)) } }

/-- A clip once the pause of its channel, if any, has ended. -/
def afterPause (c : Fin 6) (s : State) (k : Clip) : Clip :=
  if s.store.writers[c].state = .paused ∧ openOn c k = true then countGaps s.timing.rate s.timing.timecode k else k

/-- The state in which the OPEN clips of the channel close: the pause over and the writer IDLE. -/
def endedPause (c : Fin 6) (u : State) : State :=
  (if u.store.writers[c].state = .paused then endPause c none (closeGaps c u.timing.timecode u) else u).modWriter c
    fun _ => resetWriter

theorem leaveRecording_eq (c : Fin 6) (s : State) :
    leaveRecording c s = closeOpenClips c (endedPause c (closeSegment c .leave s)) := rfl

theorem openOn_afterPause (k : Clip) : openOn c (afterPause c s k) = openOn c k := by
  unfold afterPause
  split <;> rfl

theorem afterPause_range (k : Clip) : (afterPause c s k).range = k.range := by
  unfold afterPause
  split <;> rfl

theorem afterSegment_range (k : Clip) : (afterSegment c s k).range = k.range := by
  unfold afterSegment
  split
  · exact closedClip_range _ _ _ _
  · rfl

theorem afterPause_lastOf (k : Clip) : s.lastOf (afterPause c s k) = s.lastOf k := by
  unfold afterPause
  split <;> rfl

/-- The record of the clip table once every record has changed under its id. -/
theorem find?_map_records {f : Clip → Clip} (same : ∀ k, (f k).id = k.id) (clips : List Clip) (i : Nat) :
    ((clips.map f).find? fun k => k.id == i) = (clips.find? fun k => k.id == i).map f := by
  rw [List.find?_map]
  simp only [Function.comp_def, same]

theorem countGaps_id (rate : PictureRate) (stop : Timecode) (k : Clip) :
    (if openOn c k then countGaps rate stop k else k).id = k.id := by
  split <;> rfl

/-- The end of a pause reaches the clips and the writer of its channel. -/
theorem endedPause_left (c : Fin 6) (u : State) :
    (endedPause c u).timing = u.timing ∧ (endedPause c u).store.segments = u.store.segments
      ∧ (endedPause c u).store.completion = u.store.completion
      ∧ (endedPause c u).clipLog.clips.map (·.id) = u.clipLog.clips.map (·.id)
      ∧ ∀ i, (endedPause c u).clip? i = (u.clip? i).map (afterPause c u) := by
  unfold endedPause
  by_cases paused : u.store.writers[c].state = .paused
  · have counted : ∀ k, afterPause c u k = if openOn c k then countGaps u.timing.rate u.timing.timecode k else k := by
      intro k
      simp only [afterPause, paused, true_and]
    rw [if_pos paused, endPause, raise_of_not_protocol _ rfl]
    refine ⟨rfl, rfl, rfl, ?_, fun i => ?_⟩
    · show (u.clipLog.clips.map fun k => if openOn c k then countGaps u.timing.rate u.timing.timecode k else k).map _ = _
      rw [List.map_map]
      exact List.map_congr_left fun k _ => countGaps_id _ _ k
    · rw [funext counted]
      exact find?_map_records (countGaps_id _ _) u.clipLog.clips i
  · have stays : ∀ k, afterPause c u k = k := fun k => if_neg fun ⟨h, _⟩ => paused h
    rw [if_neg paused]
    refine ⟨rfl, rfl, rfl, rfl, fun i => ?_⟩
    rw [funext stays, Option.map_id']
    rfl

theorem openOn_iff {k : Clip} : openOn c k = true ↔ k.record = .opened ∧ k.channel = c := by simp [openOn]

theorem SegmentLeft.afterPause {u : State} (left : SegmentLeft c s u) : afterPause c u = afterPause c s := by
  unfold Machine.afterPause
  rw [left.timing, left.writers]

/-- The closes of the OPEN clips take each once, over ranges without repetition. -/
theorem leaveRecording_closes (closable : Closable c s) :
    SomeClips ((endedPause c (closeSegment c .leave s)).clipsWhere (openOn c))
      (fun k => (endedPause c (closeSegment c .leave s)).closedClip k k.range.getLast? []
        ((endedPause c (closeSegment c .leave s)).lastOf k))
      (endedPause c (closeSegment c .leave s)) (closeOpenClips c (endedPause c (closeSegment c .leave s))) := by
  have left := closeSegment_left closable
  obtain ⟨-, -, -, ids, paused⟩ := endedPause_left c (closeSegment c .leave s)
  refine closeOpenClips_whole c ?_ fun j k' here => ?_
  · rw [ids, left.ids]
    exact closable.once
  · rw [paused, left.clips, Option.map_map] at here
    obtain ⟨k, found, rfl⟩ := Option.map_eq_some_iff.mp here
    rw [Function.comp_apply, afterPause_range, afterSegment_range]
    exact (closable.ranges k (mem_of_clip? found)).1

/-- The clips once their channel has left recording: those that waited on its filling segment, and its OPEN clips, are
closed (R73, R97, R98). -/
theorem leaveRecording_clips (closable : Closable c s) {i : Nat} {k : Clip} (found : s.clip? i = some k) :
    (leaveRecording c s).clip? i = some (if openOn c k then
        s.closedClip (afterPause c s k) k.range.getLast? [] (s.lastOf k)
      else afterSegment c s k) := by
  have left := closeSegment_left closable
  obtain ⟨timing, segments, -, ids, paused⟩ := endedPause_left c (closeSegment c .leave s)
  rw [left.afterPause] at paused
  have named : ∀ j, (endedPause c (closeSegment c .leave s)).clip? j =
      ((s.clip? j).map (afterSegment c s)).map (afterPause c s) := fun j => by rw [paused, left.clips]
  have alike : ReadsAlike k.range s (endedPause c (closeSegment c .leave s)) := by
    obtain ⟨timing', same⟩ := left.alike k (mem_of_clip? found)
    exact ⟨timing.trans timing', fun id inside => by rw [segment?_congr segments, same id inside]⟩
  have once : ((endedPause c (closeSegment c .leave s)).clipLog.clips.map (·.id)).Nodup := by
    rw [ids, left.ids]
    exact closable.once
  have closes := leaveRecording_closes closable
  have here := (named i).trans (by rw [found, Option.map_some, Option.map_some])
  have opens : i ∈ (endedPause c (closeSegment c .leave s)).clipsWhere (openOn c) ↔ _ := mem_clipsWhere once here
  rw [leaveRecording_eq, closes.clips, here, Option.map_some]
  rw [openOn_afterPause] at opens
  by_cases opened : openOn c k = true
  · have stays : afterSegment c s k = k := if_neg fun ⟨closing, _⟩ => by
      rw [(openOn_iff.mp opened).1] at closing
      exact nomatch closing
    rw [stays] at opens ⊢
    have range := afterPause_range (c := c) (s := s) k
    have alike' : ReadsAlike (afterPause c s k).range s (endedPause c (closeSegment c .leave s)) := by rw [range]; exact alike
    rw [if_pos (opens.mpr opened), if_pos opened, alike'.closedClip, alike'.lastOf, range, afterPause_lastOf]
  · have shut : ¬ openOn c (afterSegment c s k) = true := by
      unfold afterSegment
      split
      · exact fun h => nomatch (openOn_iff.mp h).1
      · exact opened
    have stays : afterPause c s (afterSegment c s k) = afterSegment c s k := if_neg fun ⟨_, h⟩ => shut h
    rw [if_neg fun h => shut (opens.mp h), if_neg opened, stays]

/-- The writer of the channel is IDLE afterwards, whatever its clips do (R73). -/
theorem leaveRecording_writer (c : Fin 6) (s : State) : (leaveRecording c s).store.writers[c] = ⟨.idle, none, 0⟩ := by
  rw [leaveRecording_eq, closeOpenClips_only]
  exact vecModify_same _ _ _

/-- A filling segment that reclaim may not free, or need not, is complete afterwards (R72, R73). -/
theorem leaveRecording_segment (closable : Closable c s) (here : s.fillingSegment c = some g)
    (held : 256 ≤ s.store.freePool.length ∨ 0 < g.pinCount) :
    (leaveRecording c s).segment? g.id = some g.left ∧ g.id ∈ (leaveRecording c s).store.completion := by
  obtain ⟨filling, -⟩ := segment_of_filling here
  obtain ⟨b, leaving⟩ := closeSegment_leaving here
  have named : ∀ i, b.clip? i = s.clip? i := fun i => clip?_congr (congrArg ClipLog.clips leaving.clipLog)
  have waits := completeCloses_whole (s := b) g.id (by rw [leaving.clipLog]; exact closable.once) fun i k found => by
    rw [named] at found
    obtain ⟨distinct, last⟩ := closable.ranges k (mem_of_clip? found)
    exact segmentsAfter_of_last distinct (last g.id filling)
  have closed : closeSegment c .leave s = completeCloses g.id b := by
    rw [leaving.closed]
    split
    · next unpinned =>
      refine reclaimPages_of_reserve ?_
      rw [waits.store, leaving.freePool]
      exact held.resolve_right (by omega)
    · rfl
  obtain ⟨-, segments, completion, -⟩ := endedPause_left c (closeSegment c .leave s)
  have closes := leaveRecording_closes closable
  rw [leaveRecording_eq]
  refine ⟨?_, ?_⟩
  · rw [segment?_congr (congrArg Store.segments closes.store), segment?_congr segments, closed,
      segment?_congr (congrArg Store.segments waits.store), leaving.segments, if_pos rfl]
  · rw [closes.store, completion, closed, waits.store, leaving.completion]
    simp

/-- Without clips, and with the reserve at hand, a channel that leaves recording raises STORE_RESUMED out of a pause, and
nothing else (R79). -/
theorem leaveRecording_control (noClips : s.clipLog.clips = []) (reserve : 256 ≤ s.store.freePool.length) :
    (leaveRecording c s).control = if s.store.writers[c].state = .paused then
        queueNotice ⟨.storeResumed c none (s.store.writers[c].gapStart.getD s.timing.timecode) s.store.writers[c].unstored,
          s.timing.timecode⟩ s.control
      else s.control := by
  have segment : (closeSegment c .leave s).control = s.control ∧ (closeSegment c .leave s).timing = s.timing
      ∧ (closeSegment c .leave s).clipLog = s.clipLog ∧ (closeSegment c .leave s).store.writers = s.store.writers := by
    cases here : s.fillingSegment c with
    | none =>
      have idle : closeSegment c .leave s = s := by
        unfold closeSegment
        rw [here]
      rw [idle]
      exact ⟨rfl, rfl, rfl, rfl⟩
    | some g =>
      obtain ⟨b, leaving⟩ := closeSegment_leaving here
      have none : completeCloses g.id b = b := by
        unfold completeCloses
        rw [leaving.clipLog, noClips]
        rfl
      rw [leaving.closed, none, reclaimPages_of_reserve (by rw [leaving.freePool]; exact reserve), ite_self]
      exact ⟨leaving.control, leaving.timing, leaving.clipLog, leaving.writers⟩
  obtain ⟨control, timing, clipLog, writers⟩ := segment
  have clips : (endedPause c (closeSegment c .leave s)).clipLog.clips = [] := by
    obtain ⟨-, -, -, ids, -⟩ := endedPause_left c (closeSegment c .leave s)
    rw [clipLog, noClips] at ids
    exact List.map_eq_nil_iff.mp ids
  have idle : closeOpenClips c (endedPause c (closeSegment c .leave s)) = endedPause c (closeSegment c .leave s) := by
    unfold closeOpenClips State.clipsWhere
    rw [clips]
    rfl
  rw [leaveRecording_eq, idle, endedPause, writers]
  split
  · rw [endPause, raise_of_not_protocol _ rfl]
    show queueNotice ⟨.storeResumed c none
      ((closeSegment c .leave s).store.writers[c].gapStart.getD (closeSegment c .leave s).timing.timecode)
      (closeSegment c .leave s).store.writers[c].unstored, (closeSegment c .leave s).timing.timecode⟩
      (closeSegment c .leave s).control = _
    rw [writers, timing, control]
  · exact control

end leave

end Sys2Proof.Machine

namespace Sys2Proof.Machine

/-! ## What leaving recording does not read or reach -/

/-! ### The channels' records and the control port are not read (R73) -/

/-- Two states that differ at most in the channels' records and in the control port. -/
def Beside (u v : State) : Prop := v = { u with coders := v.coders, control := v.control }

namespace Beside

variable {u v : State}

theorem store (h : Beside u v) : v.store = u.store := by rw [id h]

theorem timing (h : Beside u v) : v.timing = u.timing := by rw [id h]

theorem clipLog (h : Beside u v) : v.clipLog = u.clipLog := by rw [id h]

theorem alloc (h : Beside u v) : v.alloc = u.alloc := by rw [id h]

theorem segment? (h : Beside u v) (id : Nat) : v.segment? id = u.segment? id := segment?_congr (congrArg Store.segments h.store)

theorem clip? (h : Beside u v) (id : Nat) : v.clip? id = u.clip? id := clip?_congr (congrArg ClipLog.clips h.clipLog)

theorem modStore (h : Beside u v) (f : Store → Store) : Beside (u.modStore f) (v.modStore f) := by
  rw [id h]
  rfl

theorem modSegment (h : Beside u v) (id : Nat) (f : Segment → Segment) : Beside (u.modSegment id f) (v.modSegment id f) :=
  h.modStore _

theorem modReads (h : Beside u v) (f : DemandRead → DemandRead) : Beside (u.modReads f) (v.modReads f) := by
  rw [id h]
  rfl

theorem modClipLog (h : Beside u v) (f : ClipLog → ClipLog) : Beside (u.modClipLog f) (v.modClipLog f) := by
  rw [id h]
  rfl

theorem modClip (h : Beside u v) (id : Nat) (f : Clip → Clip) : Beside (u.modClip id f) (v.modClip id f) := h.modClipLog _

theorem modCoder (h : Beside u v) (c : Fin 6) (f : CoderChannel → CoderChannel) :
    Beside (u.modCoder c f) (v.modCoder c f) := by
  rw [id h]
  rfl

theorem raise (h : Beside u v) {body : NoticeBody} (hb : protocolPath body = none) :
    Beside (Machine.raise body u) (Machine.raise body v) := by
  rw [raise_of_not_protocol u hb, raise_of_not_protocol v hb]
  rw [id h]
  rfl

theorem foldl {ι : Type} {f : State → ι → State} (step : ∀ u v a, Beside u v → Beside (f u a) (f v a)) (l : List ι)
    (h : Beside u v) : Beside (l.foldl f u) (l.foldl f v) := by
  induction l generalizing u v with
  | nil => exact h
  | cons a rest ih => exact ih (step u v a h)

/-! #### Reclaim and pins -/

theorem releasePages (bad pages : List Nat) (h : Beside u v) :
    Beside (Machine.releasePages bad pages u) (Machine.releasePages bad pages v) := by
  induction pages generalizing u v with
  | nil => exact h
  | cons page rest ih =>
    rw [Machine.releasePages, Machine.releasePages]
    refine ih ?_
    split
    · exact (h.modStore _).raise rfl
    · exact h.modStore _

theorem freeSegment (id : Nat) (h : Beside u v) : Beside (Machine.freeSegment id u) (Machine.freeSegment id v) := by
  unfold Machine.freeSegment
  rw [h.segment?]
  split
  · exact h
  · exact ((h.releasePages _ _).modReads _).modStore _

theorem firstUnpinned (h : Beside u v) : v.firstUnpinned = u.firstUnpinned := by
  unfold State.firstUnpinned
  rw [h.store, funext h.segment?]

theorem reclaimLoop (n : Nat) (h : Beside u v) : Beside (Machine.reclaimLoop n u) (Machine.reclaimLoop n v) := by
  induction n generalizing u v with
  | zero => exact h
  | succ n ih =>
    rw [Machine.reclaimLoop, Machine.reclaimLoop, h.store, h.firstUnpinned]
    split
    · split
      · exact ih (h.freeSegment _)
      · exact h
    · exact h

theorem reclaimPages (h : Beside u v) : Beside (Machine.reclaimPages u) (Machine.reclaimPages v) := by
  unfold Machine.reclaimPages
  rw [h.store]
  exact h.reclaimLoop _

theorem unpin (id : Nat) (h : Beside u v) : Beside (Machine.unpin id u) (Machine.unpin id v) := by
  have pinned := h.modSegment id fun g => { g with pinCount := g.pinCount - 1 }
  unfold Machine.unpin
  simp only
  rw [pinned.segment?]
  split
  · split
    · exact pinned.reclaimPages
    · exact pinned
  · exact pinned

theorem unpinAll (ids : List Nat) (h : Beside u v) : Beside (Machine.unpinAll ids u) (Machine.unpinAll ids v) :=
  h.foldl (fun _ _ id h => h.unpin id) ids

/-! #### Closes -/

theorem gapsAfterClose (h : Beside u v) (out : Timecode) (removed : List Nat) (gaps : List Gap) :
    Machine.gapsAfterClose v out removed gaps = Machine.gapsAfterClose u out removed gaps := by
  unfold Machine.gapsAfterClose State.earlier State.age
  rw [h.timing]

theorem digestOf (h : Beside u v) (range : List Nat) : v.digestOf range = u.digestOf range := by
  unfold State.digestOf
  rw [funext h.segment?]

theorem completeClose (id : Nat) (out : Option Nat) (cause : CloseCause) (h : Beside u v) :
    Beside (Machine.completeClose id out cause u) (Machine.completeClose id out cause v) := by
  unfold Machine.completeClose
  rw [h.clip?]
  split
  · exact h
  · simp only [h.gapsAfterClose, h.digestOf]
    exact ((((h.modClip _ _).modReads _).unpinAll _).modClip _ _).raise rfl

theorem completeCloses (segment : Nat) (h : Beside u v) :
    Beside (Machine.completeCloses segment u) (Machine.completeCloses segment v) := by
  unfold Machine.completeCloses
  rw [h.clipLog]
  exact h.foldl (fun _ _ c h => h.completeClose c.id _ _) _

theorem closeAtEnd (id : Nat) (cause : CloseCause) (h : Beside u v) :
    Beside (Machine.closeAtEnd id cause u) (Machine.closeAtEnd id cause v) := by
  unfold Machine.closeAtEnd
  rw [h.clip?]
  split
  · exact h
  · rw [funext h.segment?]
    exact (h.modClip _ _).completeClose _ _ _

theorem closeOpenClips (c : Fin 6) (h : Beside u v) : Beside (Machine.closeOpenClips c u) (Machine.closeOpenClips c v) := by
  unfold Machine.closeOpenClips State.clipsWhere
  rw [h.clipLog]
  exact h.foldl (fun _ _ id h => h.closeAtEnd id .leave) _

/-! #### The writer -/

theorem readLine (line : Nat) (h : Beside u v) : (Machine.readLine line v).1 = (Machine.readLine line u).1
    ∧ (Machine.readLine line v).2.1 = (Machine.readLine line u).2.1
    ∧ Beside (Machine.readLine line u).2.2 (Machine.readLine line v).2.2 := by
  have reads : v.freeReads = u.freeReads := by rw [id h]
  unfold Machine.readLine
  rw [h.store, reads]
  cases lineOutcome u.store.lineErrors line with
  | clean => exact ⟨rfl, rfl, h⟩
  | corrected =>
    refine ⟨rfl, rfl, ?_⟩
    rw [id h]
    rfl
  | uncorrectable =>
    refine ⟨rfl, rfl, ?_⟩
    rw [id h]
    rfl

theorem writeSegment (pages : List Nat) (x : Nat) (bytes : List Byte) (h : Beside u v) :
    Beside (Machine.writeSegment pages x bytes u) (Machine.writeSegment pages x bytes v) := by
  unfold Machine.writeSegment
  split
  · exact h.modStore _
  · obtain ⟨-, whole, read⟩ := h.readLine (segAddress pages (x - x % lineSize) / lineSize)
    simp only [whole]
    exact read.modStore _

theorem padSegment (g : Segment) (h : Beside u v) : Beside (Machine.padSegment g u) (Machine.padSegment g v) := by
  unfold Machine.padSegment
  split
  · exact h
  · exact (h.writeSegment _ _ _).modSegment _ _

theorem closeSegment (c : Fin 6) (reason : CloseReason) (h : Beside u v) (filling : v.coders[c].filling = u.coders[c].filling) :
    Beside (Machine.closeSegment c reason u) (Machine.closeSegment c reason v) := by
  have same : v.fillingSegment c = u.fillingSegment c := by
    unfold State.fillingSegment
    rw [filling, funext h.segment?]
  unfold Machine.closeSegment
  rw [same]
  split
  · exact h
  · next g _ =>
    have closes := ((((h.padSegment g).modSegment g.id fun g => { g with state := .complete, closeReason := some reason }).modStore
      fun st => { st with completion := st.completion ++ [g.id] }).modCoder c fun k =>
        { k with filling := none }).completeCloses g.id
    simp only
    split
    · exact closes.reclaimPages
    · exact closes

theorem closeGaps (c : Fin 6) (stop : Timecode) (h : Beside u v) :
    Beside (Machine.closeGaps c stop u) (Machine.closeGaps c stop v) := by
  unfold Machine.closeGaps
  rw [h.timing]
  exact h.modClipLog _

theorem endPause (c : Fin 6) (stored : Option Timecode) (h : Beside u v) :
    Beside (Machine.endPause c stored u) (Machine.endPause c stored v) := by
  unfold Machine.endPause
  rw [h.timing, h.store]
  exact (h.raise rfl).modStore _

theorem endedPause (c : Fin 6) (h : Beside u v) : Beside (Machine.endedPause c u) (Machine.endedPause c v) := by
  unfold Machine.endedPause
  rw [h.store, h.timing]
  refine modStore ?_ _
  split
  · exact (h.closeGaps c _).endPause c none
  · exact h

/-- Leaving recording reads of the channels their own filling segment alone. -/
theorem leaveRecording (c : Fin 6) (h : Beside u v) (filling : v.coders[c].filling = u.coders[c].filling) :
    Beside (Machine.leaveRecording c u) (Machine.leaveRecording c v) := by
  rw [leaveRecording_eq, leaveRecording_eq]
  exact ((h.closeSegment c .leave filling).endedPause c).closeOpenClips c

end Beside

/-! ### The allocation record and the other channels are not reached -/

theorem completeClose_alloc (id : Nat) (out : Option Nat) (cause : CloseCause) (s : State) :
    (completeClose id out cause s).alloc = s.alloc := by
  unfold completeClose
  split
  · rfl
  · rw [raise_alloc]
    exact (congrArg State.alloc (unpinAll_only _ _)).trans rfl

theorem closeAtEnd_alloc (id : Nat) (cause : CloseCause) (s : State) : (closeAtEnd id cause s).alloc = s.alloc := by
  unfold closeAtEnd
  split
  · rfl
  · exact completeClose_alloc _ _ _ _

theorem closeSegment_alloc (c : Fin 6) (s : State) : (closeSegment c .leave s).alloc = s.alloc := by
  cases here : s.fillingSegment c with
  | none =>
    unfold closeSegment
    rw [here]
  | some g =>
    obtain ⟨b, leaving⟩ := closeSegment_leaving here
    have closes : (completeCloses g.id b).alloc = s.alloc := by
      rw [completeCloses, foldl_keeps (·.alloc) (fun u (k : Clip) => completeClose_alloc k.id _ _ u), leaving.alloc]
    rw [leaving.closed]
    split
    · rw [(reclaimPages_only _), closes]
    · exact closes

theorem endedPause_keeps (c : Fin 6) (s : State) : (endedPause c s).alloc = s.alloc ∧ (endedPause c s).coders = s.coders := by
  unfold endedPause
  split
  · rw [endPause, raise_of_not_protocol _ rfl]
    exact ⟨rfl, rfl⟩
  · exact ⟨rfl, rfl⟩

/-- A channel that leaves recording asks nothing of the allocator before it reports its take. -/
theorem leaveRecording_alloc (c : Fin 6) (s : State) : (leaveRecording c s).alloc = s.alloc := by
  obtain ⟨alloc, -⟩ := endedPause_keeps c (closeSegment c .leave s)
  rw [leaveRecording_eq, closeOpenClips, foldl_keeps (·.alloc) (fun u (id : Nat) => closeAtEnd_alloc id _ u), alloc, closeSegment_alloc]

/-- Of the channels, one that leaves recording changes its own filling segment alone. -/
theorem leaveRecording_coders (c : Fin 6) (s : State) :
    ∃ filling, (leaveRecording c s).coders = vecModify s.coders c fun k => { k with filling := filling } := by
  obtain ⟨-, coders⟩ := endedPause_keeps c (closeSegment c .leave s)
  have after : (leaveRecording c s).coders = (closeSegment c .leave s).coders := by
    rw [leaveRecording_eq, closeOpenClips_only, coders]
  rw [after]
  cases here : s.fillingSegment c with
  | none =>
    refine ⟨s.coders[c].filling, ?_⟩
    unfold closeSegment
    rw [here]
    exact (vecModify_eq_self rfl).symm
  | some g =>
    obtain ⟨b, leaving⟩ := closeSegment_leaving here
    refine ⟨none, ?_⟩
    rw [leaving.closed, ← leaving.coders]
    split
    · rw [(reclaimPages_only _), completeCloses_only]
    · rw [completeCloses_only]

end Sys2Proof.Machine

namespace Sys2Proof.Machine

/-! ## The take (R17, R20 to R23) -/

section take

variable {c : Fin 6} {s u : State} {before after : CoderMode} {k : CoderChannel} {st : Staged}

/-! ### What a change of mode does (R21, R22, R73) -/

/-- A channel's record without the work that its new mode does not go on with (R22). -/
def leftRecord (before after : CoderMode) (k : CoderChannel) : CoderChannel :=
  { k with
    filling := if before.isRecording && !after.isRecording then none else k.filling
    liveBuffer := if before.isLive && !after.isLive then k.liveBuffer.filter fun p => p.started != 0 else k.liveBuffer }

/-- A channel's record as it becomes active (R21). -/
def freshRecord (k : CoderChannel) : CoderChannel :=
  { k with q := clampIndex k.qMin k.qMax 26, fullness := 0, forcedRepeat := false, sequence := 0 }

/-- A channel's record once its work has changed with its mode (R21, R22). -/
def workedRecord (before after : CoderMode) (k : CoderChannel) : CoderChannel :=
  match before.isActive, after.isActive with
  | false, true => freshRecord k
  | true, false =>
    { leftRecord before after k with fullness := 0, bufferSize := 0, forcedRepeat := false, rateState := .full }
  | true, true => leftRecord before after k
  | false, false => k

/-- The part once the channel has left recording, if its new mode does not record (R73). -/
def leftState (c : Fin 6) (before after : CoderMode) (s : State) : State :=
  if before.isRecording && !after.isRecording then leaveRecording c s else s

/-- The part once the channel's writer has started too, if its new mode alone records (R21). -/
def startedState (c : Fin 6) (before after : CoderMode) (s : State) : State :=
  if !before.isRecording && after.isRecording then startWriter c (leftState c before after s) else leftState c before after s

theorem inactive_not_recording {m : CoderMode} (h : m.isActive = false) : m.isRecording = false ∧ m.isLive = false := by
  cases m <;> simp_all [CoderMode.isActive, CoderMode.isLive, CoderMode.isRecording]

theorem leaveWork_eq (c : Fin 6) (before after : CoderMode) (s : State) : leaveWork c before after s =
    { leftState c before after s with coders := vecModify s.coders c (leftRecord before after) } := by
  obtain ⟨filling, coders⟩ := leaveRecording_coders c s
  unfold leaveWork leftState leftRecord
  by_cases recording : (before.isRecording && !after.isRecording) = true
  · rw [if_pos recording]
    by_cases live : (before.isLive && !after.isLive) = true
    · simp only [if_pos recording, if_pos live, State.modCoder, coders, vecModify_vecModify]
    · simp only [if_pos recording, if_neg live, State.modCoder, coders, vecModify_vecModify]
  · rw [if_neg recording]
    by_cases live : (before.isLive && !after.isLive) = true
    · simp only [if_neg recording, if_pos live, State.modCoder]
    · simp only [if_neg recording, if_neg live]
      rw [vecModify_eq_self rfl]

theorem enterActive_eq (mode : s.coders[c].mode = after) : enterActive c s =
    { (if after.isRecording then startWriter c s else s) with coders := vecModify s.coders c freshRecord } := by
  have same : (s.modCoder c freshRecord).coders[c].mode = after := (congrArg CoderChannel.mode (vecModify_same _ _ _)).trans mode
  show (if (s.modCoder c freshRecord).coders[c].mode.isRecording = true then startWriter c (s.modCoder c freshRecord)
    else s.modCoder c freshRecord) = _
  rw [same]
  cases after.isRecording <;> rfl

/-- All that a change of mode does: to the channel's record, to what it recorded, and to its writer. -/
theorem takeMode_eq (mode : s.coders[c].mode = after) : takeMode c before after s =
    { startedState c before after s with coders := vecModify s.coders c (workedRecord before after) } := by
  unfold takeMode startedState workedRecord
  cases active : before.isActive with
  | false =>
    obtain ⟨notBefore, -⟩ := inactive_not_recording active
    have stays : leftState c before after s = s := if_neg (by simp [notBefore])
    rw [stays, notBefore]
    cases becomes : after.isActive with
    | false =>
      obtain ⟨notAfter, -⟩ := inactive_not_recording becomes
      rw [notAfter]
      exact congrArg (fun v => { s with coders := v }) (vecModify_eq_self (f := fun k => k) rfl).symm
    | true =>
      exact enterActive_eq mode
  | true =>
    cases stays : after.isActive with
    | false =>
      obtain ⟨notAfter, -⟩ := inactive_not_recording stays
      simp only [leaveActive, leaveWork_eq, State.modCoder, vecModify_vecModify, notAfter, Bool.and_false]
      rfl
    | true =>
      simp only [changeWork, leaveWork_eq]
      split <;> rfl

/-- The settings and the input that a take writes stand through the change of work. -/
theorem workedRecord_keeps (before after : CoderMode) (k : CoderChannel) : workedRecord before after k = { k with
    q := (workedRecord before after k).q
    fullness := (workedRecord before after k).fullness
    bufferSize := (workedRecord before after k).bufferSize
    forcedRepeat := (workedRecord before after k).forcedRepeat
    rateState := (workedRecord before after k).rateState
    sequence := (workedRecord before after k).sequence
    filling := (workedRecord before after k).filling
    liveBuffer := (workedRecord before after k).liveBuffer } := by
  unfold workedRecord
  cases before.isActive <;> cases after.isActive <;> rfl

/-! ### What a recompute publishes (R45, R53) -/

/-- The figures of a record in which they stand computed do not change. -/
theorem computeFigures_recompute (cause : AllocCause) (s : State) :
    computeFigures s.timing.rate (recompute cause s).alloc = (recompute cause s).alloc := by
  unfold recompute
  simp only
  split
  · rw [raise_alloc]
    rfl
  · rfl

/-- A recompute reads the timing, and the allocation record; its notice goes to the control port. -/
theorem recompute_control (cause : AllocCause) (timing : u.timing = s.timing) (alloc : u.alloc = s.alloc)
    (control : u.control = s.control) : (recompute cause u).control = (recompute cause s).control := by
  unfold recompute
  rw [timing, alloc]
  simp only
  split
  · rw [raise_control, raise_control]
    exact congrArg (queueNotice _) control
  · exact control

/-- What the allocator holds of the channels once one has reported its take (R45). -/
theorem reportTake_alloc (c : Fin 6) (s : State) :
    (reportTake c s).alloc.live = vecSet s.alloc.live c s.coders[c].mode.isLive
      ∧ (reportTake c s).alloc.weight = vecSet s.alloc.weight c s.coders[c].weight
      ∧ (reportTake c s).alloc.floor = vecSet s.alloc.floor c s.coders[c].floor
      ∧ computeFigures s.timing.rate (reportTake c s).alloc = (reportTake c s).alloc := by
  unfold reportTake
  obtain ⟨-, -, live, weight, floor, -⟩ := recompute_inputs .coderTake (s.modAlloc fun a => { a with
    live := vecSet a.live c s.coders[c].mode.isLive
    weight := vecSet a.weight c s.coders[c].weight
    floor := vecSet a.floor c s.coders[c].floor })
  exact ⟨live, weight, floor, computeFigures_recompute .coderTake _⟩

/-! ### The source (R17) -/

/-- The record that a take writes: the staged fields, and the input state of a new source (R17, R20). -/
def writtenRecord (c : Fin 6) (st : Staged) (s : State) : CoderChannel :=
  { writeStaged st s.coders[c] with
    input := match st.source with
      | none => s.coders[c].input
      | some port => s.ports[port].input }

/-- The control port once a channel's copied input state is reported (R17). -/
def inputReported (c : Fin 6) (old new : CoderChannel) (s : State) : Control :=
  if new.input ≠ old.input ∧ old.mode ≠ .off ∧ new.mode ≠ .off then
    queueNotice ⟨inputNotice c new.source new.input, s.timing.timecode⟩ s.control
  else s.control

theorem inputReported_same {new old : CoderChannel} (same : new.input = old.input) :
    inputReported c old new s = s.control := if_neg fun ⟨differs, _⟩ => differs same

/-- The part once the staged fields are written and the source is taken. -/
def writtenState (c : Fin 6) (st : Staged) (s : State) : State :=
  { s with coders := vecSet s.coders c (writtenRecord c st s), control := inputReported c s.coders[c] (writtenRecord c st s) s }

theorem takeSource_eq {c : Fin 6} {s : State} {k : CoderChannel} (before : CoderMode) (here : s.coders[c] = k) :
    takeSource c before s = { s with
      coders := vecSet s.coders c { k with input := s.ports[k.source].input }
      control :=
        if s.ports[k.source].input ≠ k.input ∧ before ≠ .off ∧ k.mode ≠ .off then
          queueNotice ⟨inputNotice c k.source s.ports[k.source].input, s.timing.timecode⟩ s.control
        else s.control } := by
  subst here
  unfold takeSource
  simp only
  split
  · exact raise_of_not_protocol _ (protocolPath_inputNotice _ _ _)
  · rfl

theorem takeSource_written (c : Fin 6) (st : Staged) (s : State) :
    (if st.source.isSome then takeSource c s.coders[c].mode (s.modCoder c (writeStaged st)) else s.modCoder c (writeStaged st))
      = writtenState c st s := by
  have coders : (s.modCoder c (writeStaged st)).coders[c] = writeStaged st s.coders[c] := vecModify_same _ _ _
  cases source : st.source with
  | none =>
    have record : writtenRecord c st s = writeStaged st s.coders[c] := by
      unfold writtenRecord
      rw [source]
      rfl
    rw [writtenState, record, inputReported_same (new := writeStaged st s.coders[c]) (old := s.coders[c]) rfl]
    rfl
  | some port =>
    have taken : (writeStaged st s.coders[c]).source = port := by
      show st.source.getD _ = port
      rw [source]
      rfl
    have record : writtenRecord c st s =
        { writeStaged st s.coders[c] with input := s.ports[(writeStaged st s.coders[c]).source].input } := by
      have input : s.ports[(writeStaged st s.coders[c]).source].input = s.ports[port].input :=
        congrArg (fun p : Fin 8 => s.ports[p].input) taken
      rw [input, writtenRecord, source]
    refine (takeSource_eq _ coders).trans ?_
    rw [writtenState, record]
    show ({ s with coders := vecSet (vecModify s.coders c (writeStaged st)) c _, control := _ } : State) = _
    rw [vecModify_eq_vecSet, vecSet_vecSet]
    rfl

end take

end Sys2Proof.Machine

namespace Sys2Proof.Machine

/-! ## What a take leaves (R17, R20 to R23, R73) -/

section taken

variable {c : Fin 6} {s u : State} {before after : CoderMode} {st : Staged}

/-! ### The work that a new mode brings or ends -/

theorem leftState_alloc (c : Fin 6) (before after : CoderMode) (s : State) : (leftState c before after s).alloc = s.alloc := by
  unfold leftState
  split
  · exact leaveRecording_alloc c s
  · rfl

theorem takeMode_alloc (mode : s.coders[c].mode = after) : (takeMode c before after s).alloc = s.alloc := by
  rw [takeMode_eq mode]
  refine Eq.trans ?_ (leftState_alloc c before after s)
  unfold startedState
  split <;> rfl

theorem takeMode_control (mode : s.coders[c].mode = after) :
    (takeMode c before after s).control = (leftState c before after s).control := by
  rw [takeMode_eq mode]
  unfold startedState
  split <;> rfl

theorem takeMode_timing (c : Fin 6) (before after : CoderMode) (s : State) : (takeMode c before after s).timing = s.timing :=
  (takeMode_only c before after s).timing

/-- A channel that stops recording leaves of the store and of the Clip Log what `leaveRecording` leaves (R73). -/
theorem takeMode_left (mode : s.coders[c].mode = after) (was : before.isRecording = true) (stops : after.isRecording = false) :
    (takeMode c before after s).store = (leaveRecording c s).store
      ∧ (takeMode c before after s).clipLog = (leaveRecording c s).clipLog := by
  have left : startedState c before after s = leaveRecording c s := by
    simp [startedState, leftState, was, stops]
  rw [takeMode_eq mode, left]
  exact ⟨rfl, rfl⟩

/-- A channel that begins recording has its writer started (R21). -/
theorem takeMode_writer (mode : s.coders[c].mode = after) (was : before.isRecording = false) (records : after.isRecording = true) :
    (takeMode c before after s).store.writers[c] = ⟨.writing, none, 0⟩ := by
  have started : startedState c before after s = startWriter c s := by
    simp [startedState, leftState, was, records]
  rw [takeMode_eq mode, started]
  exact vecModify_same _ _ _

/-! ### The two kinds of take -/

/-- A take up to its report: the change of mode from `before`, in the part `u` where the record is written (R20, R23). -/
def takenState (c : Fin 6) (before : CoderMode) (u : State) : State := reportTake c (takeMode c before u.coders[c].mode u)

theorem takenState_coders (c : Fin 6) (before : CoderMode) (u : State) :
    (takenState c before u).coders = vecModify u.coders c (workedRecord before u.coders[c].mode) := by
  rw [takenState, (reportTake_only c _).coders, takeMode_eq rfl]

theorem takenState_store (c : Fin 6) (before : CoderMode) (u : State) :
    (takenState c before u).store = (takeMode c before u.coders[c].mode u).store := (reportTake_only c _).store

theorem takenState_clipLog (c : Fin 6) (before : CoderMode) (u : State) :
    (takenState c before u).clipLog = (takeMode c before u.coders[c].mode u).clipLog := by
  rw [takenState, (reportTake_only c _)]

/-- The end of a take of staged changes: TAKEN, and INPUT_BACK out of OFF with its input PRESENT (R17, R20). -/
theorem takeStaged_eq (c : Fin 6) (st : Staged) (s : State) : takeStaged c st s =
    let t := raise (.taken c .set s.coders[c].mode (writtenRecord c st s).mode (changedFields st s.coders[c]))
      (takenState c s.coders[c].mode (writtenState c st s))
    if s.coders[c].mode = .off ∧ (writtenRecord c st s).mode ≠ .off ∧ t.coders[c].input = .present then
      raise (.inputBack c t.coders[c].source) t
    else t := by
  have mode : (s.modCoder c (writeStaged st)).coders[c].mode = (writtenRecord c st s).mode :=
    Eq.trans (congrArg CoderChannel.mode (vecModify_same _ _ _)) rfl
  have mode' : (writtenState c st s).coders[c].mode = (writtenRecord c st s).mode :=
    congrArg CoderChannel.mode (vecSet_same _ _ _)
  unfold takeStaged takenState
  rw [mode']
  simp only
  rw [takeSource_written, mode]

/-- The record that a take of staged changes leaves (R17, R20 to R22). -/
def takenRecord (c : Fin 6) (st : Staged) (s : State) : CoderChannel :=
  workedRecord s.coders[c].mode (writtenRecord c st s).mode (writtenRecord c st s)

theorem takenState_written (c : Fin 6) (st : Staged) (s : State) :
    (takenState c s.coders[c].mode (writtenState c st s)).coders = vecSet s.coders c (takenRecord c st s) := by
  have here : (writtenState c st s).coders[c] = writtenRecord c st s := vecSet_same _ _ _
  rw [takenState_coders, here]
  show vecModify (vecSet s.coders c _) c _ = _
  rw [vecModify_vecSet]
  rfl

/-- A take of staged changes but for its notices. -/
theorem takeStaged_beside (c : Fin 6) (st : Staged) (s : State) :
    ∃ control, takeStaged c st s = { takenState c s.coders[c].mode (writtenState c st s) with control := control } := by
  rw [takeStaged_eq]
  simp only
  split
  · exact ⟨_, (raise_of_not_protocol _ rfl).trans (by rw [raise_of_not_protocol _ rfl])⟩
  · exact ⟨_, raise_of_not_protocol _ rfl⟩

theorem takeStaged_coders (c : Fin 6) (st : Staged) (s : State) :
    (takeStaged c st s).coders = vecSet s.coders c (takenRecord c st s) := by
  obtain ⟨control, taken⟩ := takeStaged_beside c st s
  rw [taken, ← takenState_written]

theorem takeStaged_coder (c : Fin 6) (st : Staged) (s : State) : (takeStaged c st s).coders[c] = takenRecord c st s := by
  rw [takeStaged_coders, vecSet_same]

/-- What the take writes stands in the record that it leaves. -/
theorem takenRecord_keeps (c : Fin 6) (st : Staged) (s : State) : takenRecord c st s = { writtenRecord c st s with
    q := (takenRecord c st s).q
    fullness := (takenRecord c st s).fullness
    bufferSize := (takenRecord c st s).bufferSize
    forcedRepeat := (takenRecord c st s).forcedRepeat
    rateState := (takenRecord c st s).rateState
    sequence := (takenRecord c st s).sequence
    filling := (takenRecord c st s).filling
    liveBuffer := (takenRecord c st s).liveBuffer } := workedRecord_keeps _ _ _

/-- The quantiser stays within the bounds that the take writes (R20, R21). -/
theorem takenRecord_q (c : Fin 6) (st : Staged) (s : State)
    (bounds : (takenRecord c st s).qMin ≤ (takenRecord c st s).qMax) :
    (takenRecord c st s).qMin ≤ (takenRecord c st s).q ∧ (takenRecord c st s).q ≤ (takenRecord c st s).qMax := by
  have clamped : ∃ q, (takenRecord c st s).q = clampIndex (takenRecord c st s).qMin (takenRecord c st s).qMax q := by
    unfold takenRecord workedRecord
    split
    all_goals exact ⟨_, rfl⟩
  obtain ⟨q, e⟩ := clamped
  rw [e]
  exact ⟨clampIndex_low _ _ _, clampIndex_high bounds _⟩

/-- A channel that becomes active starts fresh (R21). -/
theorem takenRecord_fresh (was : s.coders[c].mode ∈ [CoderMode.off, .standby])
    (becomes : (takenRecord c st s).mode ∈ [CoderMode.live, .record, .both]) :
    (takenRecord c st s).fullness = 0 ∧ (takenRecord c st s).forcedRepeat = false ∧ (takenRecord c st s).sequence = 0
      ∧ (takenRecord c st s).q = clampIndex (takenRecord c st s).qMin (takenRecord c st s).qMax 26 := by
  have inactive : s.coders[c].mode.isActive = false := by
    generalize s.coders[c].mode = m at was
    cases m <;> simp_all [CoderMode.isActive, CoderMode.isLive, CoderMode.isRecording]
  have active : (writtenRecord c st s).mode.isActive = true := (isActive_iff _).mpr (by
    rw [takenRecord_keeps] at becomes
    exact becomes)
  have fresh : takenRecord c st s = freshRecord (writtenRecord c st s) := by
    rw [takenRecord, workedRecord, inactive, active]
  rw [fresh]
  exact ⟨rfl, rfl, rfl, rfl⟩

end taken

end Sys2Proof.Machine

namespace Sys2Proof.Machine

section leaving

variable {c : Fin 6} {s u : State} {before after : CoderMode} {st : Staged}

theorem bne_eq_decide_ne {α : Type} [DecidableEq α] (a b : α) : (a != b) = decide (a ≠ b) := by
  rw [Bool.eq_iff_iff, bne_iff_ne, decide_eq_true_iff]

theorem idle_iff (m : CoderMode) : (m ∈ [CoderMode.off, .standby]) ↔ m.isActive = false := by
  cases m <;> simp [CoderMode.isActive, CoderMode.isLive, CoderMode.isRecording]

theorem not_isRecording_iff (m : CoderMode) : m.isRecording = false ↔ m ∉ [CoderMode.record, .both] := by
  rw [← isRecording_iff, Bool.not_eq_true]

/-- The record of a channel that leaves an active mode for OFF or STANDBY (R22). -/
theorem workedRecord_left (was : before.isActive = true) (becomes : after.isActive = false) (k : CoderChannel) :
    (workedRecord before after k).fullness = 0 ∧ (workedRecord before after k).bufferSize = 0
      ∧ (workedRecord before after k).forcedRepeat = false ∧ (workedRecord before after k).rateState = .full
      ∧ (before.isLive = true →
        (workedRecord before after k).liveBuffer = k.liveBuffer.filter fun picture => picture.started ≠ 0)
      ∧ (before.isRecording = true → (workedRecord before after k).filling = none) := by
  obtain ⟨records, live⟩ := inactive_not_recording becomes
  unfold workedRecord
  rw [was, becomes]
  refine ⟨rfl, rfl, rfl, rfl, fun wasLive => ?_, fun wasRecording => ?_⟩
  · simp only [leftRecord, wasLive, live, Bool.not_false, Bool.and_self, if_true]
    exact List.filter_congr fun picture _ => bne_eq_decide_ne _ _
  · simp [leftRecord, wasRecording, records]

theorem written_beside (c : Fin 6) (st : Staged) (s : State) : Beside s (writtenState c st s) := rfl

theorem written_filling (c : Fin 6) (st : Staged) (s : State) :
    (writtenState c st s).coders[c].filling = s.coders[c].filling :=
  Eq.trans (congrArg CoderChannel.filling (vecSet_same _ _ _)) rfl

/-- What a take that ends a recording leaves of the store and of the Clip Log (R22, R73). -/
theorem takenState_left (beside : Beside s u) (filling : u.coders[c].filling = s.coders[c].filling)
    (was : before.isRecording = true) (stops : u.coders[c].mode.isRecording = false) :
    (takenState c before u).store = (leaveRecording c s).store
      ∧ (takenState c before u).clipLog = (leaveRecording c s).clipLog := by
  obtain ⟨store, clipLog⟩ := takeMode_left (s := u) (c := c) rfl was stops
  have left := beside.leaveRecording c filling
  rw [takenState_store, takenState_clipLog, store, clipLog]
  exact ⟨left.store, left.clipLog⟩

/-- What the control port holds as the channel reports its take: the notices before it, and STORE_RESUMED when a pause ends
with the recording (R79). -/
theorem leftState_control (beside : Beside s u) :
    (before ∉ [CoderMode.record, .both] ∨ after ∈ [CoderMode.record, .both] →
      (leftState c before after u).control = u.control)
    ∧ (before ∈ [CoderMode.record, .both] → after ∉ [CoderMode.record, .both] → s.clipLog.clips = [] →
      256 ≤ s.store.freePool.length → (leftState c before after u).control =
        if s.store.writers[c].state = .paused then queueNotice ⟨.storeResumed c none
          (s.store.writers[c].gapStart.getD s.timing.timecode) s.store.writers[c].unstored, s.timing.timecode⟩ u.control
        else u.control) := by
  unfold leftState
  refine ⟨fun stays => ?_, fun was stops noClips reserve => ?_⟩
  · rw [if_neg]
    rw [Bool.and_eq_true, Bool.not_eq_true', isRecording_iff, not_isRecording_iff]
    exact fun ⟨was, stops⟩ => stays.elim (· was) stops
  · rw [if_pos]
    · rw [leaveRecording_control (by rw [beside.clipLog]; exact noClips) (by rw [beside.store]; exact reserve),
        beside.store, beside.timing]
    · rw [Bool.and_eq_true, Bool.not_eq_true', isRecording_iff, not_isRecording_iff]
      exact ⟨was, stops⟩

/-! ### What the allocator is told (R45) -/

/-- The part in which the channel's take is recomputed, but for what a recompute does not read. -/
def reportedState (c : Fin 6) (k : CoderChannel) (control : Control) (s : State) : State :=
  { s with
    alloc := { s.alloc with
      live := vecSet s.alloc.live c k.mode.isLive
      weight := vecSet s.alloc.weight c k.weight
      floor := vecSet s.alloc.floor c k.floor }
    control := control }

theorem takenState_control (beside : Beside s u) : (takenState c before u).control =
    (recompute .coderTake (reportedState c u.coders[c] (leftState c before u.coders[c].mode u).control s)).control := by
  have coder : (takeMode c before u.coders[c].mode u).coders[c] = workedRecord before u.coders[c].mode u.coders[c] := by
    rw [takeMode_eq rfl]
    exact vecModify_same _ _ _
  rw [workedRecord_keeps] at coder
  refine recompute_control _ ((takeMode_timing _ _ _ _).trans beside.timing) ?_ (takeMode_control rfl)
  show ({ (takeMode c before u.coders[c].mode u).alloc with live := _, weight := _, floor := _ } : Allocation) = _
  rw [coder, takeMode_alloc rfl, beside.alloc]
  rfl

theorem takenState_alloc (beside : Beside s u) :
    (takenState c before u).alloc.live = vecSet s.alloc.live c u.coders[c].mode.isLive
      ∧ (takenState c before u).alloc.weight = vecSet s.alloc.weight c u.coders[c].weight
      ∧ (takenState c before u).alloc.floor = vecSet s.alloc.floor c u.coders[c].floor
      ∧ computeFigures s.timing.rate (takenState c before u).alloc = (takenState c before u).alloc := by
  have coder : (takeMode c before u.coders[c].mode u).coders[c] = workedRecord before u.coders[c].mode u.coders[c] := by
    rw [takeMode_eq rfl]
    exact vecModify_same _ _ _
  rw [workedRecord_keeps] at coder
  obtain ⟨live, weight, floor, computed⟩ := reportTake_alloc c (takeMode c before u.coders[c].mode u)
  rw [coder, takeMode_alloc rfl, beside.alloc] at live weight floor
  rw [takeMode_timing, beside.timing] at computed
  exact ⟨live, weight, floor, computed⟩

end leaving

end Sys2Proof.Machine

namespace Sys2Proof.Machine

section settled

variable {c : Fin 6} {s u : State} {before after : CoderMode} {st : Staged}

/-! ### The take at a change of the picture rate (R23) -/

/-- The part once the staged change of a channel is discarded at a rate take (R23). -/
def discardedState (c : Fin 6) (st : Staged) (s : State) : State :=
  { s with control := if st = Staged.empty then s.control else queueNotice ⟨.discarded c st, s.timing.timecode⟩ s.control }

theorem discarded_eq (c : Fin 6) (st : Staged) (s : State) :
    (if st = Staged.empty then s else raise (.discarded c st) s) = discardedState c st s := by
  unfold discardedState
  split
  · rfl
  · exact raise_of_not_protocol s rfl

/-- The part once the channel is in STANDBY. -/
def standbyState (c : Fin 6) (st : Staged) (s : State) : State :=
  (discardedState c st s).modCoder c fun k => { k with mode := .standby }

theorem standby_beside (c : Fin 6) (st : Staged) (s : State) : Beside s (standbyState c st s) := rfl

theorem standby_coder (c : Fin 6) (st : Staged) (s : State) :
    (standbyState c st s).coders[c] = { s.coders[c] with mode := .standby } := vecModify_same _ _ _

theorem coderRateTake_inactive (was : s.coders[c].mode.isActive = false) : coderRateTake c st s = discardedState c st s := by
  unfold coderRateTake
  rw [discarded_eq]
  exact if_neg (by rw [Bool.not_eq_true]; exact was)

theorem coderRateTake_active (was : s.coders[c].mode.isActive = true) : coderRateTake c st s =
    raise (.taken c .rateChange s.coders[c].mode .standby { Staged.empty with mode := some .standby })
      (takenState c s.coders[c].mode (standbyState c st s)) := by
  have mode : (standbyState c st s).coders[c].mode = .standby := congrArg CoderChannel.mode (standby_coder c st s)
  have leaves : leaveActive c s.coders[c].mode .standby (standbyState c st s) =
      takeMode c s.coders[c].mode .standby (standbyState c st s) := by
    unfold takeMode
    rw [was]
    rfl
  unfold coderRateTake takenState
  rw [discarded_eq, mode, ← leaves]
  exact if_pos was

/-- The record of a channel that a rate take puts in STANDBY (R23). -/
theorem coderRateTake_coders (was : s.coders[c].mode.isActive = true) : (coderRateTake c st s).coders =
    vecSet s.coders c (workedRecord s.coders[c].mode .standby { s.coders[c] with mode := .standby }) := by
  have here := standby_coder c st s
  rw [coderRateTake_active was, raise_coders, takenState_coders, here]
  show vecModify (vecModify s.coders c _) c _ = _
  rw [vecModify_vecModify]
  rfl

/-- A recording that a rate take ends leaves what any other leaving of recording does (R23, R73). -/
theorem coderRateTake_left (was : s.coders[c].mode.isRecording = true) :
    (coderRateTake c st s).store = (leaveRecording c s).store
      ∧ (coderRateTake c st s).clipLog = (leaveRecording c s).clipLog := by
  have active : s.coders[c].mode.isActive = true := by rw [CoderMode.isActive, was, Bool.or_true]
  have mode : (standbyState c st s).coders[c].mode = .standby := congrArg CoderChannel.mode (standby_coder c st s)
  obtain ⟨store, clipLog⟩ := takenState_left (standby_beside c st s)
    (by rw [standby_coder]) was (by rw [mode]; rfl)
  rw [coderRateTake_active active, raise_of_not_protocol _ rfl]
  exact ⟨store, clipLog⟩

/-! ### The notices of a take -/

theorem keepChanged_eq {α : Type} [DecidableEq α] (new : Option α) (old : α) : keepChanged new old = new.filter (· ≠ old) :=
  congrArg (Option.filter · new) (funext fun a => bne_eq_decide_ne a old)

theorem decide_isLive (m : CoderMode) : m.isLive = decide (m ∈ [CoderMode.live, .both]) := by
  rw [Bool.eq_iff_iff, isLive_iff, decide_eq_true_iff]

theorem takeStaged_control (c : Fin 6) (st : Staged) (s : State) : (takeStaged c st s).control =
    let taken := queueNotice ⟨.taken c .set s.coders[c].mode (takenRecord c st s).mode (changedFields st s.coders[c]),
      s.timing.timecode⟩ (takenState c s.coders[c].mode (writtenState c st s)).control
    if s.coders[c].mode = .off ∧ (takenRecord c st s).mode ≠ .off ∧ (takenRecord c st s).input = .present then
      queueNotice ⟨.inputBack c (takenRecord c st s).source, s.timing.timecode⟩ taken
    else taken := by
  have mode : (takenRecord c st s).mode = (writtenRecord c st s).mode := by rw [takenRecord_keeps]
  have timing : (takenState c s.coders[c].mode (writtenState c st s)).timing = s.timing :=
    (congrArg State.timing (reportTake_only c _)).trans (takeMode_timing _ _ _ _)
  have coder : (takenState c s.coders[c].mode (writtenState c st s)).coders[c] = takenRecord c st s := by
    rw [takenState_written, vecSet_same]
  rw [takeStaged_eq]
  simp only [raise_coders, coder, mode]
  split
  · rw [raise_control, raise_timing, raise_control, timing]
  · rw [raise_control, timing]

end settled

end Sys2Proof.Machine

namespace Sys2Proof.Machine

section settles

variable {c : Fin 6} {s u : State} {before after : CoderMode} {st : Staged}

/-- The record without what leaving an active mode ends (R22), in terms of the modes. -/
theorem takenRecord_left (was : s.coders[c].mode ∈ [CoderMode.live, .record, .both])
    (becomes : (takenRecord c st s).mode ∈ [CoderMode.off, .standby]) :
    (takenRecord c st s).fullness = 0 ∧ (takenRecord c st s).bufferSize = 0 ∧ (takenRecord c st s).forcedRepeat = false
      ∧ (takenRecord c st s).rateState = .full
      ∧ (s.coders[c].mode ∈ [CoderMode.live, .both] →
        (takenRecord c st s).liveBuffer = s.coders[c].liveBuffer.filter fun picture => picture.started ≠ 0)
      ∧ (s.coders[c].mode ∈ [CoderMode.record, .both] → (takenRecord c st s).filling = none) := by
  rw [idle_iff, takenRecord_keeps] at becomes
  rw [← isActive_iff] at was
  rw [← isLive_iff, ← isRecording_iff]
  exact workedRecord_left was becomes (writtenRecord c st s)

/-- The store and the Clip Log once a take has ended a recording (R22, R73). -/
theorem takeStaged_left (was : s.coders[c].mode ∈ [CoderMode.record, .both])
    (becomes : (takenRecord c st s).mode ∈ [CoderMode.off, .standby]) :
    (takeStaged c st s).store = (leaveRecording c s).store ∧ (takeStaged c st s).clipLog = (leaveRecording c s).clipLog := by
  have mode : (writtenState c st s).coders[c].mode = (writtenRecord c st s).mode :=
    congrArg CoderChannel.mode (vecSet_same _ _ _)
  rw [idle_iff, takenRecord_keeps] at becomes
  obtain ⟨stops, -⟩ := inactive_not_recording becomes
  obtain ⟨control, taken⟩ := takeStaged_beside c st s
  rw [taken]
  exact takenState_left (written_beside c st s) (written_filling c st s) ((isRecording_iff _).mpr was) (by rw [mode]; exact stops)

/-- The writer of a channel that begins recording with its take (R21). -/
theorem takeStaged_writer (was : s.coders[c].mode ∈ [CoderMode.off, .standby])
    (records : (takenRecord c st s).mode ∈ [CoderMode.record, .both]) :
    (takeStaged c st s).store.writers[c] = ⟨.writing, none, 0⟩ := by
  have mode : (writtenState c st s).coders[c].mode = (writtenRecord c st s).mode :=
    congrArg CoderChannel.mode (vecSet_same _ _ _)
  rw [idle_iff] at was
  obtain ⟨notBefore, -⟩ := inactive_not_recording was
  rw [← isRecording_iff, takenRecord_keeps] at records
  obtain ⟨control, taken⟩ := takeStaged_beside c st s
  rw [taken]
  show (takenState c s.coders[c].mode (writtenState c st s)).store.writers[c] = _
  rw [takenState_store]
  exact takeMode_writer rfl notBefore (by rw [mode]; exact records)

/-- What the allocator holds after the take (R45). -/
theorem takeStaged_alloc (c : Fin 6) (st : Staged) (s : State) :
    (takeStaged c st s).alloc.live = vecSet s.alloc.live c (takenRecord c st s).mode.isLive
      ∧ (takeStaged c st s).alloc.weight = vecSet s.alloc.weight c (takenRecord c st s).weight
      ∧ (takeStaged c st s).alloc.floor = vecSet s.alloc.floor c (takenRecord c st s).floor
      ∧ computeFigures s.timing.rate (takeStaged c st s).alloc = (takeStaged c st s).alloc := by
  have here : (writtenState c st s).coders[c] = writtenRecord c st s := vecSet_same _ _ _
  obtain ⟨control, taken⟩ := takeStaged_beside c st s
  have alloc := takenState_alloc (c := c) (before := s.coders[c].mode) (written_beside c st s)
  rw [here] at alloc
  rw [taken, takenRecord_keeps]
  exact alloc

/-- The control port after a take: what the leaving raises, the recompute's notice, TAKEN and INPUT_BACK. -/
theorem takeStaged_notices (c : Fin 6) (st : Staged) (s : State) : (takeStaged c st s).control =
    let taken := queueNotice ⟨.taken c .set s.coders[c].mode (takenRecord c st s).mode (changedFields st s.coders[c]),
      s.timing.timecode⟩ (recompute .coderTake (reportedState c (takenRecord c st s)
        (leftState c s.coders[c].mode (takenRecord c st s).mode (writtenState c st s)).control s)).control
    if s.coders[c].mode = .off ∧ (takenRecord c st s).mode ≠ .off ∧ (takenRecord c st s).input = .present then
      queueNotice ⟨.inputBack c (takenRecord c st s).source, s.timing.timecode⟩ taken
    else taken := by
  have here : (writtenState c st s).coders[c] = writtenRecord c st s := vecSet_same _ _ _
  have mode : (takenRecord c st s).mode = (writtenRecord c st s).mode := by rw [takenRecord_keeps]
  have reported : ∀ control, reportedState c (takenRecord c st s) control s = reportedState c (writtenRecord c st s) control s := by
    intro control
    rw [takenRecord_keeps]
    rfl
  rw [takeStaged_control, takenState_control (written_beside c st s), here, reported, mode]

theorem changedFields_eq (st : Staged) (k : CoderChannel) : changedFields st k =
    { mode := st.mode.filter (· ≠ k.mode)
      source := st.source.filter (· ≠ k.source)
      weight := st.weight.filter (· ≠ k.weight)
      floor := st.floor.filter (· ≠ k.floor)
      recordRate := st.recordRate.filter (· ≠ k.recordRate)
      qMin := st.qMin.filter (· ≠ k.qMin)
      qMax := st.qMax.filter (· ≠ k.qMax)
      segLength := st.segLength.filter (· ≠ k.segLength)
      liveDeadline := st.liveDeadline.filter (· ≠ k.liveDeadline) } := by
  simp only [changedFields, keepChanged_eq]

/-- The control port after a rate take that puts the channel in STANDBY (R23). -/
theorem coderRateTake_control (was : s.coders[c].mode.isActive = true) : (coderRateTake c st s).control =
    queueNotice ⟨.taken c .rateChange s.coders[c].mode .standby { Staged.empty with mode := some .standby }, s.timing.timecode⟩
      (recompute .coderTake (reportedState c { s.coders[c] with mode := .standby }
        (leftState c s.coders[c].mode .standby (standbyState c st s)).control s)).control := by
  have timing : (takenState c s.coders[c].mode (standbyState c st s)).timing = s.timing :=
    (congrArg State.timing (reportTake_only c _)).trans (takeMode_timing _ _ _ _)
  rw [coderRateTake_active was, raise_control, timing, takenState_control (standby_beside c st s), standby_coder]

end settles

end Sys2Proof.Machine

namespace Sys2Proof.Machine

/-! ## The turns of a tick (R19, R23) -/

/-- Of steps each taken at most once: what one of them brings about, from what the earlier ones keep, and the later ones
keep. -/
theorem foldl_turn {σ ι : Type} [DecidableEq ι] {f : σ → ι → σ} {Q P : σ → Prop} {one : ι}
    (before : ∀ u a, a ≠ one → Q u → Q (f u a)) (turn : ∀ u, Q u → P (f u one)) (after : ∀ u a, a ≠ one → P u → P (f u a))
    {l : List ι} (nodup : l.Nodup) (mem : one ∈ l) {u : σ} (h : Q u) : P (l.foldl f u) := by
  have keep : ∀ {R : σ → Prop}, (∀ u a, a ≠ one → R u → R (f u a)) → ∀ (l : List ι) u, one ∉ l → R u → R (l.foldl f u) := by
    intro R step l
    induction l with
    | nil => exact fun u _ h => h
    | cons a rest ih =>
      intro u absent h
      rw [List.mem_cons, not_or] at absent
      obtain ⟨ne, absent⟩ := absent
      exact ih _ absent (step u a (Ne.symm ne) h)
  obtain ⟨first, last, rfl, fresh⟩ := List.eq_append_cons_of_mem mem
  have rest : one ∉ last := (List.nodup_cons.mp (List.nodup_append.mp nodup).2.1).1
  rw [List.foldl_append, List.foldl_cons]
  exact keep after _ _ rest (turn _ (keep before _ _ fresh h))

section turns

variable {c d : Fin 6} {s t u : State}

/-- A channel's record but for what the sending of its pictures and the store's work change. -/
def CoderChannel.duty (k : CoderChannel) : CoderChannel := { k with liveBuffer := [], lateDrops := 0, fullness := 0, filling := none }

/-- What the work that is not channel `c`'s own leaves of it. -/
structure OthersWork (c : Fin 6) (s t : State) : Prop where
  duty : t.coders[c].duty = s.coders[c].duty
  fullness : s.coders[c].bufferSize = 0 → s.coders[c].fullness = 0 → t.coders[c].fullness = 0
  begun : s.coders[c].allBegun → t.coders[c].allBegun
  filling : t.coders[c].filling = s.coders[c].filling
  writer : t.store.writers[c] = s.store.writers[c]

namespace OthersWork

theorem of_coders (coders : t.coders[c] = s.coders[c]) (writer : t.store.writers[c] = s.store.writers[c]) : OthersWork c s t := by
  refine ⟨?_, ?_, ?_, ?_, writer⟩ <;> rw [coders]
  · exact fun _ zero => zero
  · exact id

theorem refl (s : State) : OthersWork c s s := of_coders rfl rfl

theorem trans (h : OthersWork c s t) (h' : OthersWork c t u) : OthersWork c s u := by
  have size : t.coders[c].bufferSize = s.coders[c].bufferSize := (congrArg CoderChannel.bufferSize h.duty :)
  exact ⟨h'.duty.trans h.duty, fun empty zero => h'.fullness (size.trans empty) (h.fullness empty zero),
    fun begun => h'.begun (h.begun begun), h'.filling.trans h.filling, h'.writer.trans h.writer⟩

theorem foldl {ι : Type} {f : State → ι → State} (step : ∀ u a, OthersWork c u (f u a)) (l : List ι) (u : State) :
    OthersWork c u (l.foldl f u) := foldl_related (OthersWork c) refl trans step l u

/-- A change of a channel that drops or marks pictures of its live buffer, with F set to Bv or left. -/
theorem modCoder (d : Fin 6) (f : CoderChannel → CoderChannel) (duty : ∀ k, (f k).duty = k.duty)
    (fullness : ∀ k, k.bufferSize = 0 → k.fullness = 0 → (f k).fullness = 0) (begun : ∀ k, k.allBegun → (f k).allBegun)
    (filling : ∀ k, (f k).filling = k.filling) (s : State) : OthersWork c s (s.modCoder d f) := by
  by_cases e : c = d
  · subst e
    have here : (s.modCoder c f).coders[c] = f s.coders[c] := vecModify_same _ _ _
    refine ⟨?_, ?_, ?_, ?_, rfl⟩ <;> rw [here]
    · exact duty _
    · exact fullness _
    · exact begun _
    · exact filling _
  · exact of_coders (vecModify_other _ _ _ _ e) rfl

theorem serve (s : State) : OthersWork c s (serve s) := by
  have side := serve_only s
  have served := Served.serve s
  generalize Machine.serve s = t at side served ⊢
  refine ⟨?_, fun _ zero => (served.fullness c).trans zero, served.begun c, ?_, ?_⟩
  · rw [side.coder c]
    rfl
  · rw [side.coder c]
  · rw [side.state]

theorem dropLive (d : Fin 6) (place : Nat) (s : State) : OthersWork c s (dropLive d place s) := by
  have erased : OthersWork c s (s.modCoder d fun k => { k with liveBuffer := k.liveBuffer.eraseIdx place }) :=
    modCoder d (fun k => { k with liveBuffer := k.liveBuffer.eraseIdx place }) (fun _ => rfl) (fun _ _ zero => zero)
      (fun k begun picture mem => begun picture (List.mem_of_mem_eraseIdx mem)) (fun _ => rfl) s
  have dropped : ∀ v, OthersWork c v (lateDrop d v) :=
    modCoder d (fun k => { k with lateDrops := k.lateDrops + 1, fullness := k.bufferSize }) (fun _ => rfl)
      (fun _ empty _ => empty) (fun _ begun => begun) (fun _ => rfl)
  have marked : ∀ v, OthersWork c v (markTruncated d place v) := by
    intro v
    unfold markTruncated
    split
    · refine modCoder d (fun k => { k with liveBuffer := k.liveBuffer.modify place fun p => { p with truncate := true } })
        (fun _ => rfl) (fun _ _ zero => zero) (fun k begun picture mem => ?_) (fun _ => rfl) _
      have started : ∀ n ∈ (k.liveBuffer.modify place fun p => { p with truncate := true }).map (·.started), n ≠ 0 := by
        rw [map_modify_of_same _ _ (by exact fun _ => rfl)]
        exact List.forall_mem_map.mpr begun
      exact started _ (List.mem_map_of_mem mem)
    · exact of_coders rfl rfl
  exact (erased.trans (dropped _)).trans (marked _)

theorem schedulerTick (s : State) : OthersWork c s (schedulerTick s) := by
  have loop : ∀ d n (u : State), OthersWork c u (expirePictures d n u) := by
    intro d n
    induction n with
    | zero => exact refl
    | succ n ih =>
      intro u
      rw [expirePictures]
      simp only
      split
      · exact refl u
      · exact ((dropLive d _ u).trans (of_coders (by rw [raise_coders]; rfl) (by rw [raise_store]; rfl))).trans (ih _)
  have audio : OthersWork c s (audioExpiry (refill s)) := by
    have expired : (audioExpiry (refill s)).coders = s.coders := by
      unfold audioExpiry
      refine (foldl_keeps State.coders (fun u f => ?_) _ _).trans rfl
      exact (raise_coders _ _).trans rfl
    refine of_coders (by rw [expired]) ?_
    rw [((refill_only s).trans (audioExpiry_only _)).state]
  exact audio.trans (foldl (fun u d => loop d _ u) _ _)

/-- The leaving of recording of another channel. -/
theorem leaveRecording (other : c ≠ d) (s : State) : (leaveRecording d s).store.writers[c] = s.store.writers[c] := by
  have segment : (closeSegment d .leave s).store.writers = s.store.writers := by
    cases here : s.fillingSegment d with
    | none =>
      unfold closeSegment
      rw [here]
    | some g =>
      obtain ⟨b, leaving⟩ := closeSegment_leaving here
      rw [leaving.closed, ← leaving.writers]
      split
      · rw [(reclaimPages_only _), completeCloses_only]
      · rw [completeCloses_only]
  rw [leaveRecording_eq, closeOpenClips_only, ← segment]
  unfold endedPause
  split
  · rw [endPause, raise_of_not_protocol _ rfl]
    exact (vecModify_other _ _ _ _ other).trans (vecModify_other _ _ _ _ other)
  · exact vecModify_other _ _ _ _ other

theorem takenState (other : c ≠ d) (before : CoderMode) (u : State) :
    (takenState d before u).store.writers[c] = u.store.writers[c] := by
  have left : (leftState d before u.coders[d].mode u).store.writers[c] = u.store.writers[c] := by
    unfold leftState
    split
    · exact leaveRecording other u
    · rfl
  rw [takenState_store, takeMode_eq rfl, ← left]
  unfold startedState
  split
  · exact vecModify_other _ _ _ _ other
  · rfl

theorem coderRateTake (other : c ≠ d) {due : Staged} (s : State) : OthersWork c s (coderRateTake d due s) := by
  cases was : s.coders[d].mode.isActive with
  | false =>
    rw [coderRateTake_inactive was]
    exact of_coders rfl rfl
  | true =>
    refine of_coders ?_ ?_
    · rw [coderRateTake_coders was]
      exact vecSet_other _ _ _ _ other
    · rw [coderRateTake_active was, raise_store]
      exact takenState other _ (standbyState d due s)

theorem coderTick (other : c ≠ d) {due : Staged} (s : State) : OthersWork c s (coderTick d due s) := by
  have take : OthersWork c s (if due = Staged.empty then s else takeStaged d due s) := by
    split
    · exact refl s
    · refine of_coders ?_ ?_
      · rw [takeStaged_coders]
        exact vecSet_other _ _ _ _ other
      · obtain ⟨control, taken⟩ := takeStaged_beside d due s
        rw [taken]
        exact takenState other _ (writtenState d due s)
  unfold Machine.coderTick
  generalize (if due = Staged.empty then s else takeStaged d due s) = u at take ⊢
  simp only
  split
  · exact take.trans (of_coders (vecModify_other _ _ _ _ other) rfl)
  · exact take

/-- The turn of another agent, and the service that follows it. -/
theorem agentTurn {due : Vector Staged 6} {changes : Nat} {taken : Bool} {agent : TickAgent} (other : agent ≠ .coder c)
    (s : State) : OthersWork c s (agentTurn due changes taken s agent) := by
  refine OthersWork.trans ?_ (serve _)
  cases agent with
  | scheduler => exact schedulerTick s
  | mixer =>
    have side := blockTick_only changes s
    refine of_coders ?_ ?_ <;>
    · rw [agentTick_mixer, id side]
  | coder d =>
    have ne : c ≠ d := fun e => other (e ▸ rfl)
    cases taken with
    | true => exact coderRateTake ne s
    | false => exact coderTick ne s

end OthersWork

end turns

end Sys2Proof.Machine

namespace Sys2Proof.Machine

section ticks

variable {c : Fin 6} {s t u w : State} {k k' : CoderChannel} {due : Staged}

/-! ### A channel before its turn (R19, R34) -/

/-- A channel between the end of its pictures and its turn: nothing staged, nothing in flight, and its mode, weight and
segment length those of before the tick. -/
structure Waiting (k k' : CoderChannel) : Prop where
  staged : k'.staged = Staged.empty
  handed : k'.handed = false
  inFlight : k'.inFlight = none
  mode : k'.mode = k.mode
  weight : k'.weight = k.weight
  segLength : k'.segLength = k.segLength

/-- A channel whose pictures have ended. -/
structure Ended (k k' : CoderChannel) : Prop where
  inFlight : k'.inFlight = none
  mode : k'.mode = k.mode
  weight : k'.weight = k.weight
  segLength : k'.segLength = k.segLength

theorem pictureCodedEvent_ends (c : Fin 6) (s : State) : Ended s.coders[c] (pictureCodedEvent c s).coders[c] := by
  cases flight : s.coders[c].inFlight with
  | none =>
    rw [pictureCodedEvent_none flight]
    exact ⟨flight, rfl, rfl, rfl⟩
  | some f =>
    obtain ⟨left, drops, filling, coder, -⟩ := pictureCodedEvent_coder flight
    rw [coder]
    exact ⟨rfl, rfl, rfl, rfl⟩

theorem pictureCodedEvent_other {d : Fin 6} (ne : d ≠ c) (s : State) : (pictureCodedEvent d s).coders[c] =
    { s.coders[c] with filling := (pictureCodedEvent d s).coders[c].filling } :=
  (pictureCodedEvent_only d s).others c (Ne.symm ne)

theorem codePictures_ends (s : State) (c : Fin 6) :
    Ended s.coders[c] ((List.finRange 6).foldl (fun s c => pictureCodedEvent c s) s).coders[c] := by
  refine foldl_turn (f := fun s c => pictureCodedEvent c s) (one := c)
    (Q := fun u => u.coders[c].mode = s.coders[c].mode ∧ u.coders[c].weight = s.coders[c].weight
      ∧ u.coders[c].segLength = s.coders[c].segLength)
    (P := fun u => Ended s.coders[c] u.coders[c])
    (fun u d ne h => ?_) (fun u h => ?_) (fun u d ne h => ?_) (List.nodup_finRange 6) (List.mem_finRange c) ⟨rfl, rfl, rfl⟩
  · rw [pictureCodedEvent_other ne]
    exact h
  · obtain ⟨mode, weight, segLength⟩ := h
    obtain ⟨inFlight, mode', weight', segLength'⟩ := pictureCodedEvent_ends c u
    exact ⟨inFlight, mode'.trans mode, weight'.trans weight, segLength'.trans segLength⟩
  · obtain ⟨inFlight, mode, weight, segLength⟩ := h
    show Ended _ (pictureCodedEvent d u).coders[c]
    rw [pictureCodedEvent_other ne]
    exact ⟨inFlight, mode, weight, segLength⟩

/-- Every channel's picture has ended before the next tick (R34). -/
theorem endPictures_ends (s : State) (c : Fin 6) : Ended s.coders[c] (endPictures s).coders[c] := by
  unfold endPictures
  split
  · have coded := codePictures_ends s c
    generalize (List.finRange 6).foldl (fun s c => pictureCodedEvent c s) s = u at coded ⊢
    have served := (serve_only u).coder c
    generalize serve u = v at served ⊢
    obtain ⟨inFlight, mode, weight, segLength⟩ := coded
    rw [served]
    exact ⟨inFlight, mode, weight, segLength⟩
  · next idle =>
    refine ⟨?_, rfl, rfl, rfl⟩
    by_contra flies
    exact idle (Vector.any_eq_true.mpr ⟨c, c.isLt, Option.isSome_iff_ne_none.mpr flies⟩)

/-- Without cues none fires. -/
theorem fireCues_none (due : Vector Staged 6) (none : s.timing.cues = []) : fireCues due s = s := by
  have order : s.cuesInOrder = [] := List.eq_nil_iff_forall_not_mem.mpr fun cue mem => by
    rw [mem_cuesInOrder, none] at mem
    exact absurd mem List.not_mem_nil
  unfold fireCues
  rw [order]
  rfl

/-- When the agents begin, each channel waits for its turn. -/
theorem fixedTick_waiting (cues : w.timing.cues = []) (c : Fin 6) : Waiting w.coders[c] (fixedTick w).coders[c] := by
  obtain ⟨inFlight, mode, weight, segLength⟩ := endPictures_ends w c
  have begun : (fixedTimecode w).coders[c] = { (endPictures w).coders[c] with handed := false, staged := Staged.empty } := by
    obtain ⟨-, -, coders, -⟩ := takeTimecode_keeps (beginPeriod (endPictures w))
    rw [fixedTimecode, coders]
    exact vecMap_get _ _ _
  have coder : (fixedTick w).coders[c] = (fixedTimecode w).coders[c] := by
    obtain ⟨-, -, -, timing⟩ := fixedTimecode_keeps w
    rw [fixedTick_eq]
    split
    · rw [takeRate_only]
    · rw [fireCues_none _ (by rw [timing]; exact cues)]
  rw [coder, begun]
  exact ⟨rfl, rfl, inFlight, mode, weight, segLength⟩

theorem Waiting.of_duty {k'' : CoderChannel} (h : Waiting k k') (duty : k''.duty = k'.duty) : Waiting k k'' := by
  have waits : Waiting k k'.duty := ⟨h.staged, h.handed, h.inFlight, h.mode, h.weight, h.segLength⟩
  rw [← duty] at waits
  exact ⟨waits.staged, waits.handed, waits.inFlight, waits.mode, waits.weight, waits.segLength⟩

end ticks

end Sys2Proof.Machine

namespace Sys2Proof.Machine

section turned

variable {c : Fin 6} {s t u v w : State} {k k' k'' : CoderChannel} {due : Staged} {i : Instr}

/-! ### A channel after its turn without a rate take (R20, R34) -/

/-- A channel after its turn: the change that was due is in force, and a picture is in flight if it is active. -/
structure Taken (due : Staged) (k k' : CoderChannel) : Prop where
  staged : k'.staged = Staged.empty
  handed : k'.handed = false
  mode : k'.mode = due.mode.getD k.mode
  weight : k'.weight = due.weight.getD k.weight
  segLength : k'.segLength = due.segLength.getD k.segLength
  inFlight : k'.inFlight = none ↔ k'.mode.isActive = false

theorem Taken.of_duty (h : Taken due k k') (duty : k''.duty = k'.duty) : Taken due k k'' := by
  have taken : Taken due k k'.duty := ⟨h.staged, h.handed, h.mode, h.weight, h.segLength, h.inFlight⟩
  rw [← duty] at taken
  exact ⟨taken.staged, taken.handed, taken.mode, taken.weight, taken.segLength, taken.inFlight⟩

theorem takenRecord_waiting (waits : Waiting k u.coders[c]) : Waiting
    { k with mode := due.mode.getD k.mode, weight := due.weight.getD k.weight, segLength := due.segLength.getD k.segLength }
    (takenRecord c due u) := by
  obtain ⟨staged, handed, inFlight, mode, weight, segLength⟩ := waits
  rw [takenRecord_keeps]
  exact ⟨staged, handed, inFlight, congrArg due.mode.getD mode, congrArg due.weight.getD weight,
    congrArg due.segLength.getD segLength⟩

theorem coderTick_taken (waits : Waiting k u.coders[c]) : Taken due k (coderTick c due u).coders[c] := by
  have take : Waiting
      { k with mode := due.mode.getD k.mode, weight := due.weight.getD k.weight, segLength := due.segLength.getD k.segLength }
      (if due = Staged.empty then u else takeStaged c due u).coders[c] := by
    split
    · next none =>
      subst none
      exact waits
    · rw [takeStaged_coder]
      exact takenRecord_waiting waits
  unfold coderTick
  generalize (if due = Staged.empty then u else takeStaged c due u) = v at take ⊢
  obtain ⟨staged, handed, inFlight, mode, weight, segLength⟩ := take
  simp only
  split
  · next active =>
    have started : (pictureStart c v).coders[c] = { v.coders[c] with
        rateState := (pictureStart c v).coders[c].rateState
        byteBudget := (pictureStart c v).coders[c].byteBudget
        bufferSize := (pictureStart c v).coders[c].bufferSize
        fullness := (pictureStart c v).coders[c].fullness
        forcedRepeat := (pictureStart c v).coders[c].forcedRepeat
        inFlight := (pictureStart c v).coders[c].inFlight } ∧ (pictureStart c v).coders[c].inFlight ≠ none := by
      have coder : (pictureStart c v).coders[c] = _ := vecModify_same _ _ _
      rw [coder]
      exact ⟨rfl, nofun⟩
    obtain ⟨coder, flies⟩ := started
    generalize (pictureStart c v).coders[c] = k' at coder flies ⊢
    rw [coder]
    exact ⟨staged, handed, mode, weight, segLength, fun none => absurd none flies, fun idle => by
      rw [show v.coders[c].mode.isActive = false from idle] at active
      exact nomatch active⟩
  · next idle => exact ⟨staged, handed, mode, weight, segLength, fun _ => Bool.not_eq_true _ ▸ idle, fun _ => inFlight⟩

/-! ### A channel after its turn at a rate take (R23) -/

/-- A channel after its turn at a rate take: in STANDBY if it was active, and what it was doing ended. -/
structure Rested (c : Fin 6) (k : CoderChannel) (u : State) : Prop where
  staged : u.coders[c].staged = Staged.empty
  handed : u.coders[c].handed = false
  inFlight : u.coders[c].inFlight = none
  mode : u.coders[c].mode = if k.mode.isActive then .standby else k.mode
  weight : u.coders[c].weight = k.weight
  segLength : u.coders[c].segLength = k.segLength
  cleared : k.mode.isActive = true → u.coders[c].fullness = 0 ∧ u.coders[c].bufferSize = 0
    ∧ u.coders[c].forcedRepeat = false ∧ u.coders[c].rateState = .full
  begun : k.mode.isLive = true → u.coders[c].allBegun
  recorded : k.mode.isRecording = true → u.coders[c].filling = none ∧ u.store.writers[c] = ⟨.idle, none, 0⟩

/-- The work of others does not stir a channel at rest. -/
theorem Rested.others (h : Rested c k u) (work : OthersWork c u v) : Rested c k v := by
  obtain ⟨staged, handed, inFlight, mode, weight, segLength, cleared, begun, recorded⟩ := h
  have duty := work.duty
  refine ⟨(congrArg CoderChannel.staged duty :).trans staged, (congrArg CoderChannel.handed duty :).trans handed,
    (congrArg CoderChannel.inFlight duty :).trans inFlight, (congrArg CoderChannel.mode duty :).trans mode,
    (congrArg CoderChannel.weight duty :).trans weight, (congrArg CoderChannel.segLength duty :).trans segLength,
    fun active => ?_, fun live => work.begun (begun live), fun recording => ?_⟩
  · obtain ⟨fullness, size, forced, rate⟩ := cleared active
    exact ⟨work.fullness size fullness, (congrArg CoderChannel.bufferSize duty :).trans size,
      (congrArg CoderChannel.forcedRepeat duty :).trans forced, (congrArg CoderChannel.rateState duty :).trans rate⟩
  · obtain ⟨filling, writer⟩ := recorded recording
    exact ⟨work.filling.trans filling, work.writer.trans writer⟩

theorem active_of_live {m : CoderMode} (h : m.isLive = true) : m.isActive = true := by rw [CoderMode.isActive, h, Bool.true_or]

theorem active_of_recording {m : CoderMode} (h : m.isRecording = true) : m.isActive = true := by
  rw [CoderMode.isActive, h, Bool.or_true]

theorem coderRateTake_rested (waits : Waiting k u.coders[c]) : Rested c k (coderRateTake c due u) := by
  obtain ⟨staged, handed, inFlight, mode, weight, segLength⟩ := waits
  cases was : k.mode.isActive with
  | false =>
    rw [coderRateTake_inactive (by rw [mode]; exact was)]
    refine ⟨staged, handed, inFlight, ?_, weight, segLength, fun active => ?_, fun live => ?_, fun recording => ?_⟩
    · rw [was]
      exact mode
    · exact absurd active (by simp [was])
    · exact absurd (active_of_live live) (by simp [was])
    · exact absurd (active_of_recording recording) (by simp [was])
  | true =>
    have active : u.coders[c].mode.isActive = true := by rw [mode]; exact was
    have coder : (coderRateTake c due u).coders[c] =
        workedRecord u.coders[c].mode .standby { u.coders[c] with mode := .standby } := by
      rw [coderRateTake_coders active]
      exact vecSet_same _ _ _
    obtain ⟨fullness, size, forced, rate, buffer, filling⟩ :=
      workedRecord_left active (after := .standby) rfl { u.coders[c] with mode := .standby }
    have keeps := workedRecord_keeps u.coders[c].mode .standby { u.coders[c] with mode := .standby }
    refine ⟨?_, ?_, ?_, ?_, ?_, ?_, fun _ => ?_, fun live => ?_, fun recording => ?_⟩
    all_goals rw [coder]
    · rw [keeps]
      exact staged
    · rw [keeps]
      exact handed
    · rw [keeps]
      exact inFlight
    · rw [keeps, was]
      rfl
    · rw [keeps]
      exact weight
    · rw [keeps]
      exact segLength
    · exact ⟨fullness, size, forced, rate⟩
    · intro picture mem
      rw [buffer (by rw [mode]; exact live), List.mem_filter, decide_eq_true_iff] at mem
      exact mem.2
    · have recorded : u.coders[c].mode.isRecording = true := by rw [mode]; exact recording
      obtain ⟨store, -⟩ := coderRateTake_left (st := due) recorded
      exact ⟨filling recorded, by rw [store]; exact leaveRecording_writer c u⟩

/-! ### The tick -/

/-- A tick without a rate take: the staged change of each channel takes, and its next picture starts if it is active. -/
theorem pictureTick_taken (cues : w.timing.cues = []) (rate : w.timing.stagedRate = none) (c : Fin 6) :
    Taken w.coders[c].staged w.coders[c] (pictureTick w).coders[c] := by
  obtain ⟨-, timing, -, -⟩ := endPictures_keeps w
  have free : (endPictures w).timing.stagedRate.isSome = false := by rw [timing, rate]; rfl
  have begins := fixedTick_waiting cues c
  rw [pictureTick_eq, free]
  generalize fixedTick w = f at begins ⊢
  refine foldl_turn (one := .coder c) (Q := fun u : State => Waiting w.coders[c] u.coders[c])
    (P := fun u : State => Taken w.coders[c].staged w.coders[c] u.coders[c]) (fun u agent other waits => ?_) (fun u waits => ?_)
    (fun u agent other taken => ?_) (tickOrder_nodup _) (mem_tickOrder _ _) ?_
  · exact waits.of_duty (OthersWork.agentTurn other u).duty
  · rw [← dueAt w c]
    exact (coderTick_taken waits).of_duty (OthersWork.serve _).duty
  · exact taken.of_duty (OthersWork.agentTurn other u).duty
  · exact begins

/-- A tick with a rate take: each channel that was active is in STANDBY, and at rest. -/
theorem pictureTick_rested (cues : w.timing.cues = []) (rate : w.timing.stagedRate.isSome = true) (c : Fin 6) :
    Rested c w.coders[c] (pictureTick w) := by
  obtain ⟨-, timing, -, -⟩ := endPictures_keeps w
  have taken : (endPictures w).timing.stagedRate.isSome = true := by rw [timing, rate]
  have begins := fixedTick_waiting cues c
  rw [pictureTick_eq, taken]
  generalize fixedTick w = f at begins ⊢
  refine foldl_turn (one := .coder c) (Q := fun u : State => Waiting w.coders[c] u.coders[c]) (P := Rested c w.coders[c])
    (fun u agent other waits => ?_) (fun u waits => ?_) (fun u agent other rested => ?_) (tickOrder_nodup _)
    (mem_tickOrder _ _) ?_
  · exact waits.of_duty (OthersWork.agentTurn other u).duty
  · exact (coderRateTake_rested waits).others (OthersWork.serve _)
  · exact rested.others (OthersWork.agentTurn other u)
  · exact begins

/-- A command that ticks leaves what one picture tick leaves, but for notices. -/
theorem exec_ticks (ticks : s.ticksBy i) (ran : exec i s = .next t) : ∃ w, t.coders = (pictureTick w).coders
    ∧ t.store = (pictureTick w).store ∧ w.coders = s.coders
    ∧ w.timing.stagedRate = s.timing.stagedRate ∧ w.timing.cues = s.timing.cues := by
  have one : ∀ {u : State}, exec i s = finish u → t.coders = u.coders ∧ t.store = u.store := by
    intro u e
    obtain ⟨t', e', same⟩ := finish_next u
    rw [e, e'] at ran
    cases ran
    rw [same]
    exact ⟨rfl, rfl⟩
  cases i with
  | oscillatorTick =>
    obtain ⟨coders, store⟩ := one (congrArg finish (oscillatorTick_unlocked ticks))
    exact ⟨_, coders, store, rfl, rfl, rfl⟩
  | referencePulse elapsed =>
    rcases ticks with ⟨free, half⟩ | ⟨locked, last, pulse, past, within⟩
    · obtain ⟨-, kept, -, -, timing⟩ := lockedBy_keeps (s.elapse elapsed)
      obtain ⟨coders, store⟩ := one
        (congrArg finish ((referencePulse_unlocked (s := s.elapse elapsed) free).trans (relock_half half)))
      exact ⟨_, coders, store, kept, by rw [timing]; rfl, by rw [timing]; rfl⟩
    · obtain ⟨coders, store⟩ := one
        (congrArg finish (referencePulse_inside (s := s.elapse elapsed) locked pulse past within))
      exact ⟨_, coders, store, rfl, rfl, rfl⟩
  | lossWindowExpiry =>
    obtain ⟨locked, last, pulse⟩ := ticks
    obtain ⟨coders, store⟩ := one (congrArg finish (lossExpiry_locked locked pulse))
    exact ⟨_, coders.trans (raise_coders _ _), store.trans (raise_store _ _), rfl, rfl, rfl⟩
  | _ => exact absurd ticks id

end turned

end Sys2Proof.Machine

namespace Sys2Proof.Machine

theorem clampIndex_nat (low high q : Nat) : clampIndex low high q = max low (min high q) := by
  unfold clampIndex
  omega

section leave

variable {c : Fin 6} {s : State} {i : Nat} {k : Clip}

theorem fillingSegment_of {id : Nat} {g : Segment} (here : s.coders[c].filling = some id) (found : s.segment? id = some g) :
    s.fillingSegment c = some g := by
  unfold State.fillingSegment
  rw [here]
  exact found

/-- An OPEN clip of the channel closes at the last picture of its range (R98). -/
theorem leaveRecording_opened (closable : Closable c s) (found : s.clip? i = some k) (opened : k.record = .opened)
    (on : k.channel = c) : (leaveRecording c s).clip? i = some (s.closedClip
      (if s.store.writers[c].state = .paused then countGaps s.timing.rate s.timing.timecode k else k)
      k.range.getLast? [] (s.lastOf k)) := by
  have opens : openOn c k = true := openOn_iff.mpr ⟨opened, on⟩
  rw [leaveRecording_clips closable found, if_pos opens]
  simp only [afterPause, opens, and_true]

/-- A CLOSING clip that waits on the filling segment completes (R72). -/
theorem leaveRecording_waiting {g : Segment} (closable : Closable c s) (found : s.clip? i = some k)
    (here : s.fillingSegment c = some g) (closing : k.record = .closing) (waits : k.outSegment = some g.id) :
    (leaveRecording c s).clip? i = some (s.closedClip k (some g.id) [] (k.outPoint.getD k.inPoint)) := by
  obtain ⟨filling, -⟩ := segment_of_filling here
  have shut : ¬ openOn c k = true := fun opens => by
    rw [(openOn_iff.mp opens).1] at closing
    exact nomatch closing
  have waiting : waitsOn c s k := ⟨closing, by rw [here]; rfl, waits.trans filling.symm⟩
  rw [leaveRecording_clips closable found, if_neg shut, afterSegment, if_pos waiting, filling]

/-- Every other clip is as it was. -/
theorem leaveRecording_other (closable : Closable c s) (found : s.clip? i = some k)
    (other : k.record ≠ .opened ∨ k.channel ≠ c) (rest : k.record = .closing → k.outSegment ≠ s.coders[c].filling) :
    (leaveRecording c s).clip? i = some k := by
  have shut : ¬ openOn c k = true := fun opens => other.elim (· (openOn_iff.mp opens).1) (· (openOn_iff.mp opens).2)
  rw [leaveRecording_clips closable found, if_neg shut, afterSegment, if_neg fun ⟨closing, _, waits⟩ => rest closing waits]

end leave

/-- Settles O20: what leaving recording leaves of segment, writer and clips, what a tick does to each channel by its turn, and
what a take writes, starts, ends, reports and raises. -/
theorem aTakeWritesTheStagedFields : Obligations.ATakeWritesTheStagedFields := by
  refine ⟨?_, ?_, ?_⟩
  · intro s c w filling t
    refine ⟨leaveRecording_writer c s, leaveRecording_control, fun once ranges held => ⟨fun id g here found safe => ?_,
      fun i k found => ?_⟩⟩
    · obtain rfl := id_of_segment? found
      exact leaveRecording_segment ⟨once, ranges, held⟩ (fillingSegment_of here found) safe
    · have closable : Closable c s := ⟨once, ranges, held⟩
      exact ⟨leaveRecording_opened closable found, fun id g here held => by
        obtain rfl := id_of_segment? held
        exact leaveRecording_waiting closable found (fillingSegment_of here held),
        leaveRecording_other closable found⟩
  · intro s t i ticks ran cues c active
    obtain ⟨w, coders, store, same, rate, noCues⟩ := exec_ticks ticks ran
    rw [← noCues] at cues
    rw [← rate, coders, store, ← same]
    cases taken : w.timing.stagedRate with
    | none =>
      obtain ⟨staged, handed, mode, weight, segLength, flight⟩ := pictureTick_taken cues taken c
      refine ⟨staged, handed, fun _ => ⟨mode, weight, segLength, ?_⟩, nofun⟩
      rw [flight, ← Bool.not_eq_true, isActive_iff]
    | some p =>
      obtain ⟨staged, handed, inFlight, mode, weight, segLength, cleared, begun, recorded⟩ :=
        pictureTick_rested cues (by rw [taken]; rfl) c
      rw [isActive_iff] at cleared
      rw [isLive_iff] at begun
      rw [isRecording_iff] at recorded
      refine ⟨staged, handed, nofun, fun _ _ => ⟨mode.trans ?_, weight, segLength, inFlight, cleared, begun, recorded⟩⟩
      exact if_congr (isActive_iff _) rfl rfl
  · intro s c st old t new
    have coder : new = takenRecord c st s := takeStaged_coder c st s
    have keeps := takenRecord_keeps c st s
    obtain ⟨live, weight, floor, computed⟩ := takeStaged_alloc c st s
    have side := takeStaged_only c st s
    rw [coder]
    refine ⟨by rw [keeps]; rfl, by rw [keeps]; rfl, by rw [keeps]; rfl, by rw [keeps]; rfl, by rw [keeps]; rfl, by rw [keeps]; rfl,
      by rw [keeps]; rfl, by rw [keeps]; rfl, by rw [keeps]; rfl, takenRecord_q c st s, fun was becomes => ?_,
      fun was becomes => ?_, fun was => coderRateTake_left ((isRecording_iff _).mpr was), ?_, ?_, ?_, computed,
      fun other ne => ?_, fun other ne => ?_, ?_, side.timing, side.mixer, ?_, ?_, ?_⟩
    · obtain ⟨fullness, repeats, sequence, q⟩ := takenRecord_fresh was becomes
      exact ⟨fullness, repeats, sequence, fun _ => q.trans (clampIndex_nat _ _ _), takeStaged_writer was⟩
    · obtain ⟨fullness, size, repeats, rate, buffer, filling⟩ := takenRecord_left was becomes
      refine ⟨fullness, size, repeats, rate, buffer, fun recorded => ?_⟩
      obtain ⟨store, clipLog⟩ := takeStaged_left recorded becomes
      exact ⟨filling recorded, by rw [store]; exact leaveRecording_writer c s, store, clipLog⟩
    · rw [live, vecSet_same, decide_isLive]
    · rw [weight, vecSet_same]
    · rw [floor, vecSet_same]
    · rw [live, weight, floor, vecSet_other _ _ _ _ ne, vecSet_other _ _ _ _ ne, vecSet_other _ _ _ _ ne]
      exact ⟨rfl, rfl, rfl⟩
    · rw [takeStaged_coders]
      exact vecSet_other _ _ _ _ ne
    · exact Eq.trans (congrArg State.ports side.state) rfl
    · rw [keeps]
      rfl
    · obtain ⟨stays, leaves⟩ := leftState_control (c := c) (before := old.mode) (after := (takenRecord c st s).mode)
        (written_beside c st s)
      have reported : (writtenState c st s).control = inputReported c old (takenRecord c st s) s := by
        rw [keeps]
        rfl
      rw [reported] at stays leaves
      refine ⟨_, s.alloc, ⟨fun h => ⟨stays h, rfl⟩, fun was stops noClips reserve => ⟨rfl, leaves was stops noClips reserve⟩⟩, ?_⟩
      have notices := takeStaged_notices c st s
      rw [changedFields_eq, reportedState, decide_isLive] at notices
      exact notices
    · refine ⟨fun inactive => ?_, fun active => ?_⟩
      · rw [← isActive_iff, Bool.not_eq_true] at inactive
        exact coderRateTake_inactive inactive
      · rw [← isActive_iff] at active
        obtain ⟨stays, leaves⟩ := leftState_control (c := c) (before := old.mode) (after := .standby) (standby_beside c st s)
        refine ⟨?_, _, s.alloc, ⟨fun h => ⟨stays h, rfl⟩, fun was stops noClips reserve => ⟨rfl, leaves was stops noClips reserve⟩⟩,
          coderRateTake_control active⟩
        rw [coderRateTake_coders active, vecSet_same, workedRecord_keeps]

end Sys2Proof.Machine

namespace Sys2Proof.Machine

/-! ## The limits of rate control (R57, R59)

A step that leaves a channel's settings keeps q within their bounds, and F within 0..Bv, if it holds them there; the settings
themselves change at CODER_SET and at a take alone. -/

section limits

variable {s t u : State} {k : CoderChannel} {st due : Staged}

/-- Rate control is in its limits: q within the bounds in force, F within 0..Bv, and Bv within 4 × Bp (R57, R59). -/
structure CoderChannel.Held (k : CoderChannel) : Prop where
  low : k.qMin ≤ k.q
  high : k.q ≤ k.qMax
  full : k.fullness ≤ k.bufferSize
  size : k.bufferSize ≤ 4 * k.byteBudget

/-- What rate control reads of a channel: its settings, q, F, Bv and Bp. -/
def CoderChannel.rateRecord (k : CoderChannel) : Settings × Nat × Nat × Nat × Nat :=
  (k.settings, k.q, k.fullness, k.bufferSize, k.byteBudget)

/-- The bounds of q that writing a change leaves are in order, and no higher than 51 (R18). -/
def Settings.Ordered (g : Settings) (st : Staged) : Prop :=
  st.qMin.getD g.qMin ≤ st.qMax.getD g.qMax ∧ st.qMax.getD g.qMax ≤ 51

/-- A channel that keeps its limits, and whose bounds stay in order when a due change is written, and after it what is
staged by then. With nothing due it is the invariant of every step. -/
structure CoderChannel.Limited (due : Staged) (k : CoderChannel) : Prop where
  held : k.Held
  inForce : k.settings.Ordered Staged.empty
  atTake : k.settings.Ordered due
  afterTake : k.settings.Ordered (mergeStaged k.staged due)

theorem withinBounds_iff : k.withinBounds ↔ k.Limited Staged.empty := by
  have merged : mergeStaged k.staged Staged.empty = k.staged := mergeStaged_nothing _
  constructor
  · rintro ⟨low, high, top, ordered, stagedTop, full, size⟩
    have inForce : k.settings.Ordered Staged.empty := ⟨low.trans high, top⟩
    exact ⟨⟨low, high, full, size⟩, inForce, inForce, by rw [merged]; exact ⟨ordered, stagedTop⟩⟩
  · rintro ⟨⟨low, high, full, size⟩, ⟨-, top⟩, -, staged⟩
    rw [merged] at staged
    exact ⟨low, high, top, staged.1, staged.2, full, size⟩

/-- A change of mode sets q anew within the bounds, or leaves it; F becomes 0, with Bv or alone, or stays (R21, R22). -/
theorem CoderChannel.Held.worked (h : k.Held) (before after : CoderMode) : (workedRecord before after k).Held := by
  obtain ⟨low, high, full, size⟩ := h
  unfold workedRecord
  split
  · exact ⟨clampIndex_low _ _ _, clampIndex_high (low.trans high) _, Nat.zero_le _, size⟩
  · exact ⟨low, high, Nat.le_refl _, Nat.zero_le _⟩
  · exact ⟨low, high, full, size⟩
  · exact ⟨low, high, full, size⟩

/-- Every channel keeps its settings, and its limits if it was within them. -/
structure RateKept (s t : State) : Prop where
  settings : StagedKept s t
  held : ∀ c : Fin 6, s.coders[c].Held → t.coders[c].Held

namespace RateKept

theorem of_coders (coders : t.coders = s.coders) : RateKept s t :=
  ⟨.of_coders coders, fun c h => by rw [coders]; exact h⟩

theorem refl (s : State) : RateKept s s := of_coders rfl

theorem trans (h : RateKept s t) (h' : RateKept t u) : RateKept s u :=
  ⟨h.settings.trans h'.settings, fun c held => h'.held c (h.held c held)⟩

/-- A step from a state with the same channels. -/
theorem after (h : RateKept t u) (coders : t.coders = s.coders) : RateKept s u := (of_coders coders).trans h

theorem foldl {ι : Type} {f : State → ι → State} (step : ∀ u a, RateKept u (f u a)) (l : List ι) (u : State) :
    RateKept u (l.foldl f u) := foldl_related RateKept refl trans step l u

theorem ite {p : Prop} [Decidable p] {f : State → State} (h : ∀ v, RateKept v (f v)) (s : State) :
    RateKept s (if p then f s else s) := by
  split
  · exact h s
  · exact refl s

theorem raise (body : NoticeBody) (s : State) : RateKept s (Machine.raise body s) := of_coders (raise_coders s body)

theorem modPath (p : Fin 4) (f : Path → Path) (s : State) : RateKept s (s.modPath p f) := of_coders rfl

theorem modSched (f : Scheduler → Scheduler) (s : State) : RateKept s (s.modSched f) := of_coders rfl

theorem modStore (f : Store → Store) (s : State) : RateKept s (s.modStore f) := of_coders rfl

theorem modClip (id : Nat) (f : Clip → Clip) (s : State) : RateKept s (s.modClip id f) := of_coders rfl

/-- One channel's record takes another's place, with its settings and its limits. -/
theorem of_vecSet {c : Fin 6} (coders : t.coders = vecSet s.coders c k) (settings : k.settings = s.coders[c].settings)
    (held : s.coders[c].Held → k.Held) : RateKept s t := by
  refine ⟨fun d => ?_, fun d h => ?_⟩ <;> rw [coders] <;> by_cases e : d = c
  · rw [e, vecSet_same, settings]
  · rw [vecSet_other _ _ _ _ e]
  · rw [e, vecSet_same]
    exact held (e ▸ h)
  · rw [vecSet_other _ _ _ _ e]
    exact h

/-- A change of one channel that keeps its settings and its limits. -/
theorem modCoder (c : Fin 6) (f : CoderChannel → CoderChannel) (s : State) (settings : ∀ k, (f k).settings = k.settings)
    (held : s.coders[c].Held → (f s.coders[c]).Held) : RateKept s (s.modCoder c f) :=
  of_vecSet (vecModify_eq_vecSet _ _ _) (settings _) held

/-- A change of one channel that leaves all that rate control reads. -/
theorem spares (c : Fin 6) (f : CoderChannel → CoderChannel) (s : State)
    (same : ∀ k, (f k).rateRecord = k.rateRecord) : RateKept s (s.modCoder c f) :=
  modCoder c f s (fun k => congrArg Prod.fst (same k)) fun h => by
    obtain ⟨low, high, full, size⟩ := h
    have e := same s.coders[c]
    simp only [CoderChannel.rateRecord, CoderChannel.settings, Prod.mk.injEq, Settings.mk.injEq] at e
    obtain ⟨⟨-, -, qMin, qMax⟩, q, fullness, bufferSize, byteBudget⟩ := e
    constructor <;> simp only [*]

/-- The store's work reaches no more of a channel than its filling segment. -/
theorem of_record (h : RecordSide s t) : RateKept s t := by
  refine ⟨.of_record h, fun c ⟨low, high, full, size⟩ => ?_⟩
  rw [h.coder c]
  exact ⟨low, high, full, size⟩

theorem of_clip (h : ClipOnly s t) : RateKept s t := of_record (.of_clip h)

theorem of_alloc (h : AllocOnly s t) : RateKept s t := of_coders h.coders

theorem of_damage (h : DamageOnly s t) : RateKept s t := of_coders (by rw [id h])

theorem of_mix (h : MixSide s t) : RateKept s t := of_coders (by rw [id h])

theorem of_open (h : OpenSide s t) : RateKept s t := by
  rw [OpenSide, ClipOnly] at h
  exact of_coders (by rw [h])

/-- Of what sending can reach, F alone matters to the limits. -/
theorem of_send (h : SendSide s t) (full : ∀ c : Fin 6, t.coders[c].fullness = s.coders[c].fullness) : RateKept s t := by
  refine ⟨.of_send h, fun c held => ?_⟩
  rw [h.coder c, full c]
  exact ⟨held.low, held.high, held.full, held.size⟩

theorem serve (s : State) : RateKept s (serve s) := of_send (serve_only s) (Served.serve s).fullness

/-! ### Late drops (R61, R177 to R179) -/

theorem markTruncated (c : Fin 6) (place : Nat) (s : State) : RateKept s (markTruncated c place s) := by
  unfold Machine.markTruncated
  split
  · exact spares c _ s fun _ => rfl
  · exact of_coders rfl

/-- A late drop sets F to Bv. -/
theorem lateDrop (c : Fin 6) (s : State) : RateKept s (lateDrop c s) :=
  modCoder c _ s (fun _ => rfl) fun ⟨low, high, _, size⟩ => ⟨low, high, Nat.le_refl _, size⟩

theorem dropLive (c : Fin 6) (place : Nat) (s : State) : RateKept s (dropLive c place s) := by
  refine .trans ?_ (markTruncated c place _)
  refine .trans ?_ (lateDrop c _)
  exact spares c _ s fun _ => rfl

theorem pictureExpiry (c : Fin 6) (s : State) : RateKept s (pictureExpiry c s) := by
  have loop : ∀ n u, RateKept u (expirePictures c n u) := by
    intro n
    induction n with
    | zero => exact refl
    | succ n ih =>
      intro u
      rw [expirePictures]
      simp only
      split
      · exact refl u
      · refine .trans ?_ (ih _)
        refine .trans ?_ (raise _ _)
        exact .trans (dropLive c _ u) (modSched _ _)
  exact loop _ s

theorem audioExpiry (s : State) : RateKept s (audioExpiry s) := by
  unfold Machine.audioExpiry
  exact (foldl (fun u f => of_mix (reportAudioLate_only f u)) _ _).after rfl

theorem schedulerTick (s : State) : RateKept s (schedulerTick s) :=
  .trans ((audioExpiry (refill s)).after rfl) (foldl (fun u c => pictureExpiry c u) _ _)

/-! ### Pictures (R34, R35, R39, R57 to R59) -/

theorem joinLive (c : Fin 6) (p : LivePicture) (s : State) : RateKept s (joinLive c p s) := by
  have room : ∀ bytes n u, RateKept u (makeRoom c bytes n u) := by
    intro bytes n
    induction n with
    | zero => exact refl
    | succ n ih =>
      intro u
      rw [makeRoom]
      simp only
      split
      · exact refl u
      · split
        · exact refl u
        · exact .trans (.trans (dropLive c _ u) (raise _ _)) (ih _)
  unfold Machine.joinLive
  refine .trans ?_ (modSched _ _)
  refine .trans ?_ (spares c _ _ fun _ => rfl)
  exact room _ _ s

/-- F is cut at Bv (R58), and the next q is one within the bounds (R59). -/
theorem rateControl (c : Fin 6) (f : InFlight) (sequence : Seq) (bytes : Nat) (s : State) :
    RateKept s (rateControl c f sequence bytes s) := by
  unfold Machine.rateControl
  simp only
  refine .trans ?_ (modCoder c _ _ (fun _ => rfl) fun ⟨low, high, full, size⟩ =>
    ⟨clampIndex_low _ _ _, clampIndex_high (low.trans high) _, full, size⟩)
  refine .trans ?_ (ite (raise _) _)
  exact modCoder c _ s (fun _ => rfl) fun ⟨low, high, _, size⟩ => ⟨low, high, Nat.min_le_right _ _, size⟩

theorem pictureCodedEvent (c : Fin 6) (s : State) : RateKept s (pictureCodedEvent c s) := by
  unfold Machine.pictureCodedEvent
  split
  · exact refl s
  · simp only
    refine .trans ?_ (rateControl _ _ _ _ _)
    refine .trans ?_ (ite (fun v => of_record (handOver_only _ _ _ v)) _)
    refine .trans ?_ (ite (joinLive _ _) _)
    refine .trans ?_ (spares c _ _ fun _ => rfl)
    split
    · refine .trans ?_ (raise _ _)
      exact spares c _ s fun _ => rfl
    · exact refl s

theorem endPictures (s : State) : RateKept s (endPictures s) := by
  unfold Machine.endPictures
  split
  · exact (foldl (fun u c => pictureCodedEvent c u) _ s).trans (serve _)
  · exact refl s

/-- A picture start cuts F at the new Bv (R57). -/
theorem pictureStart (c : Fin 6) (s : State) : RateKept s (pictureStart c s) := by
  unfold Machine.pictureStart
  simp only
  exact modCoder c _ s (fun _ => rfl) fun ⟨low, high, _, _⟩ => ⟨low, high, Nat.min_le_right _ _, Nat.le_refl _⟩

/-! ### Paths (R146 to R163) -/

theorem setSend (id : Nat) (after : SendState) (cause : SendCause) (s : State) : RateKept s (setSend id after cause s) :=
  of_coders (setSend_only id after cause s).coders

theorem changeState (p : Fin 4) (after : PathState) (cause : PathCause) (failure : Option (Nat × Nat × Nat)) (s : State) :
    RateKept s (changeState p after cause failure s) :=
  of_send (changeState_only p after cause failure s) (Served.changeState p after cause failure s).fullness

theorem settleStates (p : Fin 4) (s : State) : RateKept s (settleStates p s) :=
  of_send (settleStates_only p s) (Served.settleStates p s).fullness

theorem failedPicture (c : Fin 6) (sequence : Seq) (t : Timecode) (s : State) :
    RateKept s (failedPicture c sequence t s) := by
  unfold Machine.failedPicture
  simp only
  refine .trans ?_ (raise _ _)
  refine .trans ?_ (modSched _ _)
  split
  · exact dropLive c _ s
  · exact (lateDrop c s).trans (markTruncated c 0 _)

theorem rewindClip (id : Nat) (earliest : Option Nat) (itemLost : Bool) (s : State) :
    RateKept s (rewindClip id earliest itemLost s) := by
  have report : ∀ full segment u, RateKept u (reportRewind id full segment u) := by
    intro full segment u
    unfold reportRewind
    refine .trans ?_ (raise _ _)
    exact of_coders rfl
  unfold Machine.rewindClip
  repeat' split
  all_goals first
    | exact refl s
    | exact (modClip id _ s).trans (report _ _ _)

theorem reportFailedClip (id : Nat) (s : State) : RateKept s (reportFailedClip id s) := by
  unfold Machine.reportFailedClip
  repeat' split
  · exact refl s
  · exact (modClip id _ s).trans (setSend _ _ _ _)
  · exact refl s

theorem failedClip (entries : List RetryEntry) (s : State) (id : Nat) : RateKept s (failedClip entries s id) :=
  (rewindClip id _ _ s).trans (reportFailedClip id _)

/-- A path failure makes late drops of its pictures (R162, R179). -/
theorem goDown (p : Fin 4) (cause : PathCause) (s : State) : RateKept s (goDown p cause s) := by
  unfold Machine.goDown
  simp only
  split
  · exact (modPath p _ s).trans (changeState _ _ _ _ _)
  · refine .trans ?_ (changeState _ _ _ _ _)
    refine .trans ?_ (foldl (failedClip _) _ _)
    refine .trans ?_ (foldl (fun u lost => failedPicture _ _ _ u) _ _)
    exact (modPath p _ s).trans (modSched _ _)

theorem triggerRetry (p : Fin 4) (cause : PathCause) (s : State) : RateKept s (triggerRetry p cause s) := by
  unfold Machine.triggerRetry
  simp only
  split
  · exact (modPath p _ s).trans (goDown _ _ _)
  · refine .trans ?_ (settleStates p _)
    refine .trans ?_ (changeState _ _ _ _ _)
    exact (modPath p _ s).trans (modPath _ _ _)

theorem ackExpired (p : Fin 4) (s : State) : RateKept s (ackExpired p s) := by
  unfold Machine.ackExpired
  split
  · exact triggerRetry _ _ s
  · exact goDown _ _ s
  all_goals exact refl s

theorem helloExpired (p : Fin 4) (s : State) : RateKept s (helloExpired p s) := by
  unfold Machine.helloExpired
  split
  · exact (modPath p _ s).trans (modPath _ _ _)
  · exact goDown _ _ s

theorem enterProbe (p : Fin 4) (s : State) : RateKept s (enterProbe p s) := by
  unfold Machine.enterProbe
  refine .trans ?_ (.trans (modPath p _ _) (modPath p _ _))
  exact (modPath p _ s).trans (changeState _ _ _ _ _)

/-! ### Frames from home (R156 to R171) -/

theorem takeCredit (p : Fin 4) (returned : Nat) (s : State) : RateKept s (takeCredit p returned s) := by
  unfold Machine.takeCredit
  simp only
  split
  · exact (modPath p _ s).trans (raise _ _)
  · exact modPath p _ s

theorem takeAck (p : Fin 4) (pointer : Nat) (s : State) : RateKept s (takeAck p pointer s) := by
  unfold Machine.takeAck
  simp only
  repeat' split
  · exact raise _ s
  · exact refl s
  · exact raise _ s
  · exact (modPath p _ s).trans (settleStates p _)

theorem testRetry (p : Fin 4) (requested : Bool) (s : State) : RateKept s (testRetry p requested s) := by
  unfold Machine.testRetry
  exact .trans (ite (triggerRetry p _) s) (modPath p _ _)

theorem takeFields (p : Fin 4) (f : HomeFrame) (s : State) : RateKept s (takeFields p f s) :=
  .trans ((takeCredit p _ s).trans (takeAck p _ _)) (testRetry p _ _)

theorem takeCells (p : Fin 4) (cells : Nat) (s : State) : RateKept s (takeCells p cells s) := by
  unfold Machine.takeCells
  exact .trans (modPath p _ s) (ite (fun u => modPath p _ u) _)

theorem badFrame (p : Fin 4) (cause : ReceiveCause) (s : State) : RateKept s (badFrame p cause s) := by
  unfold Machine.badFrame
  exact (raise _ _).after rfl

theorem endWait (id : Nat) (cause : SendCause) (s : State) : RateKept s (endWait id cause s) := by
  unfold Machine.endWait
  repeat' split
  · exact refl s
  · exact (modClip id _ s).trans (setSend _ _ _ _)
  · exact (setSend _ _ _ _).after rfl

theorem confirmClip (p : Fin 4) (id : Nat) (digest : Digest) (s : State) : RateKept s (confirmClip p id digest s) := by
  unfold Machine.confirmClip
  repeat' split
  · exact raise _ s
  · exact raise _ s
  · exact (modClip id _ s).trans (setSend _ _ _ _)
  · exact endWait _ _ s

theorem dispatchSequenced (p : Fin 4) (f : HomeFrame) (s : State) : RateKept s (dispatchSequenced p f s) := by
  unfold Machine.dispatchSequenced
  repeat' split
  · exact of_coders (by rw [id (returnFrame_only p _ _ _ s)])
  · exact confirmClip p _ _ s
  · exact raise _ s
  · exact raise _ s

theorem dispatchControl (p : Fin 4) (f : HomeFrame) (s : State) : RateKept s (dispatchControl p f s) := by
  have close : RateKept s (homeClose p s) := by
    unfold homeClose
    split
    · exact changeState _ _ _ _ s
    · exact modPath p _ s
    all_goals exact refl s
  unfold Machine.dispatchControl
  repeat' split
  · exact close
  · exact raise _ s
  · exact raise _ s
  · exact raise _ s
  · exact refl s

theorem receiveInProbe (p : Fin 4) (f : HomeFrame) (s : State) : RateKept s (receiveInProbe p f s) := by
  unfold Machine.receiveInProbe
  simp only
  repeat' split
  · exact refl s
  · exact raise _ s
  · exact (modPath p _ s).trans (changeState _ _ _ _ _)

theorem receiveInError (p : Fin 4) (f : HomeFrame) (s : State) : RateKept s (receiveInError p f s) := by
  have rejected : ∀ u, RateKept u (rejectFrame p u) := fun u => modPath p _ u
  unfold Machine.receiveInError
  simp only
  repeat' split
  · exact rejected s
  · exact (modPath p _ s).trans (takeFields p f _)
  · exact .trans ((rejected s).trans (takeCredit p _ _)) ((takeAck p _ _).trans (testRetry p _ _))
  · exact .trans (rejected s) ((takeAck p _ _).trans (testRetry p _ _))

theorem receiveChecked (p : Fin 4) (f : HomeFrame) (s : State) : RateKept s (receiveChecked p f s) := by
  have taken := (takeFields p f s).trans (takeCells p f.cells _)
  unfold Machine.receiveChecked
  simp only
  repeat' split
  · exact badFrame p _ s
  · exact badFrame p _ s
  · exact badFrame p _ s
  · exact (takeFields p f s).trans (dispatchControl p f _)
  · exact badFrame p _ s
  · exact badFrame p _ s
  · exact taken.trans (raise _ _)
  · exact taken.trans (dispatchSequenced p f _)

theorem receiveCells (p : Fin 4) (cells : List Byte) (s : State) : RateKept s (receiveCells p cells s) := by
  have frame : ∀ f u, RateKept u (receiveFrame p f u) := by
    intro f u
    unfold receiveFrame
    simp only
    split
    · exact refl u
    · exact receiveInProbe p f u
    all_goals
      refine .trans (t := u.modPath p fun path => { path with framesReceived := path.framesReceived + 1 }) (modPath p _ u) ?_
      split
      · exact receiveInError p f _
      · exact receiveChecked p f _
  have loop : ∀ n u, RateKept u (receiveLoop p n u) := by
    intro n
    induction n with
    | zero => exact refl
    | succ n ih =>
      intro u
      rw [receiveLoop]
      simp only
      generalize (if lengthsAgree u.paths[p].arriving then 32 * headCells u.paths[p].arriving else 32) = size
      split
      · exact refl u
      · exact .trans ((modPath p _ u).trans (frame _ _)) (ih _)
  unfold Machine.receiveCells
  split
  · exact refl s
  · exact (modPath p _ s).trans (loop _ _)

/-! ### The store, and reads in progress (R65, R81, R83, R184) -/

theorem markDamaged (id first last : Nat) (cause : DamageCause) (s : State) :
    RateKept s (markDamaged id first last cause s) := of_damage (markDamaged_only id first last cause s)

theorem patrolRead (s : State) : RateKept s (patrolRead s) := by
  have lines : ∀ page l u, RateKept u (patrolLines page l u) := by
    intro page l
    induction l with
    | nil => exact refl
    | cons line rest ih =>
      intro u
      have read : RateKept u (readLine line u).2.2 := of_record (readLine_only line u)
      rw [patrolLines]
      split
      · next e =>
        rw [e] at read
        exact read.trans (ih _)
      · next e =>
        rw [e] at read
        exact read.trans ((ih _).after rfl)
      · next e =>
        rw [e] at read
        refine read.trans ?_
        split
        · refine .trans ?_ (of_record (.of_reclaim (reclaimPages_only _)))
          exact (raise _ _).after rfl
        · refine .trans ?_ (ih _)
          simp only
          split
          · exact (markDamaged _ _ _ _ _).after rfl
          · exact of_coders rfl
  unfold Machine.patrolRead
  simp only
  split
  · exact of_coders rfl
  · refine .trans ?_ (modStore _ _)
    exact (lines _ _ _).after rfl

theorem initialisePage (s : State) : RateKept s (initialisePage s) := by
  unfold Machine.initialisePage
  simp only
  repeat' split
  · exact refl s
  · exact (raise _ _).after rfl
  · exact of_coders rfl

theorem readOutcomeAt (r : DemandRead) (read : RangeRead) (s : State) : RateKept s (readOutcomeAt r read s) := by
  have finished : ∀ id g sum u, RateKept u (finishSegment id g sum u) := by
    intro id g sum u
    unfold finishSegment
    simp only
    refine .trans ?_ (modClip id _ _)
    split
    · exact refl u
    · exact markDamaged _ _ _ _ u
  unfold Machine.readOutcomeAt
  simp only
  repeat' split
  · exact refl s
  · exact refl s
  · exact refl s
  · exact modClip _ _ s
  · exact finished _ _ _ s
  · exact modClip _ _ s

theorem demandRead (segment : Option Nat) (pages : List Nat) (x length : Nat) (s : State) :
    RateKept s (demandRead segment pages x length s).2 :=
  .trans (of_coders (by rw [demandRead_freed])) (of_damage (demandRead_only segment pages x length s))

theorem endRead (r : DemandRead) (s : State) : RateKept s (endRead r s) := by
  have read := (demandRead r.segment r.pages r.offset r.length
    (s.modSched fun sc => { sc with reads := sc.reads.erase r })).after (s := s) rfl
  unfold Machine.endRead
  refine .trans ?_ (ite (readOutcomeAt r _) _)
  split
  · exact read.trans (modPath _ _ _)
  · exact read

theorem frameEnd (p : Fin 4) (s : State) : RateKept s (frameEnd p s) := by
  unfold Machine.frameEnd
  split
  · exact refl s
  · refine .trans ?_ (modPath p _ _)
    split
    · exact endRead _ s
    · exact refl s

/-! ### Takes (R20 to R23) -/

/-- A rate take stages nothing and writes nothing; the channel's mode becomes STANDBY (R23). -/
theorem coderRateTake (c : Fin 6) (due : Staged) (s : State) : RateKept s (coderRateTake c due s) := by
  cases was : s.coders[c].mode.isActive with
  | false =>
    rw [coderRateTake_inactive was]
    exact of_coders rfl
  | true =>
    refine of_vecSet (coderRateTake_coders was) ?_ fun ⟨low, high, full, size⟩ => ?_
    · rw [workedRecord_keeps]
      rfl
    · exact CoderChannel.Held.worked (k := { s.coders[c] with mode := .standby }) ⟨low, high, full, size⟩ _ _

end RateKept

/-! ### The settings while a tick takes them (R18, R20) -/

/-- Every channel is in its limits, also once what is due to it is written. -/
def State.Limited (due : Vector Staged 6) (s : State) : Prop := ∀ c : Fin 6, s.coders[c].Limited due[c]

theorem codersWithinBounds_iff : s.codersWithinBounds ↔ s.Limited noneDue := by
  have none : ∀ c : Fin 6, noneDue[c] = Staged.empty := fun c => by simp [noneDue]
  simp only [State.codersWithinBounds, State.Limited, withinBounds_iff, none]

theorem RateKept.limited {due : Vector Staged 6} (h : RateKept s t) (limited : s.Limited due) : t.Limited due := by
  intro c
  obtain ⟨held, inForce, atTake, afterTake⟩ := limited c
  have settings := h.settings c
  have staged : t.coders[c].staged = s.coders[c].staged := congrArg Settings.staged settings
  exact ⟨h.held c held, settings ▸ inForce, settings ▸ atTake, by rw [settings, staged]; exact afterTake⟩

theorem RateKept.withinBounds (h : RateKept s t) (bounds : s.codersWithinBounds) : t.codersWithinBounds :=
  codersWithinBounds_iff.mpr (h.limited (codersWithinBounds_iff.mp bounds))

/-- A value of the new change stands before one of the old (R18). -/
theorem getD_orElse {α : Type} (new old : Option α) (x : α) : (new <|> old).getD x = new.getD (old.getD x) := by
  cases new <;> rfl

/-- What is staged over a due change is what is staged once that change is written. -/
theorem ordered_merge (g : Settings) (st due : Staged) :
    g.Ordered (mergeStaged st due) ↔ (g.write due).Ordered st := by
  simp only [Settings.Ordered, mergeStaged, Settings.write, getD_orElse]

/-- Writing a change twice is writing it once. -/
theorem ordered_write (g : Settings) (due : Staged) : (g.write due).Ordered due ↔ g.Ordered due := by
  rw [← ordered_merge]
  simp only [Settings.Ordered, mergeStaged, Option.orElse_eq_orElse, Option.orElse_eq_or, Option.or_self]

/-! ### CODER_SET, as a request and from a cue (R11, R18) -/

/-- A body whose values are in range gives no upper bound above 51. -/
theorem readStaged_qMax {body : List Byte} (inRange : stagedInRange body = true) {q : Nat}
    (h : (readStaged body).qMax = some q) : q ≤ 51 := by
  unfold stagedInRange at inRange
  unfold readStaged at h
  split at inRange
  · next fields =>
    rw [fields] at h
    simp only [Bool.and_eq_true] at inRange
    have top := inRange.2
    dsimp only at h
    simpa [h] using top
  · cases inRange

/-- A change merged over two others is merged over both. -/
theorem ordered_merge_merge (g : Settings) (new st due : Staged) :
    g.Ordered (mergeStaged (mergeStaged new st) due) ↔ g.Ordered (mergeStaged new (mergeStaged st due)) := by
  simp only [Settings.Ordered, mergeStaged, getD_orElse]

/-- New bounds no higher than 51 that are in order with the others: the others' upper bound is no higher either. -/
theorem ordered_of_new {g : Settings} {new st : Staged} (others : g.Ordered st) (top : ∀ q, new.qMax = some q → q ≤ 51)
    (ordered : (mergeStaged new st).qMin.getD g.qMin ≤ (mergeStaged new st).qMax.getD g.qMax) :
    g.Ordered (mergeStaged new st) := by
  refine ⟨ordered, ?_⟩
  show (new.qMax <|> st.qMax).getD g.qMax ≤ 51
  cases given : new.qMax with
  | none => exact others.2
  | some q => exact top q given

/-- What CODER_SET stages passes its check of the bounds with the due change as written (R18). -/
theorem coderSet_limited {due : Vector Staged 6} (body : List Byte) (limited : s.Limited due) :
    (coderSet due body s).2.Limited due := by
  unfold coderSet
  split
  · exact limited
  · next c _ =>
    simp only
    split_ifs with inRange ordered
    iterate 5 exact limited
    · obtain ⟨held, inForce, atTake, afterTake⟩ := limited c
      intro d
      by_cases e : d = c
      · subst e
        have merged : s.coders[d].settings.Ordered
            (mergeStaged (mergeStaged (readStaged body) s.coders[d].staged) due[d]) :=
          (ordered_merge_merge _ _ _ _).mpr (ordered_of_new afterTake
            (fun q => readStaged_qMax (by simpa using inRange)) (Nat.le_of_not_lt ordered))
        rw [answerAccepted_snd, State.modCoder_coders, vecModify_same]
        exact ⟨⟨held.low, held.high, held.full, held.size⟩, inForce, atTake, merged⟩
      · rw [answerAccepted_snd, State.modCoder_coders, vecModify_other _ _ _ _ e]
        exact limited d

/-- A cue's action stages what CODER_SET may stage, or leaves the channels (R11). -/
theorem fireCue_limited {due : Vector Staged 6} (outcome : CueOutcome) (cue : Cue) (limited : s.Limited due) :
    (fireCue due outcome s cue).Limited due := by
  have start : (withoutCue cue s).Limited due := RateKept.limited (.of_coders rfl) limited
  have acted : (performAction due cue.action cue.body (withoutCue cue s)).2.Limited due := by
    unfold performAction
    split
    · exact start
    · split
      · exact coderSet_limited _ start
      · rcases sceneRecall_only cue.body (withoutCue cue s) with h | ⟨_, _, _, -, h⟩ <;> rw [h]
        · exact start
        · exact RateKept.limited (.of_coders rfl) start
      · exact (RateKept.of_open (clipOpen_only _ _ _)).limited start
      · exact (RateKept.of_clip (clipClose_only _ _ _)).limited start
      · exact (RateKept.of_clip (clipMark_only _ _)).limited start
  rw [fireCue_eq]
  exact (RateKept.raise _ _).limited acted

theorem fireCues_limited {due : Vector Staged 6} (limited : s.Limited due) : (fireCues due s).Limited due := by
  have fold : ∀ outcome (cues : List Cue) (u : State), u.Limited due → (cues.foldl (fireCue due outcome) u).Limited due :=
    fun outcome _ _ h => List.foldlRecOn _ _ h fun _ h cue _ => fireCue_limited outcome cue h
  exact fold _ _ _ (fold _ _ _ limited)

/-! ### The picture tick (R19 to R23) -/

/-- A take writes bounds in order, and keeps q within them (R20). -/
theorem coderTick_held {c : Fin 6} (ordered : s.coders[c].settings.Ordered due) (d : Fin 6)
    (held : s.coders[d].Held) : (coderTick c due s).coders[d].Held := by
  have taken : (if due = Staged.empty then s else takeStaged c due s).coders[d].Held := by
    split
    · exact held
    · show (takeStaged c due s).coders[d].Held
      rw [takeStaged_coders]
      by_cases e : d = c
      · subst e
        rw [vecSet_same]
        exact CoderChannel.Held.worked (k := writtenRecord d due s)
          ⟨clampIndex_low _ _ _, clampIndex_high ordered.1 _, held.full, held.size⟩ _ _
      · rw [vecSet_other _ _ _ _ e]
        exact held
  unfold coderTick
  exact (RateKept.ite (RateKept.pictureStart c) _).held d taken

/-- While the agents handle a tick, every channel is in its limits, and bounds that are due to it are in order. -/
def State.Taking (due : Vector Staged 6) (s : State) : Prop :=
  ∀ c : Fin 6, s.coders[c].Held ∧ s.coders[c].settings.Ordered due[c]

theorem RateKept.taking {due : Vector Staged 6} (h : RateKept s t) (taking : s.Taking due) : t.Taking due := by
  intro c
  obtain ⟨held, ordered⟩ := taking c
  exact ⟨h.held c held, by rw [h.settings c]; exact ordered⟩

theorem State.Limited.taking {due : Vector Staged 6} (limited : s.Limited due) : s.Taking due :=
  fun c => ⟨(limited c).held, (limited c).atTake⟩

theorem agentTurn_taking {due : Vector Staged 6} (changes : Nat) (agent : TickAgent) (taking : s.Taking due) :
    (agentTurn due changes false s agent).Taking due := by
  intro c
  obtain ⟨-, ordered⟩ := taking c
  constructor
  · refine (RateKept.serve _).held c ?_
    cases agent with
    | coder d => exact coderTick_held (taking d).2 c (taking c).1
    | scheduler => exact (RateKept.schedulerTick s).held c (taking c).1
    | mixer => exact (RateKept.of_mix (blockTick_only changes s)).held c (taking c).1
  · rw [agentTurn_staged]
    split
    · exact (ordered_write _ _).mpr ordered
    · exact ordered

/-- At a rate take no agent touches the settings. -/
theorem RateKept.agentTurn (due : Vector Staged 6) (changes : Nat) (s : State) (agent : TickAgent) :
    RateKept s (agentTurn due changes true s agent) := by
  refine .trans ?_ (serve _)
  cases agent with
  | coder c => exact coderRateTake c _ s
  | scheduler => exact schedulerTick s
  | mixer => exact of_mix (blockTick_only changes s)

/-- The tick begins with nothing staged, and with the bounds of what is due, if it takes, in order. -/
theorem fixedTimecode_limited {w : State} (bounds : w.codersWithinBounds) (due : Vector Staged 6)
    (ordered : ∀ c : Fin 6, w.coders[c].settings.Ordered due[c]) : (fixedTimecode w).Limited due := by
  have ended := RateKept.endPictures w
  obtain ⟨-, -, coders, -⟩ := takeTimecode_keeps (beginPeriod (endPictures w))
  intro c
  have settings := ended.settings c
  obtain ⟨held, inForce, -, -⟩ := ended.limited (codersWithinBounds_iff.mp bounds) c
  have begun : (fixedTimecode w).coders[c] = { (endPictures w).coders[c] with handed := false, staged := Staged.empty } := by
    rw [fixedTimecode, coders]
    exact vecMap_get _ _ _
  rw [begun]
  have dueNow : (endPictures w).coders[c].settings.Ordered due[c] := by rw [settings]; exact ordered c
  exact ⟨⟨held.low, held.high, held.full, held.size⟩, inForce, dueNow, dueNow⟩

/-- The agents' turns keep every channel in its limits, and write the bounds that were due (R20). -/
theorem pictureTick_limited {w : State} (rate : w.timing.stagedRate = none)
    (start : (fixedTick w).Limited (vecMap (fun k : CoderChannel => k.staged) (endPictures w).coders)) :
    (pictureTick w).codersWithinBounds := by
  obtain ⟨-, timing, -, -⟩ := endPictures_keeps w
  have turns : (pictureTick w).Taking (vecMap (fun k : CoderChannel => k.staged) (endPictures w).coders) := by
    rw [pictureTick_eq, timing, rate]
    refine List.foldlRecOn _ _ ?_ fun u taking agent _ => agentTurn_taking _ agent taking
    exact RateKept.taking (s := fixedTick w) (.of_coders rfl) start.taking
  refine fun c => withinBounds_iff.mpr ?_
  obtain ⟨held, inForce⟩ := turns c
  obtain ⟨-, -, -, afterTake⟩ := start c
  have settings := pictureTick_settings rate c
  have staged : (pictureTick w).coders[c].staged = (fixedTick w).coders[c].staged := congrArg Settings.staged settings
  rw [dueAt] at inForce afterTake
  rw [settings, ordered_write] at inForce
  have written : (pictureTick w).coders[c].settings.Ordered Staged.empty := settings ▸ inForce
  refine ⟨held, written, written, ?_⟩
  rw [mergeStaged_nothing, staged, settings]
  exact (ordered_merge _ _ _).mp afterTake

theorem takeRate_coders (old : PictureRate) (s : State) : (takeRate old s).coders = s.coders := by
  rw [takeRate_only]

theorem pictureTick_withinBounds {w : State} (bounds : w.codersWithinBounds) : (pictureTick w).codersWithinBounds := by
  have limited := codersWithinBounds_iff.mp bounds
  obtain ⟨-, timing, -, -⟩ := endPictures_keeps w
  cases rate : w.timing.stagedRate with
  | some p =>
    have start : (fixedTick w).codersWithinBounds := by
      rw [fixedTick_eq, rate]
      refine RateKept.withinBounds (.of_coders (takeRate_coders _ _)) ?_
      exact codersWithinBounds_iff.mpr (fixedTimecode_limited bounds noneDue fun c => (limited c).atTake)
    rw [pictureTick_eq, timing, rate]
    exact RateKept.withinBounds (.foldl (RateKept.agentTurn _ _) _ _) start
  | none =>
    refine pictureTick_limited rate ?_
    rw [fixedTick_eq, rate]
    refine fireCues_limited (fixedTimecode_limited bounds _ fun c => ?_)
    rw [dueAt, ← mergeStaged_nothing w.coders[c].staged]
    exact (withinBounds_iff.mp (bounds c)).afterTake

/-! ### The requests -/

namespace RateKept

variable {owner : List Byte → State → Reply × State} (body : List Byte) (s : State)

theorem thenServe (h : RateKept s (owner body s).2) : RateKept s (thenServe owner body s).2 := by
  have served := h.trans (serve (owner body s).2)
  unfold Machine.thenServe
  generalize owner body s = answer at h served ⊢
  obtain ⟨reply, t⟩ := answer
  dsimp only at h served ⊢
  split <;> dsimp only
  · exact served
  · exact served
  all_goals exact h

theorem waitChecks : RateKept s (waitChecks s) := by
  unfold Machine.waitChecks
  repeat' split
  · cases e : boundaryChecks _ s with
    | none => exact refl s
    | some t => exact of_send (boundaryChecks_only e) (Served.boundaryChecks e).fullness
  all_goals exact refl s

theorem thenCheck (h : RateKept s (owner body s).2) : RateKept s (thenCheck owner body s).2 := by
  have served := h.trans ((waitChecks (owner body s).2).trans (serve _))
  unfold Machine.thenCheck
  generalize owner body s = answer at h served ⊢
  obtain ⟨reply, t⟩ := answer
  dsimp only at h served ⊢
  split <;> dsimp only
  · exact served
  · exact served
  all_goals exact h

theorem joinChange (change : Change) {answer : State → Reply × State} (h : ∀ u, (answer u).2 = u) :
    RateKept s (joinChange change answer s).2 := by
  rcases joinChange_only change answer h s with e | ⟨-, e⟩ <;> rw [e]
  · exact refl s
  · exact of_coders rfl

theorem busSet : RateKept s (busSet body s).2 := by
  unfold Machine.busSet
  simp only
  repeat' split
  all_goals first
    | exact refl s
    | exact joinChange s _ fun _ => rfl

/-! #### Requests that leave the channels -/

theorem setTimecode : RateKept s (setTimecode body s).2 := by
  unfold Machine.setTimecode
  simp only
  split
  all_goals exact of_coders rfl

theorem setReference : RateKept s (setReference body s).2 := by
  unfold Machine.setReference
  repeat' split
  all_goals exact of_coders rfl

theorem cueCancel : RateKept s (cueCancel body s).2 := by
  unfold Machine.cueCancel
  repeat' split
  all_goals exact of_coders rfl

theorem clipLabel : RateKept s (clipLabel body s).2 := by
  unfold Machine.clipLabel
  repeat' split
  all_goals exact of_coders rfl

theorem clipRate : RateKept s (clipRate body s).2 := by
  unfold Machine.clipRate
  repeat' split
  all_goals exact of_coders rfl

theorem cueAdd : RateKept s (cueAdd body s).2 := by
  unfold Machine.cueAdd
  simp only
  repeat' split
  all_goals exact of_coders rfl

theorem segmentInfo : RateKept s (segmentInfo body s).2 := by
  unfold Machine.segmentInfo
  simp only
  repeat' split
  all_goals exact of_coders rfl

theorem clipList : RateKept s (clipList body s).2 := by
  unfold Machine.clipList
  simp only
  repeat' split
  all_goals exact of_coders rfl

theorem embedSet : RateKept s (embedSet body s).2 := by
  unfold Machine.embedSet
  split
  · exact joinChange s _ fun _ => rfl
  · exact refl s

theorem channelSet : RateKept s (channelSet body s).2 := by
  unfold Machine.channelSet
  split
  · exact refl s
  · exact joinChange s _ fun _ => rfl

theorem sendSet : RateKept s (sendSet body s).2 := by
  unfold Machine.sendSet
  split
  · exact joinChange s _ fun _ => rfl
  · exact refl s

theorem outputSet : RateKept s (outputSet body s).2 := by
  unfold Machine.outputSet
  split
  · exact joinChange s _ fun _ => rfl
  · exact refl s

theorem sceneRecall : RateKept s (sceneRecall body s).2 := by
  rcases sceneRecall_only body s with e | ⟨_, _, _, -, e⟩ <;> rw [e]
  · exact refl s
  · exact of_coders rfl

/-! #### Requests that more follows from -/

theorem recompute (cause : AllocCause) : RateKept s (recompute cause s) := of_alloc (recompute_only cause s)

theorem pathRate : RateKept s (pathRate body s).2 := by
  unfold Machine.pathRate
  split
  · exact refl s
  · exact (recompute _ _).after rfl

theorem clipShare : RateKept s (clipShare body s).2 := by
  unfold Machine.clipShare
  simp only
  split
  · exact refl s
  · exact (recompute _ _).after rfl

theorem clipSend : RateKept s (clipSend body s).2 := by
  unfold Machine.clipSend
  repeat' split
  · exact refl s
  · exact refl s
  · exact (setSend _ _ _ _).after rfl

theorem clipRelease : RateKept s (clipRelease body s).2 := by
  unfold Machine.clipRelease
  split
  · exact refl s
  · simp only [answerOk_snd]
    split
    · exact (setSend _ _ _ _).after rfl
    · exact modClip _ _ s

theorem clipDiscard : RateKept s (clipDiscard body s).2 := by
  unfold Machine.clipDiscard
  repeat' split
  · exact refl s
  · exact modClip _ _ s
  · exact of_clip (freeClip_only _ s)

theorem returnSet : RateKept s (returnSet body s).2 := by
  unfold Machine.returnSet
  split
  · exact refl s
  · exact of_coders (by rw [answerOk_snd, id (primeReturn_only _ _)]; rfl)

theorem pathOpen : RateKept s (pathOpen body s).2 := by
  unfold Machine.pathOpen
  repeat' split
  · exact refl s
  · exact enterProbe _ s
  all_goals exact refl s

theorem pathClose : RateKept s (pathClose body s).2 := by
  unfold Machine.pathClose
  repeat' split
  · exact refl s
  · exact refl s
  · exact refl s
  · exact goDown _ _ s
  · exact (changeState _ _ _ _ s).trans (modPath _ _ _)
  · exact modPath _ _ s

theorem pathSet : RateKept s (pathSet body s).2 := by
  unfold Machine.pathSet
  split
  · exact refl s
  · exact (modPath _ _ s).trans (ite (ackExpired _) _)

end RateKept

/-! ### Every command -/

/-- A reset starts every channel with q and its bounds at their reset values, and F and Bv at 0 (Table 9-7). -/
theorem reset_withinBounds (coders : t.coders = Vector.ofFn resetCoder) : t.codersWithinBounds := by
  intro c
  have start : t.coders[c] = resetCoder c := by
    rw [coders]
    exact Vector.getElem_ofFn c.isLt
  rw [start]
  show 0 ≤ 26 ∧ 26 ≤ 51 ∧ 51 ≤ 51 ∧ 0 ≤ 51 ∧ 51 ≤ 51 ∧ 0 ≤ 0 ∧ 0 ≤ 4 * 0
  decide

theorem lineFrameEnd_withinBounds (bounds : s.codersWithinBounds) : (lineFrameEnd s).codersWithinBounds := by
  unfold lineFrameEnd
  split
  · exact bounds
  · exact bounds
  · exact bounds
  · simp only
    split
    · unfold resetAct
      split
      · exact reset_withinBounds rfl
      · exact reset_withinBounds rfl
    · exact bounds

theorem referencePulse_withinBounds (bounds : s.codersWithinBounds) : (referencePulse s).codersWithinBounds := by
  have relocked : (relock s).codersWithinBounds := by
    unfold relock
    simp only
    split
    · exact pictureTick_withinBounds (RateKept.withinBounds (.of_coders (raise_coders _ _)) bounds)
    · exact RateKept.withinBounds (.of_coders (raise_coders _ _)) bounds
  unfold referencePulse
  split
  · unfold pulseLocked
    split
    · exact bounds
    · simp only
      split
      · exact pictureTick_withinBounds bounds
      · exact bounds
  all_goals exact relocked

theorem lossExpiry_withinBounds (bounds : s.codersWithinBounds) : (lossExpiry s).codersWithinBounds := by
  unfold lossExpiry
  split
  · refine RateKept.withinBounds (.raise _ _) (pictureTick_withinBounds ?_)
    exact bounds
  · exact bounds

theorem oscillatorTick_withinBounds (bounds : s.codersWithinBounds) : (oscillatorTick s).codersWithinBounds := by
  unfold oscillatorTick
  split
  · exact bounds
  all_goals exact pictureTick_withinBounds bounds

theorem finish_withinBounds (ran : finish u = .next t) (bounds : u.codersWithinBounds) : t.codersWithinBounds := by
  cases ran
  exact bounds

theorem runRequest_withinBounds {kind : RequestKind} {owner : List Byte → State → Reply × State}
    (bounds : s.codersWithinBounds) (owns : ∀ body, (owner body s).2.codersWithinBounds)
    (ran : runRequest kind owner s = .next t) : t.codersWithinBounds := by
  unfold runRequest at ran
  split at ran
  · exact finish_withinBounds ran bounds
  · next e _ =>
    split at ran
    · refine finish_withinBounds ran ?_
      show (if lengthOk kind e.body then owner e.body s else refuse .badLength s).2.codersWithinBounds
      split
      · exact owns _
      · exact bounds
    · exact finish_withinBounds ran bounds

theorem runUnknown_withinBounds (bounds : s.codersWithinBounds) (ran : runUnknown s = .next t) : t.codersWithinBounds := by
  unfold runUnknown at ran
  split at ran
  · exact finish_withinBounds ran bounds
  · split at ran
    · exact finish_withinBounds ran bounds
    · exact finish_withinBounds (u := s.modControl _) ran bounds

/-- A port's input state is copied by channels, and no more of them changes (R15). -/
theorem RateKept.portChange (p : Fin 8) (state : InputState) (s : State) : RateKept s (portChange p state s) := by
  rw [portChange_eq]
  refine .after (t := s.modPort p _) (.foldl (fun u c => ?_) _ _) rfl
  unfold copyInput
  simp only
  split
  · exact spares c _ u fun _ => rfl
  · refine .trans ?_ (raise _ _)
    exact spares c _ u fun _ => rfl

/-- Every command keeps every channel in its limits: a command that ticks by the turns of the agents, CODER_SET by its check,
a reset by the values it gives, and every other command because it touches no setting. -/
theorem exec_withinBounds (i : Instr) (bounds : s.codersWithinBounds) (ran : exec i s = .next t) : t.codersWithinBounds := by
  have kept : ∀ {u}, finish u = .next t → RateKept s u → t.codersWithinBounds := fun ran h =>
    finish_withinBounds ran (h.withinBounds bounds)
  have served : ∀ {u}, finish (serve u) = .next t → RateKept s u → t.codersWithinBounds := fun ran h =>
    kept ran (h.trans (.serve _))
  have request : ∀ {kind owner}, runRequest kind owner s = .next t → (∀ body, RateKept s (owner body s).2) →
      t.codersWithinBounds := fun ran owns => runRequest_withinBounds bounds (fun body => (owns body).withinBounds bounds) ran
  cases i with
  | powerOn straps => exact finish_withinBounds ran (reset_withinBounds rfl)
  | referencePulse elapsed => exact finish_withinBounds ran (referencePulse_withinBounds bounds)
  | lossWindowExpiry => exact finish_withinBounds ran (lossExpiry_withinBounds bounds)
  | oscillatorTick => exact finish_withinBounds ran (oscillatorTick_withinBounds bounds)
  | audioFrameLate => exact kept ran (.audioExpiry s)
  | pictureDeadline channel => exact kept ran (.pictureExpiry channel s)
  | audioBlockTick => exact served ran (.after (.of_mix (blockTick_only _ _)) rfl)
  | sceneDone => exact kept ran (.of_mix (finishRecall_only s))
  | meterPeriodEnd => exact kept ran (.of_mix (endMeterPeriod_only s))
  | serialSampleFrame elapsed port samples => exact kept ran (.of_coders rfl)
  | embeddedSampleFrame elapsed port pair left right => exact kept ran (.of_coders rfl)
  | videoPictureStart elapsed port lines pairs =>
    simp only [exec, execVideoPictureStart] at ran
    split at ran
    · exact kept ran (.of_coders rfl)
    · refine kept ran (.trans ?_ (.of_mix (emptySilent_only _)))
      split
      · exact .after (.portChange port .present _) rfl
      · exact .of_coders rfl
  | videoPictureComplete elapsed port picture =>
    simp only [exec, execVideoPictureComplete] at ran
    repeat' split at ran
    all_goals exact kept ran (.of_coders rfl)
  | inputLossExpiry port =>
    simp only [exec, execInputLossExpiry] at ran
    split at ran
    · exact kept ran (.refl s)
    · refine kept ran (.trans ?_ (.of_mix (emptySilent_only _)))
      exact .after (.portChange port .lost _) rfl
  | pictureCoded elapsed channel => exact served ran (.after (.pictureCodedEvent channel _) rfl)
  | initPage elapsed => exact kept ran (.after (.initialisePage _) rfl)
  | patrolRead => exact served ran (.after (.patrolRead _) rfl)
  | demandReadEnd elapsed clip =>
    simp only [exec, execDemandReadEnd] at ran
    split at ran
    · exact kept ran (.of_coders rfl)
    · exact served ran (.after (.endRead _ _) rfl)
  | homeFrameReceived elapsed path cells => exact served ran (.after (.receiveCells path cells _) rfl)
  | confirmTimeout clip =>
    simp only [exec, execConfirmTimeout] at ran
    repeat' split at ran
    · exact kept ran (.refl s)
    · exact kept ran (.refl s)
    · exact served ran (.after (.endWait clip .timeout _) rfl)
  | helloTimeout path =>
    simp only [exec, execHelloTimeout] at ran
    split at ran
    · exact served ran (.after (.helloExpired path _) rfl)
    · exact kept ran (.refl s)
  | ackTimeout path =>
    simp only [exec, execAckTimeout] at ran
    split at ran
    · exact kept ran (.refl s)
    · exact served ran (.after (.ackExpired path _) rfl)
  | creditTimerExpiry path =>
    simp only [exec, execCreditTimerExpiry] at ran
    repeat' split at ran
    · exact kept ran (.refl s)
    · exact served ran (.of_coders rfl)
    · exact kept ran (.refl s)
  | retryRequestRepeat path =>
    simp only [exec, execRetryRequestRepeat] at ran
    split at ran
    · exact served ran (.of_coders rfl)
    · exact kept ran (.refl s)
  | pathFrameEnd elapsed path => exact served ran (.after (.frameEnd path _) rfl)
  | requestArrival elapsed bytes => exact kept ran (.of_coders rfl)
  | badControlFrame elapsed bytes => exact kept ran (.of_coders rfl)
  | unknownRequestKind => exact runUnknown_withinBounds bounds ran
  | controlFrameEnd elapsed => exact finish_withinBounds ran (lineFrameEnd_withinBounds (s := s.elapse elapsed) bounds)
  | memoryError elapsed page line bits =>
    simp only [exec, execMemoryError] at ran
    repeat' split at ran
    · cases ran
    · exact kept ran (.of_coders rfl)
    · exact kept ran (.of_coders rfl)
  | coderSet =>
    exact runRequest_withinBounds bounds (fun body => codersWithinBounds_iff.mpr
      (coderSet_limited body (codersWithinBounds_iff.mp bounds))) ran
  | setTimecode => exact request ran (fun body => .setTimecode body s)
  | setReference => exact request ran (fun body => .setReference body s)
  | cueAdd => exact request ran (fun body => .cueAdd body s)
  | cueCancel => exact request ran (fun body => .cueCancel body s)
  | cueList => exact request ran (fun _ => .refl s)
  | inputInfo => exact request ran (fun _ => .of_coders (by unfold inputInfo; split <;> rfl))
  | coderInfo => exact request ran (fun _ => .of_coders (by unfold coderInfo; split <;> rfl))
  | pathRate => exact request ran (fun body => .pathRate body s)
  | clipShare => exact request ran (fun body => .clipShare body s)
  | budgetInfo => exact request ran (fun _ => .refl s)
  | storeSet => exact request ran (fun _ => .of_coders rfl)
  | storeInfo => exact request ran (fun _ => .refl s)
  | segmentInfo => exact request ran (fun body => .segmentInfo body s)
  | timelineInfo => exact request ran (fun _ => .of_coders (by unfold timelineInfo; split <;> rfl))
  | clipOpen => exact request ran (fun _ => .of_open (clipOpen_only _ _ s))
  | clipClose => exact request ran (fun body => .thenServe body s (.of_clip (clipClose_only _ _ s)))
  | clipMark => exact request ran (fun body => .thenServe body s (.of_clip (clipMark_only _ s)))
  | clipLabel => exact request ran (fun body => .clipLabel body s)
  | clipRate => exact request ran (fun body => .thenCheck body s (.clipRate body s))
  | clipSend => exact request ran (fun body => .thenCheck body s (.clipSend body s))
  | clipHold => exact request ran (fun body => .thenCheck body s (.of_coders (by unfold clipHold; split <;> rfl)))
  | clipRelease => exact request ran (fun body => .thenCheck body s (.clipRelease body s))
  | clipDiscard => exact request ran (fun body => .thenServe body s (.clipDiscard body s))
  | clipTimeout => exact request ran (fun _ => .of_coders rfl)
  | clipInfo => exact request ran (fun _ => .of_coders (by unfold clipInfo; split <;> rfl))
  | clipList => exact request ran (fun body => .clipList body s)
  | embedSet => exact request ran (fun body => .embedSet body s)
  | busSet => exact request ran (fun body => .busSet body s)
  | channelSet => exact request ran (fun body => .channelSet body s)
  | sendSet => exact request ran (fun body => .sendSet body s)
  | sceneStore => exact request ran (fun _ => .of_coders (by unfold sceneStore; split <;> rfl))
  | sceneRecall => exact request ran (fun body => .sceneRecall body s)
  | outputSet => exact request ran (fun body => .outputSet body s)
  | meterSet => exact request ran (fun _ => .of_coders rfl)
  | returnSet => exact request ran (fun body => .returnSet body s)
  | streamSet => exact request ran (fun _ => .of_coders (by unfold streamSet; split <;> rfl))
  | mixerInfo => exact request ran (fun _ => .of_coders (by unfold mixerInfo; split <;> rfl))
  | pathOpen => exact request ran (fun body => .thenServe body s (.pathOpen body s))
  | pathClose => exact request ran (fun body => .thenServe body s (.pathClose body s))
  | pathSet => exact request ran (fun body => .thenServe body s (.pathSet body s))
  | pathInfo => exact request ran (fun _ => .of_coders (by unfold pathInfo; split <;> rfl))
  | sendInfo => exact request ran (fun _ => .refl s)
  | noticeSet => exact request ran (fun _ => .of_coders (by unfold noticeSet; split <;> rfl))
  | status => exact request ran (fun _ => .of_coders rfl)
  | reset => exact request ran (fun _ => .of_coders (by unfold resetRequest; split <;> rfl))

end limits

/-- Settles O59: a step is one command, or none on an empty queue. -/
theorem everyStepKeepsCodersWithinBounds : Obligations.EveryStepKeepsCodersWithinBounds := by
  intro s t bounds ran
  unfold step at ran
  split at ran
  · cases ran
    exact bounds
  · next i rest _ => exact exec_withinBounds (s := { s with pending := rest }) i bounds ran

end Sys2Proof.Machine

namespace Sys2Proof.Machine

/-! ## The figures of a recompute (R46 to R52) -/

section figures

theorem vecSum_eq_sum {α : Type} {n : Nat} (f : Fin n → α → Nat) (v : Vector α n) :
    vecSum f v = ((List.finRange n).map fun i => f i v[i]).sum := by
  rw [vecSum, List.sum_eq_foldl, List.foldl_map]

/-- The shares of x by weight, each rounded down, add to no more than x; with no weight at all they are 0. -/
theorem sum_shares_le {ι : Type} (x : Nat) (weight : ι → Nat) (l : List ι) :
    (l.map fun i => x * weight i / (l.map weight).sum).sum ≤ x := by
  have scaled : ∀ (total : Nat) (m : List ι),
      total * (m.map fun i => x * weight i / total).sum ≤ x * (m.map weight).sum := by
    intro total m
    induction m with
    | nil => exact Nat.le_refl _
    | cons i m ih =>
      simp only [List.map_cons, List.sum_cons, Nat.mul_add]
      exact Nat.add_le_add (Nat.mul_div_le _ _) ih
  rcases Nat.eq_zero_or_pos (l.map weight).sum with none | some
  · simp [none]
  · exact Nat.le_of_mul_le_mul_left (by rw [Nat.mul_comm _ x]; exact scaled _ l) some

/-- The reservation of one stream is the 9750 bytes of a second over P, rounded up (R47). -/
theorem streamReservation_bounds (p : PictureRate) : 9750 ≤ (9750 + perSecond p - 1) / perSecond p * perSecond p
    ∧ (9750 + perSecond p - 1) / perSecond p * perSecond p < 9750 + perSecond p := by
  cases p <;> decide

variable (p : PictureRate) (a : Allocation)

/-- The floors of the live channels: m_i, 0 for the others (R49). -/
def Allocation.liveFloor (c : Fin 6) : Nat := if a.live[c] then a.floor[c] else 0

/-- The weights of the live channels, 0 for the others (R49). -/
def Allocation.liveWeight (c : Fin 6) : Nat := if a.live[c] then a.weight[c] else 0

theorem computeFigures_floorSum :
    (computeFigures p a).floorSum = ((List.finRange 6).map a.liveFloor).sum :=
  vecSum_eq_sum (fun (c : Fin 6) (live : Bool) => if live then a.floor[c] else 0) a.live

theorem computeFigures_weightSum :
    (computeFigures p a).weightSum = ((List.finRange 6).map a.liveWeight).sum :=
  vecSum_eq_sum (fun (c : Fin 6) (live : Bool) => if live then a.weight[c] else 0) a.live

theorem computeFigures_budget (c : Fin 6) :
    let out := computeFigures p a
    out.budget[c] = if a.live[c] then
      budgetCut (rawBudget out.available out.floorSum out.weightSum a.weight[c] a.floor[c]) else 0 :=
  Vector.getElem_ofFn c.isLt

theorem computeFigures_rateState (c : Fin 6) :
    (computeFigures p a).rateState[c] =
      if a.live[c] then rateStateOf (computeFigures p a).budget[c] a.floor[c] else .full :=
  Vector.getElem_ofFn c.isLt

theorem budget_of_not_live {c : Fin 6} (off : a.live[c] = false) : (computeFigures p a).budget[c] = 0 := by
  rw [computeFigures_budget, off]
  rfl

/-- When the floors fit, a live channel has its floor and its share of the rest (R50). -/
theorem budget_of_fit {c : Fin 6} (fit : (computeFigures p a).floorSum ≤ (computeFigures p a).available)
    (live : a.live[c] = true) :
    (computeFigures p a).budget[c] = min 4095 (a.floor[c]
      + ((computeFigures p a).available - (computeFigures p a).floorSum) * a.weight[c]
        / (computeFigures p a).weightSum) := by
  rw [computeFigures_budget, live, if_pos rfl, rawBudget, if_pos fit]
  rfl

/-- When the floors do not fit, a live channel has its floor's share of what is available (R50). -/
theorem budget_of_short {c : Fin 6} (short : (computeFigures p a).available < (computeFigures p a).floorSum)
    (live : a.live[c] = true) :
    (computeFigures p a).budget[c]
      = min 4095 ((computeFigures p a).available * a.floor[c] / (computeFigures p a).floorSum) := by
  rw [computeFigures_budget, live, if_pos rfl, rawBudget, if_neg (Nat.not_le_of_lt short)]
  rfl

theorem budget_le_of_fit (fit : (computeFigures p a).floorSum ≤ (computeFigures p a).available) (c : Fin 6) :
    (computeFigures p a).budget[c] ≤ a.liveFloor c
      + ((computeFigures p a).available - (computeFigures p a).floorSum) * a.liveWeight c
        / (computeFigures p a).weightSum := by
  cases live : a.live[c] with
  | false => rw [budget_of_not_live p a live]; exact Nat.zero_le _
  | true =>
    rw [budget_of_fit p a fit live, Allocation.liveFloor, Allocation.liveWeight, live]
    exact Nat.min_le_right _ _

theorem budget_le_of_short (short : (computeFigures p a).available < (computeFigures p a).floorSum) (c : Fin 6) :
    (computeFigures p a).budget[c]
      ≤ (computeFigures p a).available * a.liveFloor c / (computeFigures p a).floorSum := by
  cases live : a.live[c] with
  | false => rw [budget_of_not_live p a live]; exact Nat.zero_le _
  | true =>
    rw [budget_of_short p a short live, Allocation.liveFloor, live]
    exact Nat.min_le_right _ _

/-- The budgets share out what is available, rounded down. -/
theorem budgetSum_le_available :
    ((List.finRange 6).map fun c => (computeFigures p a).budget[c]).sum ≤ (computeFigures p a).available := by
  rcases Nat.lt_or_ge (computeFigures p a).available (computeFigures p a).floorSum with short | fit
  · refine (List.sum_le_sum fun c _ => budget_le_of_short p a short c).trans ?_
    rw [computeFigures_floorSum]
    exact sum_shares_le _ _ _
  · refine (List.sum_le_sum fun c _ => budget_le_of_fit p a fit c).trans ?_
    rw [List.sum_map_add, ← computeFigures_floorSum p a, computeFigures_weightSum]
    have shared := sum_shares_le ((computeFigures p a).available - (computeFigures p a).floorSum) a.liveWeight
      (List.finRange 6)
    omega

end figures

/-- Settles O24: the figures are those of R46 to R52 as written, and the shares, rounded down, never exceed the whole. -/
theorem theFiguresOfARecompute : Obligations.TheFiguresOfARecompute := by
  intro p a
  have spent : (computeFigures p a).leftover = (computeFigures p a).available
      - ((List.finRange 6).map fun c => (computeFigures p a).budget[c]).sum :=
    congrArg ((computeFigures p a).available - ·) (vecSum_eq_sum (fun _ b => b) (computeFigures p a).budget)
  have available : (computeFigures p a).available
      = (computeFigures p a).capacity - (computeFigures p a).audioRes - (computeFigures p a).clipRes := rfl
  refine ⟨vecSum_eq_sum (fun path rate => if a.carrying[path] then rate else 0) a.pathRate,
    ⟨_, rfl, streamReservation_bounds p⟩, rfl, fun _ => ?_, fun _ => ?_, computeFigures_floorSum p a,
    computeFigures_weightSum p a, fun c => budget_of_not_live p a, fun fit c live => ?_, fun short c live => ?_,
    budgetSum_le_available p a, spent, rfl⟩
  · rw [available, Nat.sub_sub]
  · omega
  · refine (budget_of_fit p a ((computeFigures_floorSum p a).trans_le fit) live).trans ?_
    rw [computeFigures_floorSum, computeFigures_weightSum]
    rfl
  · refine (budget_of_short p a (short.trans_eq (computeFigures_floorSum p a).symm) live).trans ?_
    rw [computeFigures_floorSum]
    rfl

/-- The rate state of a live channel (R51). -/
theorem rateState_of_live (p : PictureRate) (a : Allocation) {c : Fin 6} (live : a.live[c] = true) :
    (computeFigures p a).rateState[c] = rateStateOf (computeFigures p a).budget[c] a.floor[c] := by
  rw [computeFigures_rateState, live, if_pos rfl]

theorem rateStateOf_starved {floor : Nat} : rateStateOf 0 floor = .starved := rfl

theorem rateStateOf_halfRate {budget floor : Nat} (some : 0 < budget) (below : budget < floor) :
    rateStateOf budget floor = .halfRate := by
  rw [rateStateOf, if_neg some.ne', if_pos below]

theorem rateStateOf_full {budget floor : Nat} (some : 0 < budget) (reached : floor ≤ budget) :
    rateStateOf budget floor = .full := by
  rw [rateStateOf, if_neg some.ne', if_neg (Nat.not_lt_of_le reached)]

/-- Settles O25: a floor that fits is reached, so only a budget of 0 starves; when the floors do not fit, a budget is below
its floor, for what is available is below their sum. -/
theorem theRateStateFollowsTheBudget : Obligations.TheRateStateFollowsTheBudget := by
  intro p a c
  refine ⟨fun off => ?_, fun live => ?_⟩
  · rw [computeFigures_rateState, off]
    rfl
  simp only [rateState_of_live p a live]
  refine ⟨fun none => none ▸ rateStateOf_starved, rateStateOf_halfRate, rateStateOf_full, fun fit low => ?_,
    fun short => ⟨fun wanted => ?_, fun none => ?_⟩⟩
  · have budget := budget_of_fit p a fit live
    generalize ((computeFigures p a).available - (computeFigures p a).floorSum) * a.weight[c]
      / (computeFigures p a).weightSum = share at budget ⊢
    have reached : a.floor[c] ≤ (computeFigures p a).budget[c] := by omega
    rcases Nat.eq_zero_or_pos (computeFigures p a).budget[c] with zero | some
    · exact .inr ⟨zero ▸ rateStateOf_starved, by omega, by omega⟩
    · exact .inl (rateStateOf_full some reached)
  · have below : (computeFigures p a).budget[c] < a.floor[c] := by
      rw [budget_of_short p a short live]
      refine (Nat.min_le_right _ _).trans_lt (Nat.div_lt_of_lt_mul ?_)
      exact Nat.mul_lt_mul_of_pos_right short wanted
    rcases Nat.eq_zero_or_pos (computeFigures p a).budget[c] with zero | some
    · exact .inr (zero ▸ rateStateOf_starved)
    · exact .inl (rateStateOf_halfRate some below)
  · have zero : (computeFigures p a).budget[c] = 0 := by
      rw [budget_of_short p a short live, none, Nat.mul_zero, Nat.zero_div]
      rfl
    rw [zero, rateStateOf_starved]

end Sys2Proof.Machine

namespace Sys2Proof.Machine

/-! ## Publishing a recompute, and the requests that cause one (R43, R44, R53) -/

theorem publishedDiffer_eq_false_iff (a b : Allocation) : publishedDiffer a b = false ↔
    b.budget = a.budget ∧ b.rateState = a.rateState ∧ b.clipAllowance = a.clipAllowance := by
  simp only [publishedDiffer, Bool.or_eq_false_iff, bne_eq_false_iff_eq, and_assoc, @eq_comm _ b.budget,
    @eq_comm _ b.rateState, @eq_comm _ b.clipAllowance]

/-- Figures that differ in nothing published take their place in silence (R53). -/
theorem recompute_of_same {cause : AllocCause} {s : State}
    (same : publishedDiffer s.alloc (computeFigures s.timing.rate s.alloc) = false) :
    recompute cause s = { s with alloc := computeFigures s.timing.rate s.alloc } := by
  rw [recompute, same]
  rfl

/-- Figures of which one published differs are numbered anew, with a notice (R53). -/
theorem recompute_of_differ {cause : AllocCause} {s : State}
    (differ : publishedDiffer s.alloc (computeFigures s.timing.rate s.alloc) = true) :
    let numbered := { computeFigures s.timing.rate s.alloc with number := s.alloc.number + 1 }
    recompute cause s = raise (.allocated (allocationReport cause numbered)) { s with alloc := numbered } := by
  rw [recompute, differ]
  rfl

section requests

variable {s : State}

theorem pathRate_of_le {path : Byte} (high low : Byte) (le : 4 ≤ path.toNat) :
    pathRate [path, high, low] s = refuse .badValue s := by
  rw [pathRate, field_zero_one, finOf_of_le le]

theorem pathRate_of_eq {path : Byte} {p : Fin 4} (high low : Byte) (names : path.toNat = p.val) :
    pathRate [path, high, low] s = answerOk (.value (min 4095 (high.toNat * 256 + low.toNat)))
      (recompute .pathRate (s.modAlloc fun a =>
        { a with pathRate := vecSet a.pathRate p (min 4095 (high.toNat * 256 + low.toNat)) })) := by
  simp only [pathRate, field_zero_one, names, finOf_val, field_succ, field_zero_two]

theorem clipShare_cons (share : Byte) :
    clipShare [share] s = if 8 < share.toNat then refuse .badValue s
      else answerOk .none (recompute .clipShare (s.modAlloc fun a => { a with share := share.toNat })) := by
  simp only [clipShare, field_zero_one]

end requests

/-- Settles O26: a recompute numbers its figures exactly when one published differs, and each request stores its value
before it recomputes. -/
theorem aRecomputePublishesTheFigures : Obligations.ARecomputePublishesTheFigures := by
  refine ⟨fun cause s => ⟨fun same => ?_, fun differ => ?_⟩, fun s => ⟨fun path high low asks => ⟨fun le => ?_,
    fun p names => ?_⟩, fun share asks => ?_⟩⟩
  · exact recompute_of_same ((publishedDiffer_eq_false_iff _ _).mpr same)
  · rw [← publishedDiffer_eq_false_iff, Bool.not_eq_false] at differ
    rw [recompute_of_differ differ, raise_of_not_protocol _ rfl]
    exact ⟨rfl, rfl⟩
  · exact runRequest_refused (owner := pathRate) asks rfl (pathRate_of_le high low le)
  · have run : exec .pathRate s = _ := runRequest_eq (owner := pathRate) asks rfl
    rw [run, pathRate_of_eq high low names]
    rfl
  · have run : exec .clipShare s = _ := runRequest_eq (owner := clipShare) asks rfl
    rw [run, clipShare_cons]
    split
    · rfl
    · rfl

end Sys2Proof.Machine

namespace Sys2Proof.Machine

/-! ## Late audio frames (R176) -/

/-- A frame or picture is not due exactly when its tick is another. -/
theorem not_beq_counter (a b : Counter) : (!(a == b)) = decide (a ≠ b) := by
  rw [decide_not]
  rfl

theorem reportAudioLate_eq (f : AudioFrame) (s : State) : ∃ control, reportAudioLate f s =
    { s with sched := { s.sched with audioLate := s.sched.audioLate + 1 }, control := control } :=
  ⟨_, raise_of_not_protocol _ rfl⟩

/-- Each late frame is counted and raises its notice. -/
theorem foldl_reportAudioLate (l : List AudioFrame) (s : State) : ∃ control,
    l.foldl (fun u f => reportAudioLate f u) s = { s with
      sched := { s.sched with audioLate := s.sched.audioLate + BitVec.ofNat 32 l.length }
      control := control } := by
  induction l generalizing s with
  | nil => exact ⟨s.control, by simp⟩
  | cons f rest ih =>
    obtain ⟨first, reported⟩ := reportAudioLate_eq f s
    obtain ⟨control, others⟩ := ih (reportAudioLate f s)
    refine ⟨control, ?_⟩
    rw [List.foldl_cons, others, reported, List.length_cons, Nat.add_comm rest.length, BitVec.ofNat_add,
      ← BitVec.add_assoc]
    rfl

theorem audioExpiry_eq (s : State) : ∃ control, audioExpiry s = { s with
    sched := { s.sched with
      audioQueue := s.sched.audioQueue.filter fun f => f.created + 2 ≠ s.sched.tickCount
      audioLate := s.sched.audioLate + BitVec.ofNat 32
        (s.sched.audioQueue.filter fun f => f.created + 2 = s.sched.tickCount).length }
    control := control } := by
  obtain ⟨control, counted⟩ := foldl_reportAudioLate
    (s.sched.audioQueue.filter fun f => f.created + 2 == s.sched.tickCount)
    (s.modSched fun sc => { sc with audioQueue := sc.audioQueue.filter fun f => !(f.created + 2 == s.sched.tickCount) })
  refine ⟨control, counted.trans ?_⟩
  simp only [not_beq_counter]
  rfl

/-! ## Pictures at their deadline tick (R178) -/

section firstOf

variable {α : Type} (p : α → Bool)

/-- Without the first of them, the others stand as they did. -/
theorem filter_not_eraseIdx_findIdx (l : List α) :
    (l.eraseIdx (l.findIdx p)).filter (fun a => !p a) = l.filter fun a => !p a := by
  induction l with
  | nil => rfl
  | cons a rest ih =>
    cases h : p a
    · simpa [List.findIdx_cons, h] using ih
    · simp [List.findIdx_cons, h]

theorem filter_eraseIdx_findIdx (l : List α) : (l.eraseIdx (l.findIdx p)).filter p = (l.filter p).tail := by
  induction l with
  | nil => rfl
  | cons a rest ih =>
    cases h : p a
    · simpa [List.findIdx_cons, h] using ih
    · simp [List.findIdx_cons, h]

end firstOf

/-- The second state is the first but for what the drop of late pictures can reach. -/
def PictureSide (s t : State) : Prop :=
  t = { s with
    coders := t.coders
    sched := { s.sched with truncatePending := t.sched.truncatePending, picturesLate := t.sched.picturesLate }
    control := t.control }

namespace PictureSide

variable {s t u : State}

theorem refl (s : State) : PictureSide s s := rfl

theorem trans (h : PictureSide s t) (h' : PictureSide t u) : PictureSide s u := by
  rw [PictureSide] at *
  rw [h', h]

theorem dropLive (c : Fin 6) (place : Nat) (s : State) : PictureSide s (dropLive c place s) := by
  unfold Machine.dropLive markTruncated
  split <;> rfl

theorem raise (s : State) {body : NoticeBody} (h : protocolPath body = none) : PictureSide s (Machine.raise body s) := by
  rw [raise_of_not_protocol _ h]
  rfl

end PictureSide

/-- What names a live picture, with its deadline tick. No truncate mark changes it. -/
def liveDue (p : LivePicture) : Timecode × Seq × Counter := (p.timecode, p.sequence, p.deadlineTick)

/-- The live pictures of a channel, oldest first. -/
def State.liveDues (s : State) (c : Fin 6) : List (Timecode × Seq × Counter) := s.coders[c].liveBuffer.map liveDue

/-- Those that are at their deadline tick. -/
def State.lateDues (s : State) (c : Fin 6) : List (Timecode × Seq × Counter) :=
  (s.liveDues c).filter fun p => p.2.2 == s.sched.tickCount

/-- Pictures of one channel have left its live buffer as late, each with its count, and F is Bv (R61, R178). -/
structure Expired (c : Fin 6) (gone : Nat) (s t : State) : Prop where
  side : PictureSide s t
  other : ∀ d : Fin 6, d ≠ c → t.coders[d] = s.coders[d]
  drops : t.coders[c].lateDrops = s.coders[c].lateDrops + BitVec.ofNat 32 gone
  fullness : t.coders[c].fullness = if gone = 0 then s.coders[c].fullness else s.coders[c].bufferSize
  size : t.coders[c].bufferSize = s.coders[c].bufferSize
  counted : t.sched.picturesLate = s.sched.picturesLate + BitVec.ofNat 32 gone

namespace Expired

variable {c : Fin 6} {s t u : State} {m n : Nat}

theorem refl (c : Fin 6) (s : State) : Expired c 0 s s :=
  ⟨.refl s, fun _ _ => rfl, (BitVec.add_zero _).symm, rfl, rfl, (BitVec.add_zero _).symm⟩

theorem trans (h : Expired c m s t) (h' : Expired c n t u) : Expired c (m + n) s u where
  side := h.side.trans h'.side
  other d e := (h'.other d e).trans (h.other d e)
  drops := by rw [h'.drops, h.drops, BitVec.ofNat_add, BitVec.add_assoc]
  fullness := by
    rw [h'.fullness, h.fullness, h.size]
    by_cases none : n = 0
    · simp [none]
    · simp [none]
  size := h'.size.trans h.size
  counted := by rw [h'.counted, h.counted, BitVec.ofNat_add, BitVec.add_assoc]

theorem tickCount (h : Expired c n s t) : t.sched.tickCount = s.sched.tickCount := by
  rw [h.side]

end Expired

theorem dropLive_liveDues (c : Fin 6) (place : Nat) (s : State) :
    (dropLive c place s).liveDues c = (s.liveDues c).eraseIdx place := by
  have marked : ∀ u : State, (markTruncated c place u).liveDues c = u.liveDues c := by
    intro u
    unfold markTruncated
    split
    · exact (congrArg (fun k : CoderChannel => k.liveBuffer.map liveDue) (vecModify_same _ _ _)).trans
        (map_modify_of_same _ _ fun _ => rfl)
    · rfl
  rw [dropLive, marked]
  simp [State.liveDues, lateDrop, List.eraseIdx_map]

theorem dropLive_other {c d : Fin 6} (e : d ≠ c) (place : Nat) (s : State) :
    (dropLive c place s).coders[d] = s.coders[d] := by
  unfold dropLive markTruncated
  split <;> simp [lateDrop, e]

theorem dropLive_picturesLate (c : Fin 6) (place : Nat) (s : State) :
    (dropLive c place s).sched.picturesLate = s.sched.picturesLate := by
  unfold dropLive markTruncated
  split <;> rfl

/-- The place that the search for a picture at its deadline tick ends at. -/
def State.firstLate (s : State) (c : Fin 6) : Nat :=
  s.coders[c].liveBuffer.findIdx fun p => p.deadlineTick == s.sched.tickCount

theorem firstLate_eq (c : Fin 6) (s : State) :
    s.firstLate c = (s.liveDues c).findIdx fun p => p.2.2 == s.sched.tickCount := by
  rw [State.liveDues, List.findIdx_map]
  rfl

/-- One picture found at its deadline tick leaves as late, with its count and its notice. -/
def expireFirst (c : Fin 6) (p : LivePicture) (s : State) : State :=
  raise (.pictureLate c p.timecode p.sequence (p.bytes.length - p.started) .deadline) <|
    (dropLive c (s.firstLate c) s).modSched fun sc => { sc with picturesLate := sc.picturesLate + 1 }

theorem expirePictures_of_past {c : Fin 6} {s : State} (past : s.coders[c].liveBuffer[s.firstLate c]? = none) (n : Nat) :
    expirePictures c (n + 1) s = s := by
  rw [State.firstLate] at past
  simp only [expirePictures, past]

theorem expirePictures_of_found {c : Fin 6} {s : State} {p : LivePicture}
    (found : s.coders[c].liveBuffer[s.firstLate c]? = some p) (n : Nat) :
    expirePictures c (n + 1) s = expirePictures c n (expireFirst c p s) := by
  rw [State.firstLate] at found
  simp only [expirePictures, found]
  rfl

theorem expireFirst_expired (c : Fin 6) (p : LivePicture) (s : State) : Expired c 1 s (expireFirst c p s) := by
  have coders : (expireFirst c p s).coders = (dropLive c (s.firstLate c) s).coders := raise_coders _ _
  have counted : (expireFirst c p s).sched.picturesLate = (dropLive c (s.firstLate c) s).sched.picturesLate + 1 :=
    congrArg Scheduler.picturesLate (raise_sched _ _)
  obtain ⟨left, -, dropped⟩ := dropLive_coder c s (s.firstLate c)
  refine ⟨?_, fun d e => ?_, ?_, ?_, ?_, ?_⟩
  · have one : PictureSide (dropLive c (s.firstLate c) s)
        ((dropLive c (s.firstLate c) s).modSched fun sc => { sc with picturesLate := sc.picturesLate + 1 }) := rfl
    exact ((PictureSide.dropLive c _ s).trans one).trans (.raise _ rfl)
  · rw [coders, dropLive_other e]
  · rw [coders, dropped]
    rfl
  · rw [coders, dropped]
    rfl
  · rw [coders, dropped]
  · rw [counted, dropLive_picturesLate]
    rfl

theorem expireFirst_liveDues (c : Fin 6) (p : LivePicture) (s : State) : (expireFirst c p s).liveDues c =
    (s.liveDues c).eraseIdx ((s.liveDues c).findIdx fun q => q.2.2 == s.sched.tickCount) := by
  rw [expireFirst, State.liveDues, raise_coders, ← firstLate_eq]
  exact dropLive_liveDues c _ s

/-- With no picture at its deadline tick, none leaves. -/
theorem liveDues_of_none {c : Fin 6} {s : State} (none : s.lateDues c = []) :
    (s.liveDues c).filter (fun p => !(p.2.2 == s.sched.tickCount)) = s.liveDues c := by
  rw [State.lateDues, List.filter_eq_nil_iff] at none
  exact List.filter_eq_self.mpr fun p mem => by simpa using none p mem

theorem lateDues_eq_nil_of_past {c : Fin 6} {s : State}
    (past : s.coders[c].liveBuffer[s.firstLate c]? = none) :
    s.lateDues c = [] := by
  rw [List.getElem?_eq_none_iff, firstLate_eq] at past
  have length : (s.liveDues c).length = s.coders[c].liveBuffer.length := List.length_map _
  rw [State.lateDues, List.filter_eq_nil_iff]
  intro p mem due
  have place := List.findIdx_lt_length_of_exists (p := fun q => q.2.2 == s.sched.tickCount) ⟨p, mem, due⟩
  omega

theorem lateDues_ne_nil_of_found {c : Fin 6} {s : State} {p : LivePicture}
    (found : s.coders[c].liveBuffer[s.firstLate c]? = some p) :
    s.lateDues c ≠ [] := by
  obtain ⟨place, -⟩ := List.getElem?_eq_some_iff.mp found
  obtain ⟨q, mem, due⟩ := List.findIdx_lt_length.mp place
  exact List.ne_nil_of_mem (a := liveDue q) (List.mem_filter.mpr ⟨List.mem_map_of_mem mem, due⟩)

/-- With turns enough, every picture at its deadline tick leaves, and no other. -/
theorem expirePictures_expired (c : Fin 6) (n : Nat) (s : State) (enough : (s.lateDues c).length ≤ n) :
    Expired c (s.lateDues c).length s (expirePictures c n s)
      ∧ (expirePictures c n s).liveDues c = (s.liveDues c).filter fun p => !(p.2.2 == s.sched.tickCount) := by
  have done : ∀ u : State, u.lateDues c = [] → Expired c (u.lateDues c).length u u
      ∧ u.liveDues c = (u.liveDues c).filter fun p => !(p.2.2 == u.sched.tickCount) := fun u none =>
    ⟨none ▸ .refl c u, (liveDues_of_none none).symm⟩
  induction n generalizing s with
  | zero => exact done s (List.length_eq_zero_iff.mp (Nat.le_zero.mp enough))
  | succ n ih =>
    cases search : s.coders[c].liveBuffer[s.firstLate c]? with
    | none =>
      rw [expirePictures_of_past search]
      exact done s (lateDues_eq_nil_of_past search)
    | some p =>
      rw [expirePictures_of_found search]
      have first := expireFirst_expired c p s
      have left := expireFirst_liveDues c p s
      have tick := first.tickCount
      have rest : (expireFirst c p s).lateDues c = (s.lateDues c).tail := by
        rw [State.lateDues, left, tick, filter_eraseIdx_findIdx]
        rfl
      have some := List.length_pos_of_ne_nil (lateDues_ne_nil_of_found search)
      have count : 1 + ((expireFirst c p s).lateDues c).length = (s.lateDues c).length := by
        rw [rest, List.length_tail]
        omega
      obtain ⟨others, remain⟩ := ih (expireFirst c p s) (by omega)
      refine ⟨count ▸ first.trans others, ?_⟩
      rw [remain, left, tick, filter_not_eraseIdx_findIdx]

/-- Exactly the pictures of a channel that are at their deadline tick leave (R178). -/
theorem pictureExpiry_expired (c : Fin 6) (s : State) : Expired c (s.lateDues c).length s (pictureExpiry c s)
    ∧ (pictureExpiry c s).liveDues c = (s.liveDues c).filter fun p => !(p.2.2 == s.sched.tickCount) :=
  expirePictures_expired c _ s ((List.length_filter_le _ _).trans_eq (List.length_map _))

theorem liveBuffer_names {left buffer : List LivePicture} {tick : Counter}
    (h : left.map liveDue = (buffer.map liveDue).filter fun p => !(p.2.2 == tick)) :
    left.map (fun p => (p.timecode, p.sequence)) =
      (buffer.filter fun p => p.deadlineTick ≠ tick).map fun p => (p.timecode, p.sequence) := by
  have named := congrArg (List.map fun p => (p.1, p.2.1)) h
  simp only [List.filter_map, List.map_map, Function.comp_def, liveDue, not_beq_counter] at named
  exact named

theorem length_lateDues (c : Fin 6) (s : State) : (s.lateDues c).length =
    (s.coders[c].liveBuffer.filter fun p => p.deadlineTick = s.sched.tickCount).length := by
  rw [State.lateDues, State.liveDues, List.filter_map, List.length_map]
  rfl

/-! ## The picture tick at the scheduler (R175) -/

theorem pictureExpiries_liveDues (c : Fin 6) (s : State) :
    ((List.finRange 6).foldl (fun u d => pictureExpiry d u) s).liveDues c =
      (s.liveDues c).filter fun p => !(p.2.2 == s.sched.tickCount) := by
  have step : ∀ (u : State) (d : Fin 6), ((pictureExpiry d u).liveDues c, (pictureExpiry d u).sched.tickCount) =
      if d = c then ((u.liveDues c).filter fun p => !(p.2.2 == u.sched.tickCount), u.sched.tickCount)
      else (u.liveDues c, u.sched.tickCount) := by
    intro u d
    obtain ⟨expired, left⟩ := pictureExpiry_expired d u
    rw [expired.tickCount]
    split
    next e => rw [← e, left]
    next e => rw [State.liveDues, expired.other c (Ne.symm e)]; rfl
  have once := foldl_once (fun u : State => (u.liveDues c, u.sched.tickCount))
    (fun view => (view.1.filter fun p => !(p.2.2 == view.2), view.2)) c step (List.nodup_finRange 6) (List.mem_finRange c) s
  exact (Prod.mk.inj once).1

/-- What the scheduler's tick sets, and all else that it can change (R175, R176, R178). -/
theorem schedulerTick_eq (s : State) : ∃ coders picturesLate truncatePending control, schedulerTick s = { s with
    paths := Vector.ofFn fun p : Fin 4 => { s.paths[p] with allowance := s.alloc.pathRate[p] }
    coders := coders
    sched := { s.sched with
      tickCount := s.sched.tickCount + 1
      channelAllowance := Vector.ofFn fun c : Fin 6 => if s.alloc.live[c] then s.alloc.budget[c] else 0
      clipAllowance := s.alloc.clipAllowance
      audioQueue := s.sched.audioQueue.filter fun f => f.created + 2 ≠ s.sched.tickCount + 1
      audioLate := s.sched.audioLate + BitVec.ofNat 32
        (s.sched.audioQueue.filter fun f => f.created + 2 = s.sched.tickCount + 1).length
      picturesLate := picturesLate
      truncatePending := truncatePending }
    control := control } := by
  obtain ⟨control, audio⟩ := audioExpiry_eq (refill s)
  have side : PictureSide (audioExpiry (refill s)) (schedulerTick s) :=
    foldl_related PictureSide .refl .trans (fun u c => (pictureExpiry_expired c u).1.side) _ _
  rw [PictureSide, audio] at side
  generalize schedulerTick s = t at side ⊢
  refine ⟨t.coders, t.sched.picturesLate, t.sched.truncatePending, t.control, side.trans ?_⟩
  rfl

theorem schedulerTick_liveDues (c : Fin 6) (s : State) : (schedulerTick s).liveDues c =
    (s.liveDues c).filter fun p => !(p.2.2 == s.sched.tickCount + 1) := by
  obtain ⟨control, audio⟩ := audioExpiry_eq (refill s)
  rw [schedulerTick, pictureExpiries_liveDues, audio]
  rfl

/-- Settles O54: the tick is the refill with the expiries, each row repeats one of them, and an expiry takes exactly the
frames or pictures that are due. -/
theorem lateFramesLeaveTheirQueues : Obligations.LateFramesLeaveTheirQueues := by
  intro s
  refine ⟨?_, ?_, fun c => ?_⟩
  · have names : ∀ c : Fin 6, _ := fun c => liveBuffer_names (schedulerTick_liveDues c s)
    obtain ⟨coders, picturesLate, truncatePending, control, tick⟩ := schedulerTick_eq s
    refine ⟨fun p => ?_, fun c => ?_, ?_, ?_, ?_, ?_, names, ?_, fun _ _ _ => rfl⟩ <;> rw [tick]
    · exact Vector.getElem_ofFn p.isLt
    · exact Vector.getElem_ofFn c.isLt
  · obtain ⟨control, expiry⟩ := audioExpiry_eq s
    refine ⟨_, finish_eq (audioExpiry s), ?_⟩
    rw [expiry]
    exact ⟨rfl, rfl⟩
  · obtain ⟨expired, left⟩ := pictureExpiry_expired c s
    refine ⟨_, finish_eq (pictureExpiry c s), liveBuffer_names left, ?_, ?_, ?_, expired.other, ?_⟩
    · rw [← length_lateDues]
      exact expired.drops
    · simp only [← List.length_eq_zero_iff, ← length_lateDues]
      exact expired.fullness
    · rw [← length_lateDues]
      exact expired.counted
    · rw [expired.side]

end Sys2Proof.Machine

namespace Sys2Proof.Machine

/-! ## Memory in canonical form (notes/assumptions/7.md, R80)

The bytes are reached by the writer, the initialisation of a page and a reset; the errors of the lines by these, by reads and
by MEMORY_ERROR. A read, a write and an initialisation only take lines from the list of errors. -/

section memoryKept

variable {s t u : State}

/-- Memory in canonical form stays in it, and lines only leave the list of errors. -/
structure MemoryKept (s t : State) : Prop where
  dram : s.store.dram.wf = true → t.store.dram.wf = true
  lines : List.Sublist t.store.lineErrors s.store.lineErrors

namespace MemoryKept

theorem of_memory (dram : t.store.dram = s.store.dram) (lines : t.store.lineErrors = s.store.lineErrors) :
    MemoryKept s t :=
  ⟨fun wf => by rw [dram]; exact wf, by rw [lines]⟩

theorem of_store (store : t.store = s.store) : MemoryKept s t := of_memory (by rw [store]) (by rw [store])

theorem refl (s : State) : MemoryKept s s := of_store rfl

theorem trans (h : MemoryKept s t) (h' : MemoryKept t u) : MemoryKept s u :=
  ⟨fun wf => h'.dram (h.dram wf), h'.lines.trans h.lines⟩

/-- A step from a state with the same memory. -/
theorem after (h : MemoryKept t u) (dram : t.store.dram = s.store.dram) (lines : t.store.lineErrors = s.store.lineErrors) :
    MemoryKept s u := (of_memory dram lines).trans h

theorem foldl {ι : Type} {f : State → ι → State} (step : ∀ u a, MemoryKept u (f u a)) (l : List ι) (u : State) :
    MemoryKept u (l.foldl f u) := foldl_related MemoryKept refl trans step l u

theorem ite {p : Prop} [Decidable p] {f : State → State} (h : ∀ v, MemoryKept v (f v)) (s : State) :
    MemoryKept s (if p then f s else s) := by
  split
  · exact h s
  · exact refl s

/-- Lines that leave the list of errors leave it in ascending order. -/
theorem canonical (h : MemoryKept s t) (canonical : s.memoryCanonical) : t.memoryCanonical :=
  ⟨h.dram canonical.1, canonical.2.sublist (h.lines.map _)⟩

theorem raise (body : NoticeBody) (s : State) : MemoryKept s (Machine.raise body s) := of_store (raise_store s body)

theorem modPath (p : Fin 4) (f : Path → Path) (s : State) : MemoryKept s (s.modPath p f) := of_store rfl

theorem modTiming (f : Timing → Timing) (s : State) : MemoryKept s (s.modTiming f) := of_store rfl

theorem modClip (id : Nat) (f : Clip → Clip) (s : State) : MemoryKept s (s.modClip id f) := of_store rfl

theorem passTo (deadline : Time) (s : State) : MemoryKept s (s.passTo deadline) := of_store rfl

/-- A change of the store's records. -/
theorem modStore (f : Store → Store) (s : State) (dram : ∀ st, (f st).dram = st.dram)
    (lines : ∀ st, (f st).lineErrors = st.lineErrors) : MemoryKept s (s.modStore f) := of_memory (dram _) (lines _)

theorem of_record (h : RecordSide s t) : MemoryKept s t := ⟨h.dram, h.lines⟩

theorem of_coder {c : Fin 6} (h : CoderSide c s t) : MemoryKept s t := ⟨h.dram, h.lines⟩

theorem of_clip (h : ClipOnly s t) : MemoryKept s t := of_record (.of_clip h)

theorem of_send (h : SendSide s t) : MemoryKept s t := of_memory (by rw [h.state]) (by rw [h.state])

theorem of_home (h : HomeSide s t) : MemoryKept s t := (of_send h.send).trans (of_store rfl)

theorem of_open (h : OpenSide s t) : MemoryKept s t := by
  rw [OpenSide] at h
  exact (of_clip h).after rfl rfl

theorem of_mix (h : MixSide s t) : MemoryKept s t := of_store (by rw [id h])

theorem of_alloc (h : AllocOnly s t) : MemoryKept s t := of_store (by rw [id h])

theorem of_damage (h : DamageOnly s t) : MemoryKept s t := of_memory (by rw [id h]) (by rw [id h])

theorem serve (s : State) : MemoryKept s (serve s) := of_send (serve_only s)

/-! ### The store (R65, R81 to R84) -/

theorem patrolRead (s : State) : MemoryKept s (patrolRead s) := by
  have lines : ∀ page l u, MemoryKept u (patrolLines page l u) := by
    intro page l
    induction l with
    | nil => exact refl
    | cons line rest ih =>
      intro u
      have read : MemoryKept u (readLine line u).2.2 := of_record (readLine_only line u)
      rw [patrolLines]
      split
      · next e =>
        rw [e] at read
        exact read.trans (ih _)
      · next e =>
        rw [e] at read
        exact read.trans ((ih _).after rfl rfl)
      · next e =>
        rw [e] at read
        refine read.trans ?_
        split
        · refine .trans ?_ (of_record (.of_reclaim (reclaimPages_only _)))
          exact (raise _ _).after rfl rfl
        · refine .trans ?_ (ih _)
          simp only
          split
          · exact (of_damage (markDamaged_only _ _ _ _ _)).after rfl rfl
          · exact of_memory rfl rfl
  unfold Machine.patrolRead
  simp only
  split
  · exact of_memory rfl rfl
  · refine .trans ?_ (modStore _ _ (fun _ => rfl) fun _ => rfl)
    exact (lines _ _ _).after rfl rfl

theorem initialisePage (s : State) : MemoryKept s (initialisePage s) := by
  refine ⟨initialisePage_wf s, ?_⟩
  unfold Machine.initialisePage
  split
  · exact .refl _
  · simp only
    split
    · rw [raise_store]
      exact List.filter_sublist
    · exact List.filter_sublist

theorem demandRead (segment : Option Nat) (pages : List Nat) (x length : Nat) (s : State) :
    MemoryKept s (demandRead segment pages x length s).2 := by
  refine .trans ?_ (of_damage (demandRead_only segment pages x length s))
  have read : ∀ n x u, MemoryKept u (readLines pages n x u).2 := by
    intro n
    induction n with
    | zero => exact fun _ => refl
    | succ n ih =>
      intro x u
      have line : MemoryKept u (readLine (segAddress pages x / lineSize) u).2.2 := of_record (readLine_only _ u)
      rw [readLines]
      simp only
      split <;> exact line.trans (ih _ _)
  exact (read _ _ s).trans (of_memory rfl rfl)

theorem endRead (r : DemandRead) (s : State) : MemoryKept s (endRead r s) := by
  have finished : ∀ id g sum u, MemoryKept u (finishSegment id g sum u) := by
    intro id g sum u
    unfold finishSegment
    refine .trans ?_ (modClip id _ _)
    split
    · exact refl u
    · exact of_damage (markDamaged_only _ _ _ _ u)
  have outcome : ∀ read u, MemoryKept u (readOutcomeAt r read u) := by
    intro read u
    unfold readOutcomeAt
    simp only
    repeat' split
    all_goals first
      | exact of_store rfl
      | exact finished _ _ _ u
  have read := (demandRead r.segment r.pages r.offset r.length
    (s.modSched fun sc => { sc with reads := sc.reads.erase r })).after (s := s) rfl rfl
  unfold Machine.endRead
  refine .trans ?_ (ite (outcome _) _)
  split
  · exact read.trans (of_store rfl)
  · exact read

theorem frameEnd (p : Fin 4) (s : State) : MemoryKept s (frameEnd p s) := by
  unfold Machine.frameEnd
  split
  · exact refl s
  · refine .trans ?_ (modPath p _ _)
    split
    · exact endRead _ s
    · exact refl s

/-! ### The picture tick (R3) -/

theorem endPictures (s : State) : MemoryKept s (endPictures s) := by
  unfold Machine.endPictures
  split
  · exact (foldl (fun u c => of_coder (pictureCodedEvent_only c u)) _ s).trans (serve _)
  · exact refl s

theorem coderSet (due : Vector Staged 6) (body : List Byte) (s : State) : MemoryKept s (coderSet due body s).2 := by
  rcases coderSet_only due body s with h | ⟨_, _, h⟩ <;> rw [h] <;> exact of_store rfl

theorem sceneRecall (body : List Byte) (s : State) : MemoryKept s (sceneRecall body s).2 := by
  rcases sceneRecall_only body s with h | ⟨_, _, _, -, h⟩ <;> rw [h] <;> exact of_store rfl

theorem fireCue (due : Vector Staged 6) (outcome : CueOutcome) (s : State) (c : Cue) :
    MemoryKept s (fireCue due outcome s c) := by
  have acted : ∀ u, MemoryKept u (performAction due c.action c.body u).2 := by
    intro u
    unfold performAction
    split
    · exact refl u
    · split
      · exact coderSet due c.body u
      · exact sceneRecall c.body u
      · exact of_open (clipOpen_only _ _ _)
      · exact of_clip (clipClose_only _ _ _)
      · exact of_clip (clipMark_only _ _)
  rw [fireCue_eq]
  exact .trans ((modTiming _ s).trans (acted _)) (raise _ _)

theorem agentTurn (due : Vector Staged 6) (changes : Nat) (rateTaken : Bool) (s : State) (agent : TickAgent) :
    MemoryKept s (agentTurn due changes rateTaken s agent) := by
  refine .trans ?_ (serve _)
  cases agent with
  | coder c =>
    cases rateTaken with
    | false => exact of_coder (coderTick_only c _ s)
    | true => exact of_coder (coderRateTake_only c _ s)
  | scheduler => exact of_send (schedulerTick_only s)
  | mixer => exact of_mix (blockTick_only changes s)

theorem pictureTick (s : State) : MemoryKept s (pictureTick s) := by
  have fixed : MemoryKept s (fixedTimecode s) :=
    (endPictures s).trans (of_store (by rw [fixedTimecode, takeTimecode_only]; rfl))
  have start : MemoryKept s (fixedTick s) := by
    rw [fixedTick_eq]
    split
    · exact fixed.trans (of_store (by rw [takeRate_only]))
    · exact fixed.trans ((foldl (fireCue _ _) _ _).trans (foldl (fireCue _ _) _ _))
  rw [pictureTick_eq]
  exact start.trans ((foldl (agentTurn _ _ _) _ _).after rfl rfl)

theorem referencePulse (s : State) : MemoryKept s (referencePulse s) := by
  have relocked : MemoryKept s (relock s) := by
    unfold relock
    simp only
    exact .trans ((modTiming _ s).trans (raise _ _)) (ite pictureTick _)
  unfold Machine.referencePulse
  split
  · unfold pulseLocked
    split
    · exact refl s
    · simp only
      split
      · exact (modTiming _ s).trans (pictureTick _)
      · exact refl s
  all_goals exact relocked

theorem lossExpiry (s : State) : MemoryKept s (lossExpiry s) := by
  unfold Machine.lossExpiry
  split
  · exact .trans (((passTo _ s).trans (modTiming _ _)).trans (pictureTick _)) (raise _ _)
  · exact refl s

theorem oscillatorTick (s : State) : MemoryKept s (oscillatorTick s) := by
  unfold Machine.oscillatorTick
  split
  · exact refl s
  all_goals exact (passTo _ s).trans (pictureTick _)

theorem lineFrameEnd (s : State) : MemoryKept s (lineFrameEnd s) := by
  unfold Machine.lineFrameEnd
  split
  · exact refl s
  · exact of_store rfl
  · exact of_store rfl
  · simp only
    split
    · unfold resetAct
      split <;> exact of_memory rfl rfl
    · exact of_store rfl

theorem portChange (p : Fin 8) (state : InputState) (s : State) : MemoryKept s (portChange p state s) :=
  of_store (by rw [portChange_only])

/-! ### The requests -/

section requests

variable {owner : List Byte → State → Reply × State} (body : List Byte) (s : State)

theorem thenServe (h : MemoryKept s (owner body s).2) : MemoryKept s (thenServe owner body s).2 := by
  have served := h.trans (serve (owner body s).2)
  unfold Machine.thenServe
  generalize owner body s = answer at h served ⊢
  obtain ⟨reply, t⟩ := answer
  dsimp only at h served ⊢
  split <;> dsimp only
  · exact served
  · exact served
  all_goals exact h

theorem waitChecks : MemoryKept s (waitChecks s) := by
  unfold Machine.waitChecks
  repeat' split
  · cases e : boundaryChecks _ s with
    | none => exact refl s
    | some t => exact of_send (boundaryChecks_only e)
  all_goals exact refl s

theorem thenCheck (h : MemoryKept s (owner body s).2) : MemoryKept s (thenCheck owner body s).2 := by
  have served := h.trans ((waitChecks (owner body s).2).trans (serve _))
  unfold Machine.thenCheck
  generalize owner body s = answer at h served ⊢
  obtain ⟨reply, t⟩ := answer
  dsimp only at h served ⊢
  split <;> dsimp only
  · exact served
  · exact served
  all_goals exact h

theorem joinChange (change : Change) {answer : State → Reply × State} (h : ∀ u, (answer u).2 = u) :
    MemoryKept s (joinChange change answer s).2 := by
  rcases joinChange_only change answer h s with e | ⟨-, e⟩ <;> rw [e] <;> exact of_store rfl

/-- The requests of the mixer reach its change list alone. -/
theorem mixerRequests : MemoryKept s (embedSet body s).2 ∧ MemoryKept s (busSet body s).2
    ∧ MemoryKept s (channelSet body s).2 ∧ MemoryKept s (sendSet body s).2 ∧ MemoryKept s (outputSet body s).2 := by
  refine ⟨?_, ?_, ?_, ?_, ?_⟩
  · unfold embedSet
    split
    · exact joinChange s _ fun _ => rfl
    · exact refl s
  · unfold busSet
    simp only
    repeat' split
    all_goals first
      | exact refl s
      | exact joinChange s _ fun _ => rfl
  · unfold channelSet
    split
    · exact refl s
    · exact joinChange s _ fun _ => rfl
  · unfold sendSet
    split
    · exact joinChange s _ fun _ => rfl
    · exact refl s
  · unfold outputSet
    split
    · exact joinChange s _ fun _ => rfl
    · exact refl s

theorem recompute (cause : AllocCause) : MemoryKept s (recompute cause s) := of_alloc (recompute_only cause s)

theorem pathRate : MemoryKept s (pathRate body s).2 := by
  unfold Machine.pathRate
  split
  · exact refl s
  · exact (recompute _ _).after rfl rfl

theorem clipShare : MemoryKept s (clipShare body s).2 := by
  unfold Machine.clipShare
  simp only
  split
  · exact refl s
  · exact (recompute _ _).after rfl rfl

theorem setSend (id : Nat) (after : SendState) (cause : SendCause) : MemoryKept s (setSend id after cause s) :=
  of_send (setSend_sendSide id after cause s)

theorem clipSend : MemoryKept s (clipSend body s).2 := by
  unfold Machine.clipSend
  repeat' split
  · exact refl s
  · exact refl s
  · exact (setSend _ _ _ _).after rfl rfl

theorem clipRelease : MemoryKept s (clipRelease body s).2 := by
  unfold Machine.clipRelease
  split
  · exact refl s
  · simp only [answerOk_snd]
    split
    · exact (modClip _ _ s).trans (setSend _ _ _ _)
    · exact modClip _ _ s

theorem clipDiscard : MemoryKept s (clipDiscard body s).2 := by
  unfold Machine.clipDiscard
  repeat' split
  · exact refl s
  · exact modClip _ _ s
  · exact of_clip (freeClip_only _ s)

theorem returnSet : MemoryKept s (returnSet body s).2 := by
  unfold Machine.returnSet
  split
  · exact refl s
  · exact of_store (by rw [answerOk_snd, id (primeReturn_only _ _)]; rfl)

theorem pathOpen : MemoryKept s (pathOpen body s).2 := by
  unfold Machine.pathOpen
  repeat' split
  · exact refl s
  · exact of_send (enterProbe_only _ s)
  all_goals exact refl s

theorem pathClose : MemoryKept s (pathClose body s).2 := by
  unfold Machine.pathClose
  repeat' split
  · exact refl s
  · exact refl s
  · exact refl s
  · exact of_send (goDown_only _ _ s)
  · exact .trans (of_send (changeState_only _ _ _ _ s)) (modPath _ _ _)
  · exact modPath _ _ s

theorem pathSet : MemoryKept s (pathSet body s).2 := by
  unfold Machine.pathSet
  split
  · exact refl s
  · exact (modPath _ _ s).trans (ite (fun u => of_send (ackExpired_only _ u)) _)

end requests

end MemoryKept

/-! ### Every command -/

theorem finish_canonical (ran : finish u = .next t) (canonical : u.memoryCanonical) : t.memoryCanonical := by
  cases ran
  exact canonical

/-- A line gains bits in its place, and the list of errors stays in strictly ascending order. -/
theorem addLineErrors_lines (line : Nat) (bits : List Nat) (errors : List (Nat × List Nat)) {low : Nat} (above : low < line)
    (later : ∀ e ∈ errors, low < e.1) : ∀ e ∈ addLineErrors line bits errors, low < e.1 := by
  induction errors with
  | nil =>
    simp only [addLineErrors, List.mem_singleton]
    rintro e rfl
    exact above
  | cons first rest ih =>
    obtain ⟨l, old⟩ := first
    simp only [List.mem_cons, forall_eq_or_imp] at later
    unfold addLineErrors
    split
    · simp only [List.mem_cons, forall_eq_or_imp]
      exact ⟨above, later⟩
    · split
      · simp only [List.mem_cons, forall_eq_or_imp]
        exact later
      · simp only [List.mem_cons, forall_eq_or_imp]
        exact ⟨later.1, ih later.2⟩

theorem addLineErrors_ascending (line : Nat) (bits : List Nat) {errors : List (Nat × List Nat)}
    (ascending : (errors.map fun e => e.1).Pairwise (· < ·)) :
    ((addLineErrors line bits errors).map fun e => e.1).Pairwise (· < ·) := by
  induction errors with
  | nil => exact List.pairwise_singleton _ _
  | cons first rest ih =>
    obtain ⟨l, old⟩ := first
    have ascending' := ascending
    simp only [List.map_cons, List.pairwise_cons, List.forall_mem_map] at ascending
    obtain ⟨later, ordered⟩ := ascending
    unfold addLineErrors
    split
    · next before =>
      simp only [List.map_cons, List.pairwise_cons, List.forall_mem_map, List.mem_cons, forall_eq_or_imp]
      exact ⟨⟨before, fun e he => before.trans (later e he)⟩, later, ordered⟩
    · split
      · exact ascending'
      · next notBefore other =>
        simp only [List.map_cons, List.pairwise_cons, List.forall_mem_map]
        exact ⟨addLineErrors_lines line bits rest (by omega) later, ih ordered⟩

theorem runRequest_canonical {kind : RequestKind} {owner : List Byte → State → Reply × State}
    (canonical : s.memoryCanonical) (owns : ∀ body, MemoryKept s (owner body s).2)
    (ran : runRequest kind owner s = .next t) : t.memoryCanonical := by
  unfold runRequest at ran
  split at ran
  · exact finish_canonical ran canonical
  · next e _ =>
    split at ran
    · refine finish_canonical ran ?_
      show (if lengthOk kind e.body then owner e.body s else refuse .badLength s).2.memoryCanonical
      split
      · exact (owns _).canonical canonical
      · exact canonical
    · exact finish_canonical ran canonical

theorem runUnknown_canonical (canonical : s.memoryCanonical) (ran : runUnknown s = .next t) : t.memoryCanonical := by
  unfold runUnknown at ran
  split at ran
  · exact finish_canonical ran canonical
  · split at ran
    · exact finish_canonical ran canonical
    · exact finish_canonical (u := s.modControl _) ran canonical

/-- Every command keeps the memory canonical: MEMORY_ERROR by the place where it lists the line, and every other command
because it writes bytes in the canonical form, and only takes lines from the list of errors. -/
theorem exec_canonical (i : Instr) (canonical : s.memoryCanonical) (ran : exec i s = .next t) : t.memoryCanonical := by
  have kept : ∀ {u}, finish u = .next t → MemoryKept s u → t.memoryCanonical := fun ran h =>
    finish_canonical ran (h.canonical canonical)
  have served : ∀ {u}, finish (serve u) = .next t → MemoryKept s u → t.memoryCanonical := fun ran h =>
    kept ran (h.trans (.serve _))
  have request : ∀ {kind owner}, runRequest kind owner s = .next t → (∀ body, MemoryKept s (owner body s).2) →
      t.memoryCanonical := fun ran owns => runRequest_canonical canonical owns ran
  cases i with
  | powerOn straps => exact kept ran (.of_memory rfl rfl)
  | referencePulse elapsed => exact kept ran (.after (.referencePulse _) rfl rfl)
  | lossWindowExpiry => exact kept ran (.lossExpiry s)
  | oscillatorTick => exact kept ran (.oscillatorTick s)
  | audioFrameLate => exact kept ran (.of_send (audioExpiry_only s))
  | pictureDeadline channel => exact kept ran (.of_send (pictureExpiry_only channel s))
  | audioBlockTick => exact served ran (.after (.of_mix (blockTick_only _ _)) rfl rfl)
  | sceneDone => exact kept ran (.of_mix (finishRecall_only s))
  | meterPeriodEnd => exact kept ran (.of_mix (endMeterPeriod_only s))
  | serialSampleFrame elapsed port samples => exact kept ran (.of_store rfl)
  | embeddedSampleFrame elapsed port pair left right => exact kept ran (.of_store rfl)
  | videoPictureStart elapsed port lines pairs =>
    simp only [exec, execVideoPictureStart] at ran
    split at ran
    · exact kept ran (.of_store rfl)
    · refine kept ran (.trans ?_ (.of_mix (emptySilent_only _)))
      split
      · exact .after (.portChange port .present _) rfl rfl
      · exact .of_store rfl
  | videoPictureComplete elapsed port picture =>
    simp only [exec, execVideoPictureComplete] at ran
    repeat' split at ran
    all_goals exact kept ran (.of_store rfl)
  | inputLossExpiry port =>
    simp only [exec, execInputLossExpiry] at ran
    split at ran
    · exact kept ran (.refl s)
    · refine kept ran (.trans ?_ (.of_mix (emptySilent_only _)))
      exact .after (.portChange port .lost _) rfl rfl
  | pictureCoded elapsed channel => exact served ran (.after (.of_coder (pictureCodedEvent_only channel _)) rfl rfl)
  | initPage elapsed => exact kept ran (.after (.initialisePage _) rfl rfl)
  | patrolRead => exact served ran (.trans (.passTo _ s) (.patrolRead _))
  | demandReadEnd elapsed clip =>
    simp only [exec, execDemandReadEnd] at ran
    split at ran
    · exact kept ran (.of_store rfl)
    · exact served ran (.after (.endRead _ _) rfl rfl)
  | homeFrameReceived elapsed path cells => exact served ran (.after (.of_home (receiveCells_only path cells _)) rfl rfl)
  | confirmTimeout clip =>
    simp only [exec, execConfirmTimeout] at ran
    repeat' split at ran
    · exact kept ran (.refl s)
    · exact kept ran (.refl s)
    · exact served ran (.trans (.passTo _ s) (.of_send (endWait_only clip .timeout _)))
  | helloTimeout path =>
    simp only [exec, execHelloTimeout] at ran
    split at ran
    · exact served ran (.trans (.passTo _ s) (.of_send (helloExpired_only path _)))
    · exact kept ran (.refl s)
  | ackTimeout path =>
    simp only [exec, execAckTimeout] at ran
    split at ran
    · exact kept ran (.refl s)
    · exact served ran (.trans (.passTo _ s) (.of_send (ackExpired_only path _)))
  | creditTimerExpiry path =>
    simp only [exec, execCreditTimerExpiry] at ran
    repeat' split at ran
    · exact kept ran (.refl s)
    · exact served ran (.of_store rfl)
    · exact kept ran (.refl s)
  | retryRequestRepeat path =>
    simp only [exec, execRetryRequestRepeat] at ran
    split at ran
    · exact served ran (.of_store rfl)
    · exact kept ran (.refl s)
  | pathFrameEnd elapsed path => exact served ran (.after (.frameEnd path _) rfl rfl)
  | requestArrival elapsed bytes => exact kept ran (.of_store rfl)
  | badControlFrame elapsed bytes => exact kept ran (.of_store rfl)
  | unknownRequestKind => exact runUnknown_canonical canonical ran
  | controlFrameEnd elapsed => exact kept ran (.after (.lineFrameEnd _) rfl rfl)
  | memoryError elapsed page line bits =>
    simp only [exec, execMemoryError] at ran
    repeat' split at ran
    · cases ran
    · exact kept ran (.of_store rfl)
    · exact finish_canonical ran ⟨canonical.1, addLineErrors_ascending _ _ canonical.2⟩
  | coderSet => exact request ran (fun body => .coderSet noneDue body s)
  | setTimecode => exact request ran (fun _ => .of_store (by unfold setTimecode; dsimp only; split <;> rfl))
  | setReference => exact request ran (fun _ => .of_store (by unfold setReference; (repeat' split) <;> rfl))
  | cueAdd => exact request ran (fun _ => .of_store (by unfold cueAdd; dsimp only; (repeat' split) <;> rfl))
  | cueCancel => exact request ran (fun _ => .of_store (by unfold cueCancel; (repeat' split) <;> rfl))
  | cueList => exact request ran (fun _ => .refl s)
  | inputInfo => exact request ran (fun _ => .of_store (by unfold inputInfo; split <;> rfl))
  | coderInfo => exact request ran (fun _ => .of_store (by unfold coderInfo; split <;> rfl))
  | pathRate => exact request ran (fun body => .pathRate body s)
  | clipShare => exact request ran (fun body => .clipShare body s)
  | budgetInfo => exact request ran (fun _ => .refl s)
  | storeSet => exact request ran (fun _ => .of_memory rfl rfl)
  | storeInfo => exact request ran (fun _ => .refl s)
  | segmentInfo => exact request ran (fun _ => .of_store (by unfold segmentInfo; dsimp only; (repeat' split) <;> rfl))
  | timelineInfo => exact request ran (fun _ => .of_store (by unfold timelineInfo; split <;> rfl))
  | clipOpen => exact request ran (fun _ => .of_open (clipOpen_only _ _ s))
  | clipClose => exact request ran (fun body => .thenServe body s (.of_clip (clipClose_only _ _ s)))
  | clipMark => exact request ran (fun body => .thenServe body s (.of_clip (clipMark_only _ s)))
  | clipLabel => exact request ran (fun _ => .of_store (by unfold clipLabel; (repeat' split) <;> rfl))
  | clipRate => exact request ran (fun body => .thenCheck body s (.of_store (by unfold clipRate; (repeat' split) <;> rfl)))
  | clipSend => exact request ran (fun body => .thenCheck body s (.clipSend body s))
  | clipHold => exact request ran (fun body => .thenCheck body s (.of_store (by unfold clipHold; split <;> rfl)))
  | clipRelease => exact request ran (fun body => .thenCheck body s (.clipRelease body s))
  | clipDiscard => exact request ran (fun body => .thenServe body s (.clipDiscard body s))
  | clipTimeout => exact request ran (fun _ => .of_store rfl)
  | clipInfo => exact request ran (fun _ => .of_store (by unfold clipInfo; split <;> rfl))
  | clipList => exact request ran (fun _ => .of_store (by unfold clipList; dsimp only; (repeat' split) <;> rfl))
  | embedSet => exact request ran (fun body => (MemoryKept.mixerRequests body s).1)
  | busSet => exact request ran (fun body => (MemoryKept.mixerRequests body s).2.1)
  | channelSet => exact request ran (fun body => (MemoryKept.mixerRequests body s).2.2.1)
  | sendSet => exact request ran (fun body => (MemoryKept.mixerRequests body s).2.2.2.1)
  | sceneStore => exact request ran (fun _ => .of_store (by unfold sceneStore; split <;> rfl))
  | sceneRecall => exact request ran (fun body => .sceneRecall body s)
  | outputSet => exact request ran (fun body => (MemoryKept.mixerRequests body s).2.2.2.2)
  | meterSet => exact request ran (fun _ => .of_store rfl)
  | returnSet => exact request ran (fun body => .returnSet body s)
  | streamSet => exact request ran (fun _ => .of_store (by unfold streamSet; split <;> rfl))
  | mixerInfo => exact request ran (fun _ => .of_store (by unfold mixerInfo; split <;> rfl))
  | pathOpen => exact request ran (fun body => .thenServe body s (.pathOpen body s))
  | pathClose => exact request ran (fun body => .thenServe body s (.pathClose body s))
  | pathSet => exact request ran (fun body => .thenServe body s (.pathSet body s))
  | pathInfo => exact request ran (fun _ => .of_store (by unfold pathInfo; split <;> rfl))
  | sendInfo => exact request ran (fun _ => .refl s)
  | noticeSet => exact request ran (fun _ => .of_store (by unfold noticeSet; split <;> rfl))
  | status => exact request ran (fun _ => .of_store rfl)
  | reset => exact request ran (fun _ => .of_store (by unfold resetRequest; split <;> rfl))

end memoryKept

/-- Settles O55: a step is one command, or none on an empty queue. -/
theorem everyStepKeepsMemoryCanonical : Obligations.EveryStepKeepsMemoryCanonical := by
  intro s t canonical ran
  unfold step at ran
  split at ran
  · cases ran
    exact canonical
  · next i rest _ => exact exec_canonical (s := { s with pending := rest }) i canonical ran

end Sys2Proof.Machine

namespace Sys2Proof.Machine

/-! ## Requests for a listing (R88, R89, R119) -/

section listings

variable {s : State} {n high low flags : Byte}

theorem segmentInfo_unnamed (h : 8192 ≤ high.toNat * 256 + low.toNat) :
    segmentInfo [high, low] s = refuse .badValue s := by
  rw [segmentInfo, field_zero_two]
  exact if_pos h

theorem segmentInfo_missing (h : high.toNat * 256 + low.toNat < 8192)
    (missing : s.segment? (high.toNat * 256 + low.toNat) = none) : segmentInfo [high, low] s = refuse .notFound s := by
  rw [segmentInfo, field_zero_two]
  refine (if_neg (by omega)).trans ?_
  rw [missing]

theorem segmentInfo_named {g : Segment} (h : high.toNat * 256 + low.toNat < 8192)
    (held : s.segment? (high.toNat * 256 + low.toNat) = some g) : segmentInfo [high, low] s =
    answerOk (.segment g (some (s.store.timelines[g.channel].idxOf (high.toNat * 256 + low.toNat)))) s := by
  rw [segmentInfo, field_zero_two]
  refine (if_neg (by omega)).trans ?_
  rw [held]

theorem timelineInfo_unnamed (h : 6 ≤ n.toNat) : timelineInfo [n, high, low] s = refuse .badValue s := by
  rw [timelineInfo, field_zero_one, finOf_of_le h]

/-- TIMELINE_INFO gives as many of the 32 segments from the one named on as fit (R89, R198). -/
theorem timelineInfo_named {c : Fin 6} (h : n.toNat = c.val) :
    let listed := ((s.timeline c).drop (high.toNat * 256 + low.toNat)).take 32
    ∃ shown omitted, timelineInfo [n, high, low] s = answerOk (.timeline (s.timeline c).length
        ((s.oldestRetained c).map fun g => g.firstTimecode) shown omitted) s
      ∧ shown.length + omitted = listed.length
      ∧ shown <+: listed.map (fun g => ⟨g.id, g.state, g.firstTimecode, g.pictures, g.pinCount, g.damage.isSome⟩) := by
  obtain ⟨shown, omitted, e, length, first⟩ := fitEntries_eq
    (.timeline (s.timeline c).length ((s.oldestRetained c).map fun g => g.firstTimecode))
    ((((s.timeline c).drop (high.toNat * 256 + low.toNat)).take 32).map fun g =>
      (⟨g.id, g.state, g.firstTimecode, g.pictures, g.pinCount, g.damage.isSome⟩ : TimelineEntry))
  refine ⟨shown, omitted, ?_, length.trans (List.length_map _), first⟩
  rw [timelineInfo, field_zero_one, field_succ, field_zero_two, h, finOf_val, ← e]

theorem clipInfo_unnamed (h : s.clipNamed (high.toNat * 256 + low.toNat) = none) :
    clipInfo [high, low] s = refuse .notFound s := by
  rw [clipInfo, bodyClip, field_zero_two, h]

/-- The pins and the damage of the segments of a range, as CLIP_INFO gives them, by the segments that the range names. -/
theorem rangeEntries_eq (range : List Nat) :
    (range.filterMap fun id => (s.segment? id).map fun g => (⟨id, g.pinCount, g.damage.isSome⟩ : RangeEntry)) =
      (range.filterMap s.segment?).map fun g => ⟨g.id, g.pinCount, g.damage.isSome⟩ := by
  rw [List.map_filterMap]
  congr 1
  funext id
  cases held : s.segment? id with
  | none => rfl
  | some g => rw [Option.map_some, Option.map_some, id_of_segment? held]

/-- CLIP_INFO gives the record with the pins and the damage of as many segments of its range as fit (R119, R198). -/
theorem clipInfo_named {k : Clip} (h : s.clipNamed (high.toNat * 256 + low.toNat) = some k) :
    ∃ segments omitted, clipInfo [high, low] s = answerOk
        (.clip { k with cursor := none } (k.confirmDeadline.map fun t => t - s.now) (s.cursorReport k) segments omitted) s
      ∧ segments <+: (k.range.filterMap s.segment?).map (fun g => ⟨g.id, g.pinCount, g.damage.isSome⟩)
      ∧ segments.length + omitted = (k.range.filterMap s.segment?).length := by
  obtain ⟨segments, omitted, e, length, first⟩ := fitEntries_eq
    (.clip { k with cursor := none } (k.confirmDeadline.map fun t => t - s.now) (s.cursorReport k))
    ((k.range.filterMap s.segment?).map fun g => (⟨g.id, g.pinCount, g.damage.isSome⟩ : RangeEntry))
  refine ⟨segments, omitted, ?_, first, length.trans (List.length_map _)⟩
  rw [clipInfo, bodyClip, field_zero_two, h, ← e, ← rangeEntries_eq]

/-- Where a cursor stands, as CLIP_INFO gives it (Table 8-3; before START: notes/assumptions/31.md). -/
theorem cursorReport_positions (k : Clip) : (k.cursor = none → s.cursorReport k = none)
    ∧ ∀ at_, k.cursor = some at_ →
      (at_.position = .beforeStart → s.cursorReport k = some (none, 0))
      ∧ (∀ passed, at_.position = .boundary none passed → s.cursorReport k = some (k.range.head?, 0))
      ∧ (∀ g passed, at_.position = .boundary (some g.id) passed → s.segment? g.id = some g →
          s.cursorReport k = some (some g.id, g.byteLength))
      ∧ ∀ g offset, at_.position = .inside g offset → s.cursorReport k = some (some g, offset) := by
  unfold State.cursorReport
  refine ⟨fun h => by rw [h]; rfl, fun at_ h => ⟨fun p => ?_, fun passed p => ?_, fun g passed p held => ?_,
    fun g offset p => ?_⟩⟩
  all_goals simp only [h, Option.map_some, p]
  · rfl
  · rw [held]
    rfl

/-- Of a flags byte with two bits, each of them by division. -/
theorem maskBit_flags (h : flags.toNat < 4) :
    maskBit flags.toNat 0 = decide (flags.toNat % 2 = 1) ∧ maskBit flags.toNat 1 = decide (flags.toNat / 2 = 1) := by
  generalize flags.toNat = f at h
  interval_cases f <;> decide

/-- The records that CLIP_LIST lists: of a channel, when the body names one, from a slot on, when it names one (R119). -/
def State.listedClips (s : State) (flags n first : Nat) : List Clip :=
  s.clipLog.clips.filter fun k =>
    !k.discardPending && (flags / 2 == 0 || decide (first ≤ k.slot)) && (flags % 2 == 0 || k.channel.val == n)

theorem clipList_refused (h : 4 ≤ flags.toNat ∨ flags.toNat % 2 = 1 ∧ 6 ≤ n.toNat
      ∨ flags.toNat / 2 = 1 ∧ 256 ≤ high.toNat * 256 + low.toNat) :
    clipList [flags, n, high, low] s = refuse .badValue s := by
  unfold clipList
  simp only [field_zero_one, field_succ, field_zero_two, maskDefined]
  by_cases defined : flags.toNat < 4
  · obtain ⟨b0, b1⟩ := maskBit_flags defined
    rw [b0, b1, if_pos]
    rcases h with h | ⟨set, large⟩ | ⟨set, large⟩
    · omega
    · simp [set, large]
    · simp [set, large]
  · rw [if_pos (by simp [defined])]

theorem clipList_accepted (defined : flags.toNat < 4) (channel : flags.toNat % 2 = 1 → n.toNat < 6)
    (slot : flags.toNat / 2 = 1 → high.toNat * 256 + low.toNat < 256) :
    clipList [flags, n, high, low] s = answerOk
      (fitEntries .clips ((s.listedClips flags.toNat n.toNat (high.toNat * 256 + low.toNat)).map clipEntry)) s := by
  obtain ⟨b0, b1⟩ := maskBit_flags defined
  unfold clipList State.listedClips
  simp only [field_zero_one, field_succ, field_zero_two, maskDefined, b0, b1]
  by_cases hc : flags.toNat % 2 = 1 <;> by_cases hs : flags.toNat / 2 = 1
  · simp [hc, hs, defined, channel hc, slot hs]
  · simp [hc, show flags.toNat / 2 = 0 by omega, defined, channel hc]
  · simp [show flags.toNat % 2 = 0 by omega, hs, defined, slot hs]
  · simp [show flags.toNat % 2 = 0 by omega, show flags.toNat / 2 = 0 by omega, defined]

/-- CLIP_LIST gives as many records as fit, in the order of their slots when the table is in that order (R119, R198). -/
theorem clipList_shown (listed : List Clip) : ∃ shown omitted,
    fitEntries .clips (listed.map clipEntry) = .clips shown omitted
      ∧ shown.length + omitted = listed.length
      ∧ shown <+: listed.map clipEntry
      ∧ ((listed.map fun k => k.slot).Pairwise (· < ·) → (shown.map fun e => e.slot).Pairwise (· < ·)) := by
  obtain ⟨shown, omitted, e, length, first⟩ := fitEntries_eq .clips (listed.map clipEntry)
  refine ⟨shown, omitted, e, length.trans (List.length_map _), first, fun ordered => ?_⟩
  refine List.Pairwise.sublist (first.sublist.map _) ?_
  rw [List.map_map]
  exact ordered

end listings

/-- Settles O28: each owner reads its records and leaves the state, and a listing shows as many entries as fit. -/
theorem requestsForAListing : Obligations.RequestsForAListing := by
  refine fun s => ⟨fun high low asks => ⟨fun large => ?_, fun small none => ?_, fun small g held => ?_⟩,
    fun n high low asks => ⟨fun large => ?_, fun c named => ?_⟩,
    fun high low asks => ⟨fun none => ?_, fun k named => ?_⟩,
    fun flags n high low asks => ⟨fun refused => ?_, fun defined channel slot => ?_⟩⟩
  · exact runRequest_refused asks rfl (segmentInfo_unnamed large)
  · exact runRequest_refused asks rfl (segmentInfo_missing small none)
  · have run : exec .segmentInfo s = _ := runRequest_eq (owner := segmentInfo) asks rfl
    rw [run, segmentInfo_named small held, answerOk_fst, answerOk_snd]
  · exact runRequest_refused asks rfl (timelineInfo_unnamed large)
  · have run : exec .timelineInfo s = _ := runRequest_eq (owner := timelineInfo) asks rfl
    obtain ⟨shown, omitted, e, length, first⟩ := timelineInfo_named (s := s) (high := high) (low := low) named
    exact ⟨shown, omitted, by rw [run, e]; rfl, length, first⟩
  · exact runRequest_refused asks rfl (clipInfo_unnamed none)
  · have run : exec .clipInfo s = _ := runRequest_eq (owner := clipInfo) asks rfl
    obtain ⟨segments, omitted, e, first, length⟩ := clipInfo_named named
    obtain ⟨absent, positions⟩ := cursorReport_positions (s := s) k
    exact ⟨s.cursorReport k, segments, omitted, by rw [run, e]; rfl, absent, positions, first, length⟩
  · exact runRequest_refused asks rfl (clipList_refused refused)
  · have run : exec .clipList s = _ := runRequest_eq (owner := clipList) asks rfl
    obtain ⟨shown, omitted, e, length, first, ordered⟩ :=
      clipList_shown (s.listedClips flags.toNat n.toNat (high.toNat * 256 + low.toNat))
    refine ⟨shown, omitted, by rw [run, clipList_accepted defined channel slot, e]; rfl, length, first, fun table => ?_⟩
    exact ordered (table.sublist (List.filter_sublist.map _))

/-! ## Timers (R87, R113) -/

/-- A value brought into a range from 1 on. -/
theorem min_max_one (high n : Nat) (h : 1 ≤ high) :
    min high (max 1 n) = if n = 0 then 1 else if high < n then high else n := by
  split_ifs <;> omega

/-- Settles O29: the owners clamp the value and store it. -/
theorem timersAreStoredClamped : Obligations.TimersAreStoredClamped := by
  refine ⟨fun s body asks length => ?_, fun s high low asks => ?_, fun s body asks length => ?_, fun s n asks => ?_⟩
  · exact runRequest_badLength (owner := storeSet) asks (by simpa [lengthOk] using length)
  · have run : exec .storeSet s = _ := runRequest_eq (owner := storeSet) asks rfl
    rw [run, storeSet, field_zero_two, min_max_one 1000 _ (by omega)]
    rfl
  · exact runRequest_badLength (owner := clipTimeout) asks (by simpa [lengthOk] using length)
  · have run : exec .clipTimeout s = _ := runRequest_eq (owner := clipTimeout) asks rfl
    rw [run, clipTimeout, field_zero_one, min_max_one 60 _ (by omega)]
    rfl

/-! ## Initialisation (R65) -/

theorem mem_insertAscending (n p : Nat) (l : List Nat) : p ∈ insertAscending n l ↔ p = n ∨ p ∈ l := by
  induction l with
  | nil => simp [insertAscending]
  | cons m rest ih =>
    unfold insertAscending
    split
    · simp
    · split
      · next e => simp [e]
      · simp [ih, or_left_comm]

/-- What is left of the errors of a line when some lines are freed of theirs. -/
theorem errorBits_filter (free : Nat → Bool) (errors : List (Nat × List Nat)) (line : Nat) :
    errorBits (errors.filter fun e => !free e.1) line = if free line then [] else errorBits errors line := by
  induction errors with
  | nil => simp [errorBits]
  | cons first rest ih =>
    obtain ⟨l, bits⟩ := first
    rw [List.filter_cons]
    by_cases hl : l = line
    · subst hl
      cases hf : free l <;> simp [errorBits, hf, ih]
    · by_cases hf : free l = true <;> simp [errorBits, hf, hl, ih]

/-- What the initialisation of a page leaves, but for its notice (R65). -/
theorem initialisePage_eq {s : State} (h : s.store.state = .initialising) : ∃ control,
    initialisePage s = { s with
      store := { s.store with
        state := if s.store.initPosition + 1 = s.store.pageCount then .ready else .initialising
        initPosition := s.store.initPosition + 1
        freePool := insertAscending s.store.initPosition s.store.freePool
        dram := memClear s.store.dram (s.store.initPosition * 65536) ((s.store.initPosition + 1) * 65536)
        lineErrors := s.store.lineErrors.filter fun e => !(e.1 / 1024 == s.store.initPosition) }
      control := control } := by
  unfold initialisePage
  simp only [h, State.modStore_store]
  split
  · exact ⟨_, raise_of_not_protocol _ rfl⟩
  · refine ⟨s.control, ?_⟩
    rw [← h]
    rfl

/-- Settles O30: in READY nothing is left to do; else the page is zeroed, freed of errors, and joins the pool. -/
theorem initialisationFreesThePage : Obligations.InitialisationFreesThePage := by
  refine fun s elapsed => ⟨fun ready => ?_, fun initialising => ?_⟩
  · have same : initialisePage (s.elapse elapsed) = s.elapse elapsed := by
      unfold initialisePage
      simp only [State.elapse_store, ready]
    show finish (initialisePage (s.elapse elapsed)) = _
    rw [same]
    rfl
  · obtain ⟨control, e⟩ := initialisePage_eq (s := s.elapse elapsed) initialising
    refine ⟨_, finish_eq (initialisePage (s.elapse elapsed)), ?_⟩
    rw [e]
    refine ⟨rfl, rfl, fun p => mem_insertAscending _ _ _, fun a => memRead_memClear _ _ _ _, fun line => ?_, rfl, rfl, rfl⟩
    refine (errorBits_filter (fun l => l / 1024 == s.store.initPosition) _ line).trans ?_
    simp only [beq_iff_eq]
    rfl

end Sys2Proof.Machine

namespace Sys2Proof.Machine

/-! ## Freeing a segment and reclaim, seen from outside (R74, R76, R77) -/

/-! ### Numbers in ascending lists -/

theorem insertAscending_ascending (n : Nat) {l : List Nat} (h : l.Pairwise (· < ·)) :
    (insertAscending n l).Pairwise (· < ·) := by
  induction l with
  | nil => exact List.pairwise_singleton _ _
  | cons m rest ih =>
    obtain ⟨later, ordered⟩ := List.pairwise_cons.mp h
    unfold insertAscending
    split
    · next before =>
      refine List.pairwise_cons.mpr ⟨List.forall_mem_cons.mpr ⟨before, fun k hk => before.trans (later k hk)⟩, h⟩
    · split
      · exact h
      · next notBefore other =>
        refine List.pairwise_cons.mpr ⟨fun k hk => ?_, ih ordered⟩
        rcases (mem_insertAscending _ _ _).mp hk with rfl | hk
        · omega
        · exact later k hk

/-- Numbers that join an ascending list, one after the other. -/
def insertAll (new l : List Nat) : List Nat := new.foldl (fun l n => insertAscending n l) l

theorem mem_insertAll (new l : List Nat) (p : Nat) : p ∈ insertAll new l ↔ p ∈ l ∨ p ∈ new := by
  unfold insertAll
  induction new generalizing l with
  | nil => simp
  | cons n rest ih => rw [List.foldl_cons, ih, mem_insertAscending, List.mem_cons, or_comm (a := p = n), or_assoc]

theorem insertAll_ascending (new : List Nat) {l : List Nat} (h : l.Pairwise (· < ·)) : (insertAll new l).Pairwise (· < ·) :=
  List.foldlRecOn new _ h fun _ ordered n _ => insertAscending_ascending n ordered

/-! ### What freeing a segment does (R77) -/

section free

variable {s : State} {id other : Nat} {g : Segment}

/-- The pages of a freed segment join the pool but for the bad ones, which are retired, each with its notice. -/
theorem releasePages_eq (bad pages : List Nat) (s : State) :
    releasePages bad pages s = { s with
      store := { s.store with
        freePool := insertAll (pages.filter fun page => !bad.contains page) s.store.freePool
        retired := insertAll (pages.filter fun page => bad.contains page) s.store.retired
        pagesRetired := s.store.pagesRetired + BitVec.ofNat 32 (pages.filter fun page => bad.contains page).length }
      control := (pages.filter fun page => bad.contains page).foldl (fun control page =>
        queueNotice ⟨.pageRetired page .reclaim, s.timing.timecode⟩ control) s.control } := by
  induction pages generalizing s with
  | nil => simp [releasePages, insertAll]
  | cons page rest ih =>
    rw [releasePages, ih, List.filter_cons, List.filter_cons]
    cases hb : bad.contains page with
    | false => rfl
    | true =>
      have count : s.store.pagesRetired + 1#32 + BitVec.ofNat 32 (rest.filter fun page => bad.contains page).length =
          s.store.pagesRetired + BitVec.ofNat 32 ((rest.filter fun page => bad.contains page).length + 1) := by
        rw [BitVec.add_assoc, ← BitVec.ofNat_add, Nat.add_comm 1]
      rw [if_pos rfl, if_pos rfl, raise_of_not_protocol _ rfl]
      simp only [State.modStore_store, State.modStore_control, State.modStore_timing, List.length_cons, ← count]
      rfl

/-- All that the freeing of a held segment does (R77). -/
theorem freeSegment_eq (held : s.segment? id = some g) :
    freeSegment id s = { s with
      store := { s.store with
        segments := s.store.segments.filter fun h => h.id != id
        timelines := vecModify s.store.timelines g.channel fun line => line.filter (· != id)
        completion := s.store.completion.filter (· != id)
        freePool := insertAll (g.pages.filter fun page => !g.badPages.contains page) s.store.freePool
        retired := insertAll (g.pages.filter fun page => g.badPages.contains page) s.store.retired
        reclaimed := s.store.reclaimed + 1
        pagesRetired := s.store.pagesRetired
          + BitVec.ofNat 32 (g.pages.filter fun page => g.badPages.contains page).length }
      sched := { s.sched with reads := s.sched.reads.map (loseSegment id) }
      control := (g.pages.filter fun page => g.badPages.contains page).foldl (fun control page =>
        queueNotice ⟨.pageRetired page .reclaim, s.timing.timecode⟩ control) s.control } := by
  unfold freeSegment
  rw [held]
  simp only [releasePages_eq]
  rfl

theorem segment?_freeSegment_same (id : Nat) (s : State) : (freeSegment id s).segment? id = none := by
  cases held : s.segment? id with
  | none =>
    unfold freeSegment
    rw [held]
    exact held
  | some g =>
    rw [freeSegment_eq held]
    exact List.find?_eq_none.mpr fun h mem => by simpa using (List.mem_filter.mp mem).2

/-- Freeing a segment only adds to the pool. -/
theorem freeSegment_freePool (id : Nat) (s : State) : s.store.freePool ⊆ (freeSegment id s).store.freePool := by
  cases held : s.segment? id with
  | none =>
    unfold freeSegment
    rw [held]
    exact List.Subset.refl _
  | some g =>
    rw [freeSegment_eq held]
    exact fun page mem => (mem_insertAll _ _ _).mpr (.inl mem)

end free

/-! ### Which segments reclaim frees (R76) -/

section reclaim

variable {s : State} {id : Nat} {g : Segment}

/-- An id of the completion list that reclaim passes over: its segment, if there is one, is pinned. -/
def State.passedOver (s : State) (id : Nat) : Prop := ∀ g, s.segment? id = some g → 0 < g.pinCount

/-- A held segment with no pin, as reclaim looks for it. -/
def State.unpinned (s : State) (id : Nat) : Bool := (s.segment? id).any fun g => g.pinCount == 0

theorem firstUnpinned_eq (s : State) : s.firstUnpinned = s.store.completion.find? s.unpinned := by
  unfold State.firstUnpinned State.unpinned
  congr 1
  funext id
  cases s.segment? id <;> rfl

theorem unpinned_iff (s : State) (id : Nat) : s.unpinned id = true ↔ ¬s.passedOver id := by
  unfold State.unpinned State.passedOver
  cases s.segment? id <;> simp

theorem firstUnpinned_none_iff : s.firstUnpinned = none ↔ ∀ id ∈ s.store.completion, s.passedOver id := by
  rw [firstUnpinned_eq, List.find?_eq_none]
  exact forall₂_congr fun id _ => (not_congr (unpinned_iff s id)).trans not_not

/-- The earliest-completed segment with no pin is chosen. -/
theorem firstUnpinned_of_split {before after : List Nat} (list : s.store.completion = before ++ id :: after)
    (held : s.segment? id = some g) (free : g.pinCount = 0) (earlier : ∀ j ∈ before, s.passedOver j) :
    s.firstUnpinned = some id := by
  have chosen : s.unpinned id = true := by rw [State.unpinned, held, Option.any_some, free]; rfl
  rw [firstUnpinned_eq, list, List.find?_append, List.find?_cons_of_pos chosen,
    List.find?_eq_none.mpr fun j hj chosen => (unpinned_iff s j).mp chosen (earlier j hj), Option.none_or]

/-- What reclaim frees leaves the completion list. -/
theorem freeSegment_completion_lt (first : s.firstUnpinned = some id) :
    (freeSegment id s).store.completion.length < s.store.completion.length := by
  have listed := firstUnpinned_complete first
  have found := List.find?_some first
  cases held : s.segment? id with
  | none => simp [held] at found
  | some g =>
    rw [freeSegment_eq held]
    exact List.length_filter_lt_length_iff_exists.mpr ⟨id, listed, by simp⟩

/-- With nothing to free, no turn of reclaim does anything. -/
theorem reclaimLoop_of_firstUnpinned_none (none : s.firstUnpinned = none) (n : Nat) : reclaimLoop n s = s := by
  cases n with
  | zero => rfl
  | succ n =>
    rw [reclaimLoop, none]
    split <;> rfl

/-- Reclaim has enough turns with one for each completed segment. -/
theorem reclaimLoop_enough {n : Nat} (h : s.store.completion.length ≤ n) : reclaimLoop n s = reclaimPages s := by
  suffices ∀ (k n m : Nat) (s : State), s.store.completion.length ≤ k → s.store.completion.length ≤ n →
      s.store.completion.length ≤ m → reclaimLoop n s = reclaimLoop m s from this _ _ _ s le_rfl h le_rfl
  intro k
  induction k with
  | zero =>
    intro n m s hk hn hm
    have none : s.firstUnpinned = none := by
      rw [firstUnpinned_none_iff, List.length_eq_zero_iff.mp (Nat.le_zero.mp hk)]
      simp
    rw [reclaimLoop_of_firstUnpinned_none none, reclaimLoop_of_firstUnpinned_none none]
  | succ k ih =>
    intro n m s hk hn hm
    cases first : s.firstUnpinned with
    | none => rw [reclaimLoop_of_firstUnpinned_none first, reclaimLoop_of_firstUnpinned_none first]
    | some id =>
      have fewer := freeSegment_completion_lt first
      obtain ⟨n, rfl⟩ := Nat.exists_eq_succ_of_ne_zero (n := n) (by omega)
      obtain ⟨m, rfl⟩ := Nat.exists_eq_succ_of_ne_zero (n := m) (by omega)
      rw [reclaimLoop, reclaimLoop, first]
      simp only
      rw [ih n m (freeSegment id s) (by omega) (by omega) (by omega)]

/-- A page need frees the earliest-completed segment with no pin, and is then a page need still (R76). -/
theorem reclaimPages_of_first (first : s.firstUnpinned = some id) (need : s.store.freePool.length < 256) :
    reclaimPages s = reclaimPages (freeSegment id s) := by
  have fewer := freeSegment_completion_lt first
  obtain ⟨n, hn⟩ := Nat.exists_eq_succ_of_ne_zero (n := s.store.completion.length) (by omega)
  rw [reclaimPages, hn, reclaimLoop, if_pos (by simpa [reserve] using need), first]
  exact reclaimLoop_enough (by omega)

theorem reclaimPages_of_none (none : s.firstUnpinned = none) : reclaimPages s = s :=
  reclaimLoop_of_firstUnpinned_none none _

/-- The ways a page need goes: the reserve is there, nothing is unpinned, or a segment is freed and the need remains. What
holds in the first two and is handed back by the third holds of every page need. -/
theorem reclaimPages_induction {motive : State → Prop}
    (done : ∀ s, reclaimPages s = s → (256 ≤ s.store.freePool.length ∨ s.firstUnpinned = none) → motive s)
    (freed : ∀ s id, s.firstUnpinned = some id → reclaimPages s = reclaimPages (freeSegment id s) →
      motive (freeSegment id s) → motive s) (s : State) : motive s := by
  generalize hk : s.store.completion.length = k
  induction k using Nat.strong_induction_on generalizing s with
  | _ k ih =>
    by_cases enough : 256 ≤ s.store.freePool.length
    · exact done s (reclaimPages_of_reserve enough) (.inl enough)
    · cases first : s.firstUnpinned with
      | none => exact done s (reclaimPages_of_none first) (.inr first)
      | some id =>
        exact freed s id first (reclaimPages_of_first first (by omega))
          (ih _ (hk ▸ freeSegment_completion_lt first) _ rfl)

/-- Reclaim only adds to the pool. -/
theorem reclaimPages_freePool (s : State) : s.store.freePool ⊆ (reclaimPages s).store.freePool := by
  induction s using reclaimPages_induction with
  | done s same _ => rw [same]; exact List.Subset.refl _
  | freed s id first next ih =>
    rw [next]
    exact fun page mem => ih (freeSegment_freePool id s mem)

/-- A page need ends with the reserve at hand or with no segment left to free (R76). -/
theorem reclaimPages_end (s : State) :
    256 ≤ (reclaimPages s).store.freePool.length ∨ ∀ id ∈ (reclaimPages s).store.completion, (reclaimPages s).passedOver id := by
  induction s using reclaimPages_induction with
  | done s same done =>
    rw [same]
    exact done.imp_right firstUnpinned_none_iff.mp
  | freed s id first next ih => rwa [next]

theorem reclaimRecord_spared (spared : Spared id s) : (reclaimRecord s).segment? id = s.segment? id := by
  unfold reclaimRecord
  split
  · next first => exact segment?_freeSegment_other s (spared.ne_firstUnpinned first)
  · rfl

end reclaim

/-- Settles O34: reclaim frees what it chooses, and it chooses no pinned segment. -/
theorem aPinnedSegmentIsNeverReclaimed : Obligations.APinnedSegmentIsNeverReclaimed := by
  refine ⟨fun s id g held pinned => ?_, fun s id g held => ?_, fun s => ⟨fun before id after g list held free earlier => ?_,
    fun none => ?_, fun enough => reclaimPages_of_reserve enough, reclaimPages_end s, fun id g held last complete => ?_,
    fun page rest pool => ?_⟩⟩
  · have spared : Spared id s := .inr ⟨g, held, pinned⟩
    exact ⟨spared.reclaimPages.trans held, (reclaimRecord_spared spared).trans held, (reclaimPages_only s).dram,
      (reclaimRecord_only s).dram, fun page mem => reclaimPages_freePool s mem⟩
  · refine ⟨segment?_freeSegment_same id s, fun other ne => segment?_freeSegment_other s ne, fun c => ?_, fun page => ?_,
      fun page => ?_, fun ordered => ?_, ?_⟩
    · rw [freeSegment_eq held]
      split
      · next e =>
        subst e
        rw [vecModify_same]
        simp [bne, beq_eq_decide]
      · next e => exact vecModify_other _ _ _ _ e
    · rw [freeSegment_eq held]
      refine (mem_insertAll _ _ _).trans ?_
      simp
    · rw [freeSegment_eq held]
      refine (mem_insertAll _ _ _).trans ?_
      simp
    · rw [freeSegment_eq held]
      exact insertAll_ascending _ ordered
    · rw [freeSegment_eq held]
      have listed : s.store.completion.filter (· != id) = s.store.completion.filter (· ≠ id) :=
        List.filter_congr fun j _ => by simp [bne, beq_eq_decide]
      simp only [listed]
      rfl
  · have first := firstUnpinned_of_split list held free earlier
    refine ⟨?_, reclaimPages_of_first first⟩
    rw [reclaimRecord, first]
  · have none := firstUnpinned_none_iff.mpr none
    refine ⟨?_, reclaimPages_of_none none⟩
    rw [reclaimRecord, none]
  · have same := segment?_modSegment_same (f := fun g => { g with pinCount := g.pinCount - 1 }) (by intro _; rfl) held
    refine ⟨s.modSegment id fun g => { g with pinCount := g.pinCount - 1 }, ?_, ?_,
      fun other ne => segment?_modSegment_other (by intro _; rfl) ne, rfl⟩
    · unfold unpin
      simp only [same, complete, last]
      rfl
    · rw [same, last]
  · rw [takePages, pool]
    rfl

end Sys2Proof.Machine

namespace Sys2Proof.Machine

/-! ## The pins of a discarded clip (R74, R112) -/

section unpinning

variable {s : State} {i : Nat} {g : Segment}

/-- A page need leaves a segment as it is, or frees it. -/
theorem segment?_reclaimPages (i : Nat) (s : State) :
    (reclaimPages s).segment? i = none ∨ (reclaimPages s).segment? i = s.segment? i := by
  induction s using reclaimPages_induction with
  | done s same _ => exact .inr (by rw [same])
  | freed s id first next ih =>
    rw [next]
    by_cases e : i = id
    · subst e
      rw [segment?_freeSegment_same] at ih
      exact .inl (ih.elim (fun h => h) fun h => h)
    · rwa [segment?_freeSegment_other s e] at ih

/-- One pin less on a segment, or on another one. -/
def Segment.lessPins (n : Nat) (g : Segment) : Segment := { g with pinCount := g.pinCount - n }

/-- Unpinning a segment takes the pin, and may be a page need (R74). -/
theorem unpin_cases (id : Nat) (s : State) :
    unpin id s = s.modSegment id (Segment.lessPins 1) ∨ unpin id s = reclaimPages (s.modSegment id (Segment.lessPins 1)) := by
  have mod : (s.modSegment id fun g => { g with pinCount := g.pinCount - 1 }) = s.modSegment id (Segment.lessPins 1) := rfl
  unfold unpin
  rw [mod]
  simp only
  repeat' split
  · exact .inr rfl
  · exact .inl rfl
  · exact .inl rfl

theorem segment?_modSegment_lessPins (id : Nat) (held : s.segment? i = some g) :
    (s.modSegment id (Segment.lessPins 1)).segment? i = some (g.lessPins (if id = i then 1 else 0)) := by
  rw [segment?_modSegment (f := Segment.lessPins 1) (by intro _; rfl), held, Option.map_some, id_of_segment? held]
  by_cases e : i = id
  · rw [if_pos e, if_pos e.symm]
  · rw [if_neg e, if_neg (Ne.symm e)]
    rfl

/-- A segment with no record gets none by losing pins. -/
theorem unpin_missing (id : Nat) (missing : s.segment? i = none) : (unpin id s).segment? i = none := by
  have mod : (s.modSegment id (Segment.lessPins 1)).segment? i = none := by
    rw [segment?_modSegment (f := Segment.lessPins 1) (by intro _; rfl), missing]
    rfl
  rcases unpin_cases id s with h | h <;> rw [h]
  · exact mod
  · exact reclaimLoop_of_none _ mod

/-- A segment loses its pins, and may be freed then (R74). -/
theorem unpin_held (id : Nat) (held : s.segment? i = some g) : (unpin id s).segment? i = none
    ∨ (unpin id s).segment? i = some (g.lessPins (if id = i then 1 else 0)) := by
  have mod := segment?_modSegment_lessPins id held
  rcases unpin_cases id s with h | h <;> rw [h]
  · exact .inr mod
  · exact (segment?_reclaimPages i _).imp_right fun kept => kept.trans mod

/-- A segment that keeps a pin, or for which there is no need, stays. -/
theorem unpin_stays (id : Nat) (held : s.segment? i = some g)
    (stays : 0 < (g.lessPins (if id = i then 1 else 0)).pinCount ∨ 256 ≤ s.store.freePool.length) :
    (unpin id s).segment? i = some (g.lessPins (if id = i then 1 else 0)) := by
  have mod := segment?_modSegment_lessPins id held
  rcases unpin_cases id s with h | h <;> rw [h]
  · exact mod
  · rcases stays with pinned | reserve
    · exact (Spared.reclaimPages (.inr ⟨_, mod, pinned⟩)).trans mod
    · rw [reclaimPages_of_reserve (s := s.modSegment id _) reserve]
      exact mod

/-- With the reserve at hand losing a pin touches the pool in no way. -/
theorem unpin_reserve (id : Nat) (reserve : 256 ≤ s.store.freePool.length) :
    unpin id s = s.modSegment id (Segment.lessPins 1) := by
  rcases unpin_cases id s with h | h <;> rw [h]
  exact reclaimPages_of_reserve (s := s.modSegment id _) reserve

theorem lessPins_lessPins (g : Segment) (m n : Nat) : (g.lessPins m).lessPins n = g.lessPins (m + n) := by
  simp [Segment.lessPins, Nat.sub_sub]

/-- The pins that a range loses, from its first segment on. -/
theorem lessPins_count (g : Segment) (id : Nat) (rest : List Nat) :
    (g.lessPins (if id = i then 1 else 0)).lessPins (rest.count i) = g.lessPins ((id :: rest).count i) := by
  rw [lessPins_lessPins, List.count_cons, Nat.add_comm]
  simp only [beq_iff_eq]

theorem unpinAll_missing (range : List Nat) (missing : s.segment? i = none) : (unpinAll range s).segment? i = none := by
  induction range generalizing s with
  | nil => exact missing
  | cons id rest ih => exact ih (unpin_missing id missing)

/-- A range that loses its pins leaves each of its segments that has other pins, and may free the rest. -/
theorem unpinAll_held (range : List Nat) (held : s.segment? i = some g) :
    (unpinAll range s).segment? i = none ∨ (unpinAll range s).segment? i = some (g.lessPins (range.count i)) := by
  induction range generalizing s g with
  | nil => exact .inr held
  | cons id rest ih =>
    rw [← lessPins_count]
    rcases unpin_held id held with freed | kept
    · exact .inl (unpinAll_missing rest freed)
    · exact ih kept

theorem unpinAll_stays (range : List Nat) (held : s.segment? i = some g)
    (stays : range.count i < g.pinCount ∨ 256 ≤ s.store.freePool.length) :
    (unpinAll range s).segment? i = some (g.lessPins (range.count i)) := by
  induction range generalizing s g with
  | nil => exact held
  | cons id rest ih =>
    rw [← lessPins_count]
    rcases stays with pinned | reserve
    · rw [List.count_cons] at pinned
      simp only [beq_iff_eq] at pinned
      have left : rest.count i < (g.lessPins (if id = i then 1 else 0)).pinCount := by
        show rest.count i < g.pinCount - _
        omega
      exact ih (unpin_stays id held (.inl (by omega))) (.inl left)
    · have pool : 256 ≤ (unpin id s).store.freePool.length := by
        rw [unpin_reserve id reserve]
        exact reserve
      exact ih (unpin_stays id held (.inr reserve)) (.inr pool)

end unpinning

/-! ## CLIP_DISCARD (R92, R112, R189) -/

section discard

variable {s : State} {id : Nat} {c : Clip} {high low : Byte}

/-- The clips are left as they are by what reclaim and the allocator do. -/
theorem freeClip_clips (held : s.clip? id = some c) :
    (freeClip id s).clipLog.clips = s.clipLog.clips.filter fun d => d.id != id := by
  unfold freeClip
  rw [held]
  simp only
  have demand := updateDemand_only (raise (.clipDiscarded id) (unpinAll c.range ((s.modClipLog fun log =>
    { log with clips := log.clips.filter fun d => d.id != id }).modReads (freeRead id))))
  rw [demand, raise_clipLog, (unpinAll_only _ _).clipLog]
  rfl

theorem clip?_freeClip (held : s.clip? id = some c) : (freeClip id s).clip? id = none := by
  unfold State.clip?
  rw [freeClip_clips held]
  exact List.find?_eq_none.mpr fun d mem => by simpa using (List.mem_filter.mp mem).2

theorem clip?_freeClip_other {other : Nat} (held : s.clip? id = some c) (ne : other ≠ id) :
    (freeClip id s).clip? other = s.clip? other := by
  unfold State.clip?
  rw [freeClip_clips held, List.find?_filter]
  congr 1
  funext d
  by_cases e : d.id = other <;> simp [e, ne]

/-- After a discard the allocator holds the demand there is (R108). -/
theorem freeClip_demand (held : s.clip? id = some c) : (freeClip id s).alloc.clipDemand = (freeClip id s).clipDemand := by
  unfold freeClip
  rw [held]
  simp only
  rw [updateDemand_clipDemand]
  unfold State.clipDemand
  conv_rhs => rw [show _ = _ from updateDemand_only _]

/-- A discard takes the pins of the clip's range, and reaches no more of the segments (R74, R112). -/
theorem freeClip_segment? (held : s.clip? id = some c) (i : Nat) : (freeClip id s).segment? i =
    (unpinAll c.range ((s.modClipLog fun log =>
      { log with clips := log.clips.filter fun d => d.id != id }).modReads (freeRead id))).segment? i := by
  unfold freeClip
  rw [held]
  refine segment?_congr ?_
  simp only
  rw [AllocOnly.store (updateDemand_only _), raise_store]

theorem clipDiscard_unnamed (h : s.clipNamed (high.toNat * 256 + low.toNat) = none) :
    clipDiscard [high, low] s = refuse .notFound s := by
  rw [clipDiscard, bodyClip, field_zero_two, h]

theorem clipDiscard_named (h : s.clipNamed (high.toNat * 256 + low.toNat) = some c) : clipDiscard [high, low] s =
    if c.send = .sending then answerAccepted .none (s.modClip c.id fun k =>
      { k with discardPending := true, cursor := k.cursor.map fun cursor => { cursor with items := [.abort] } })
    else answerOk .none (freeClip c.id s) := by
  rw [clipDiscard, bodyClip, field_zero_two, h]

end discard

/-- Settles O40: a clip that is not SENDING is freed and its range unpinned, a SENDING one gets the ABORT item. -/
theorem aDiscardFreesOrAborts : Obligations.ADiscardFreesOrAborts := by
  refine fun s high low asks => ⟨fun none => ?_, fun c held pending => ?_⟩
  · refine runRequest_refused asks rfl ?_
    simp [thenServe, clipDiscard_unnamed none, refuse]
  · have named := clipNamed_of_clip? held pending
    have same : c.id = high.toNat * 256 + low.toNat := by simpa using List.find?_some held
    have run : exec .clipDiscard s = _ := runRequest_eq (owner := thenServe clipDiscard) asks rfl
    refine ⟨fun sending => ?_, fun other => ⟨freeClip c.id s, ?_, ?_⟩⟩
    · rw [run, thenServe_accepted ((clipDiscard_named named).trans (if_pos sending)), answerAccepted_fst, answerAccepted_snd, same]
    · rw [run, thenServe_ok ((clipDiscard_named named).trans (if_neg other)), answerOk_fst, answerOk_snd]
    · rw [same]
      refine ⟨clip?_freeClip held, fun other ne => clip?_freeClip_other held ne, ?_, freeClip_demand held,
        fun i g segment => ⟨fun stays => ?_, ?_⟩, ?_⟩
      · rw [id (freeClip_only _ s)]
      · rw [freeClip_segment? held]
        exact unpinAll_stays c.range segment stays
      · rw [freeClip_segment? held]
        exact unpinAll_held c.range segment
      · have only := freeClip_only (high.toNat * 256 + low.toNat) s
        exact Eq.trans (id only) (by rw [id only])

end Sys2Proof.Machine

namespace Sys2Proof.Machine

/-! ## RESET KEEP_STORE (R91, R121, Table 9-7) -/

section keepStore

variable {s : State}

/-! ### The clips (R121) -/

/-- A clip that the reset keeps, as the reset leaves it. -/
def keptClip (s : State) (c : Clip) : Clip :=
  idleClip (match c.record with | .opened | .closing => trimClip s c | .closed => c)

theorem mem_keepClips (k : Clip) :
    k ∈ (keepClips s).clips ↔ ∃ old ∈ s.clipLog.clips, old.discardPending = false ∧ keptClip s old = k := by
  show k ∈ List.map (keptClip s) _ ↔ _
  simp [and_assoc]

/-- Ending a send in progress changes only the fields of the send. -/
theorem idleClip_frame (c : Clip) : idleClip c = { c with
    send := (idleClip c).send, cursor := (idleClip c).cursor, started := (idleClip c).started
    markersSent := (idleClip c).markersSent, resendUsed := (idleClip c).resendUsed, sendDigest := (idleClip c).sendDigest
    queueNumber := (idleClip c).queueNumber, confirmDeadline := (idleClip c).confirmDeadline } := by
  unfold idleClip
  split <;> rfl

theorem idleClip_send (c : Clip) : (idleClip c).send ∈ [SendState.idle, .sent, .failed] := by
  unfold idleClip
  split
  all_goals simp_all

/-- What a send in progress does not reach of a clip. -/
theorem keptClip_of_closed {old : Clip} (closed : old.record = .closed) : keptClip s old = idleClip old := by
  rw [keptClip, closed]

theorem keptClip_of_not_closed {old : Clip} (other : old.record ≠ .closed) :
    keptClip s old = idleClip (trimClip s old) := by
  unfold keptClip
  split
  · rfl
  · rfl
  · next closed => exact absurd closed other

/-- A kept clip keeps its slot, its id and all that does not belong to its close or to a send (Table 9-7). -/
theorem keptClip_keeps (old : Clip) :
    let k := keptClip s old
    (k.slot = old.slot ∧ k.id = old.id ∧ k.channel = old.channel ∧ k.inPoint = old.inPoint ∧ k.label = old.label
      ∧ k.rating = old.rating ∧ k.urgent = old.urgent ∧ k.markers = old.markers ∧ k.hold = old.hold
      ∧ k.damaged = old.damaged ∧ k.clamped = old.clamped)
    ∧ k.record = .closed ∧ k.discardPending = old.discardPending := by
  by_cases closed : old.record = .closed
  · simp only [keptClip_of_closed closed]
    rw [idleClip_frame]
    simp [closed]
  · simp only [keptClip_of_not_closed closed]
    rw [idleClip_frame]
    simp [trimClip]

theorem keptClip_send (old : Clip) : (keptClip s old).send ∈ [SendState.idle, .sent, .failed] := idleClip_send _

/-- The segments before the first that is not COMPLETE, and those from it on (R121). -/
theorem trimmed_range (old : Clip) : ∃ removed, old.range = (trimClip s old).range ++ removed
    ∧ (trimClip s old).gaps = gapsAfterClose s ((trimClip s old).outPoint.getD old.inPoint) removed old.gaps
    ∧ ∀ id rest, removed = id :: rest → ∀ g, s.segment? id = some g → g.state = .filling := by
  refine ⟨_, List.takeWhile_append_dropWhile.symm, rfl, fun id rest removed g held => ?_⟩
  have first := List.head_dropWhile_not (p := fun id => (s.segment? id).any fun g => g.state == .complete) (l := old.range)
    (by simp [removed])
  simp only [removed, List.head_cons, held, Option.any_some] at first
  cases h : g.state with
  | filling => rfl
  | complete => simp [h] at first

theorem trimmed_complete (old : Clip) : ∀ id ∈ (trimClip s old).range, ∃ g, s.segment? id = some g ∧ g.state = .complete := by
  intro id mem
  have complete := List.mem_takeWhile_imp mem
  cases held : s.segment? id with
  | none => simp [held] at complete
  | some g => exact ⟨g, rfl, by simpa [held] using complete⟩

/-- The gaps that a close leaves (R101, step 2): none after a removed segment, none that starts after the out-point. -/
theorem gapsAfterClose_eq (out : Timecode) (removed : List Nat) (gaps : List Gap) :
    gapsAfterClose s out removed gaps = (gaps.filter fun gap =>
      gap.follows.all (fun id => !removed.contains id) && !s.earlier out gap.start).map fun gap =>
        { gap with count := some (gap.count.getD (distance s.timing.rate gap.start out)) } := by
  unfold gapsAfterClose
  congr 2
  funext gap
  cases gap.follows <;> rfl

/-- The out-point of a trimmed clip: the last picture of the last segment left, or the in-point (R121). -/
theorem trimmed_out (old : Clip) : ∃ out, (trimClip s old).outPoint = some out
    ∧ ((trimClip s old).range = [] → out = old.inPoint)
    ∧ ∀ id g, (trimClip s old).range.getLast? = some id → s.segment? id = some g → out = lastPicture g := by
  refine ⟨_, rfl, fun none => ?_, fun id g last held => ?_⟩
  · rw [show old.range.takeWhile _ = [] from none]
    rfl
  · rw [show (old.range.takeWhile _).getLast? = some id from last, Option.bind_some, held]
    rfl

/-- A clip that was CLOSED keeps its range and all that its close gave it. -/
theorem keptClip_closed {old : Clip} (closed : old.record = .closed) :
    (keptClip s old).range = old.range ∧ (keptClip s old).gaps = old.gaps
      ∧ (keptClip s old).closeDigest = old.closeDigest ∧ (keptClip s old).truncated = old.truncated
      ∧ (keptClip s old).outPoint = old.outPoint := by
  rw [keptClip_of_closed closed, idleClip_frame]
  exact ⟨rfl, rfl, rfl, rfl, rfl⟩

/-- A clip that was OPEN or CLOSING is trimmed (R121). -/
theorem keptClip_trimmed {old : Clip} (other : old.record ≠ .closed) :
    let k := keptClip s old
    k.range = (trimClip s old).range ∧ k.gaps = (trimClip s old).gaps ∧ k.outPoint = (trimClip s old).outPoint
      ∧ k.truncated = true ∧ k.inPending = false ∧ k.outPending = false ∧ k.outSegment = none
      ∧ k.closeDigest = some (s.digestOf (trimClip s old).range) := by
  rw [keptClip_of_not_closed other, idleClip_frame]
  exact ⟨rfl, rfl, rfl, rfl, rfl, rfl, rfl, rfl⟩

/-! ### The store (R91) -/

variable {clips : List Clip} {st : Store} {now : Time}

/-- The segments kept are the COMPLETE ones that a kept clip's range holds, with their pins counted anew. -/
theorem mem_keepStore_segments (g : Segment) : g ∈ (keepStore clips now st).segments ↔
    ∃ old ∈ st.segments, old.state = .complete ∧ 0 < (recountPins clips old).pinCount ∧ recountPins clips old = g := by
  show g ∈ (st.segments.map (recountPins clips)).filter _ ↔ _
  simp only [List.mem_filter, List.mem_map, Bool.and_eq_true, beq_iff_eq, decide_eq_true_eq]
  constructor
  · rintro ⟨⟨old, mem, rfl⟩, complete, pinned⟩
    exact ⟨old, mem, complete, pinned, rfl⟩
  · rintro ⟨old, mem, complete, pinned, rfl⟩
    exact ⟨⟨old, mem, rfl⟩, complete, pinned⟩

/-- A segment in the range of a kept clip has a pin. -/
theorem recountPins_pos {k : Clip} {g : Segment} (mem : k ∈ clips) (inRange : g.id ∈ k.range) :
    0 < (recountPins clips g).pinCount :=
  List.length_pos_of_mem (List.mem_filter.mpr ⟨mem, List.contains_iff_mem.mpr inRange⟩)

/-- The retired pages, and the bad pages of the segments that are freed, are retired. -/
theorem mem_keepStore_retired (page : Nat) : page ∈ (keepStore clips now st).retired ↔ page ∈ st.retired
    ∨ ∃ old ∈ st.segments, ¬(old.state = .complete ∧ 0 < (recountPins clips old).pinCount)
        ∧ page ∈ old.pages ∧ page ∈ old.badPages := by
  refine (mem_insertAll _ _ _).trans (or_congr_right ?_)
  simp only [List.mem_flatMap, List.mem_filter, List.mem_map, Bool.not_eq_true', Bool.and_eq_false_iff,
    List.contains_iff_mem, beq_eq_false_iff_ne, decide_eq_false_iff_not, not_and_or]
  constructor
  · rintro ⟨g, ⟨⟨old, mem, rfl⟩, freed⟩, listed, bad⟩
    exact ⟨old, mem, freed, listed, bad⟩
  · rintro ⟨old, mem, freed, listed, bad⟩
    exact ⟨_, ⟨⟨old, mem, rfl⟩, freed⟩, listed, bad⟩

/-- The pages that are free: those initialised that are neither retired nor in a kept segment. -/
theorem mem_keepStore_freePool (page : Nat) : page ∈ (keepStore clips now st).freePool ↔ page < st.initPosition
    ∧ page ∉ (keepStore clips now st).retired ∧ ∀ g ∈ (keepStore clips now st).segments, page ∉ g.pages := by
  show page ∈ (List.range st.initPosition).filter (fun page => !(keepStore clips now st).retired.contains page
    && !(keepStore clips now st).segments.any fun g => g.pages.contains page) ↔ _
  simp

theorem keepStore_freePool_ascending : (keepStore clips now st).freePool.Pairwise (· < ·) :=
  List.Pairwise.filter _ List.pairwise_lt_range

/-- Bad pages of a segment that the reset frees are retired. -/
theorem keepStore_freed_retired {old : Segment} (mem : old ∈ st.segments)
    (freed : ∀ g ∈ (keepStore clips now st).segments, g.id ≠ old.id) {page : Nat} (listed : page ∈ old.pages)
    (bad : page ∈ old.badPages) : page ∈ (keepStore clips now st).retired := by
  refine (mem_keepStore_retired page).mpr (.inr ⟨old, mem, fun ⟨complete, pinned⟩ => ?_, listed, bad⟩)
  exact freed _ ((mem_keepStore_segments _).mpr ⟨old, mem, complete, pinned, rfl⟩) rfl

end keepStore

/-- Settles O11: the clips are trimmed under the state before the reset, the pins are counted anew, and the store is what
the kept segments leave. -/
theorem keepStoreKeepsWhatClipsHold : Obligations.KeepStoreKeepsWhatClipsHold := by
  intro s
  refine ⟨rfl, rfl, rfl, rfl, rfl, fun c => ?writers, ⟨rfl, rfl, rfl⟩, ⟨rfl, rfl, rfl, rfl, rfl, rfl⟩, fun g mem => ?pins,
    fun page mem => (mem_keepStore_freePool page).mp mem, fun k mem => ?closed, fun k mem => ?clip, rfl, rfl, rfl,
    fun old mem pending => ?kept, fun g mem => ?record, fun old mem complete k clip inRange => ?held, rfl,
    fun c => vecMap_get _ _ _, keepStore_freePool_ascending, fun page init retired free =>
      (mem_keepStore_freePool page).mpr ⟨init, retired, free⟩,
    fun page mem => (mem_keepStore_retired page).mpr (.inl mem),
    fun old mem freed page listed bad => keepStore_freed_retired mem freed listed bad, rfl⟩
  case writers => exact Vector.getElem_replicate c.isLt
  case pins =>
    obtain ⟨old, -, complete, pinned, rfl⟩ := (mem_keepStore_segments g).mp mem
    exact ⟨complete, pinned, rfl⟩
  case closed =>
    obtain ⟨old, -, pending, rfl⟩ := (mem_keepClips k).mp mem
    obtain ⟨-, closed, discard⟩ := keptClip_keeps (s := s) old
    exact ⟨closed, keptClip_send old, discard.trans pending⟩
  case clip =>
    obtain ⟨old, listed, -, rfl⟩ := (mem_keepClips k).mp mem
    obtain ⟨⟨-, sameId, -, inPoint, -⟩, -, -⟩ := keptClip_keeps (s := s) old
    refine ⟨old, listed, sameId.symm, inPoint.symm, ?_⟩
    split
    · next closed => exact keptClip_closed closed
    · next other =>
      obtain ⟨range, gaps, outPoint, truncated, inPending, outPending, outSegment, digest⟩ := keptClip_trimmed (s := s) other
      obtain ⟨removed, cut, cutGaps, filling⟩ := trimmed_range (s := s) old
      obtain ⟨out, placed, none, last⟩ := trimmed_out (s := s) old
      rw [range, gaps, outPoint]
      refine ⟨truncated, inPending, outPending, outSegment, digest, removed, out, cut, placed, trimmed_complete old,
        filling, none, last, ?_⟩
      rw [cutGaps, placed]
      exact gapsAfterClose_eq out removed old.gaps
  case kept =>
    obtain ⟨⟨slot, sameId, channel, inPoint, label, rating, urgent, markers, hold, damaged, clamped⟩, -, -⟩ :=
      keptClip_keeps (s := s) old
    exact ⟨_, (mem_keepClips _).mpr ⟨old, mem, pending, rfl⟩, slot, sameId, channel, inPoint, label, rating, urgent,
      markers, hold, damaged, clamped⟩
  case record =>
    obtain ⟨old, listed, -, -, rfl⟩ := (mem_keepStore_segments g).mp mem
    exact ⟨old, listed, rfl⟩
  case held =>
    exact ⟨_, (mem_keepStore_segments _).mpr ⟨old, mem, complete, recountPins_pos clip inRange, rfl⟩, rfl⟩

end Sys2Proof.Machine

namespace Sys2Proof.Machine

/-! ## Lines of a segment (R80, R81) -/

section lines

variable {s : State} {pages : List Nat} {x : Nat}

/-- A line lies in one page: its 64 bytes are neighbours. -/
theorem segAddress_add (h : x % 64 = 0) {j : Nat} (hj : j < 64) : segAddress pages (x + j) = segAddress pages x + j := by
  have page : (x + j) / 65536 = x / 65536 := by omega
  unfold segAddress pageSize
  rw [page]
  omega

theorem segAddress_mod (h : x % 64 = 0) : segAddress pages x % 64 = 0 := by
  unfold segAddress pageSize
  omega

/-- The line of a byte is the line of the first byte of its 64. -/
theorem segAddress_line (i : Nat) : segAddress pages i / 64 = segAddress pages (i - i % 64) / 64 := by
  have aligned : (i - i % 64) % 64 = 0 := by omega
  have e := segAddress_add (pages := pages) aligned (j := i % 64) (by omega)
  have m := segAddress_mod (pages := pages) aligned
  rw [show i - i % 64 + i % 64 = i by omega] at e
  omega

/-- The bytes that a line holds. -/
def storedLine (dram : Mem) (line : Nat) : List Byte := (List.range 64).map fun i => memRead dram (line * 64 + i)

/-- The bytes that a range of a segment holds. -/
def segmentBytes (dram : Mem) (pages : List Nat) (x length : Nat) : List Byte :=
  (List.range length).map fun i => memRead dram (segAddress pages (x + i))

theorem storedLine_segAddress (dram : Mem) (h : x % 64 = 0) :
    storedLine dram (segAddress pages x / 64) = segmentBytes dram pages x 64 := by
  refine List.map_congr_left fun i mem => ?_
  have m := segAddress_mod (pages := pages) h
  rw [segAddress_add h (List.mem_range.mp mem)]
  congr 1
  omega

theorem segmentBytes_append (dram : Mem) (m n : Nat) :
    segmentBytes dram pages x m ++ segmentBytes dram pages (x + m) n = segmentBytes dram pages x (m + n) := by
  unfold segmentBytes
  rw [List.range_add, List.map_append, List.map_map]
  refine congrArg (_ ++ ·) (List.map_congr_left fun i _ => ?_)
  rw [Function.comp_apply, Nat.add_assoc]

/-- A part of a range, from a place in it on. -/
theorem segmentBytes_part (dram : Mem) {skip length whole : Nat} (h : skip + length ≤ whole) :
    ((segmentBytes dram pages x whole).drop skip).take length = segmentBytes dram pages (x + skip) length := by
  have size : min length (whole - skip) = length := by omega
  refine List.ext_getElem ?_ fun i _ _ => ?_
  · simp only [segmentBytes, List.length_take, List.length_drop, List.length_map, List.length_range, size]
  · simp only [segmentBytes, List.getElem_take, List.getElem_drop, List.getElem_map, List.getElem_range, Nat.add_assoc]

/-! ### What reading a line finds (R80) -/

/-- Two bits or more of the line are in error. -/
def lineLost (errors : List (Nat × List Nat)) (line : Nat) : Bool := decide (2 ≤ (errorBits errors line).length)

theorem lineOutcome_eq (errors : List (Nat × List Nat)) (line : Nat) : lineOutcome errors line =
    if lineLost errors line then .uncorrectable else if errorBits errors line = [] then .clean else .corrected := by
  unfold lineOutcome lineLost
  rcases errorBits errors line with _ | ⟨a, _ | ⟨b, rest⟩⟩ <;> simp

theorem errorBits_clearLine (errors : List (Nat × List Nat)) (cleared line : Nat) :
    errorBits (clearLine errors cleared) line = if line = cleared then [] else errorBits errors line := by
  have e := errorBits_filter (fun l => l == cleared) errors line
  simp only [beq_iff_eq] at e
  exact e

/-- A line that can be read gives its bytes. -/
theorem readLine_bytes {line : Nat} (readable : lineLost s.store.lineErrors line = false) :
    (readLine line s).2.1 = storedLine s.store.dram line := by
  unfold readLine
  split
  · rfl
  · rfl
  · next lost =>
    rw [lineOutcome_eq, readable, if_neg (by simp)] at lost
    split at lost <;> cases lost

theorem readLine_outcome (line : Nat) (s : State) : (readLine line s).1 = lineOutcome s.store.lineErrors line := by
  unfold readLine
  split <;> simp_all

/-- Reading a line corrects at most a line with one bit in error: the same lines are lost after it. -/
theorem lineLost_readLine (line other : Nat) (s : State) :
    lineLost (readLine line s).2.2.store.lineErrors other = lineLost s.store.lineErrors other := by
  unfold readLine
  split
  · rfl
  · next corrected =>
    show lineLost (clearLine s.store.lineErrors line) other = _
    unfold lineLost
    rw [errorBits_clearLine]
    split
    · next e =>
      subst e
      rw [lineOutcome_eq] at corrected
      cases lost : lineLost s.store.lineErrors other with
      | true => simp [lost] at corrected
      | false => exact lost.symm
    · rfl
  · rfl

/-- A line with no error is read as it is, and nothing changes. -/
theorem readLine_clean {line : Nat} (clean : errorBits s.store.lineErrors line = []) :
    readLine line s = (.clean, storedLine s.store.dram line, s) := by
  have outcome : lineOutcome s.store.lineErrors line = .clean := by
    rw [lineOutcome_eq, clean]
    simp [lineLost, clean]
  unfold readLine
  rw [outcome]
  rfl

/-! ### What reading a range finds (R81) -/

/-- With no error in the store, the lines read give their bytes, and nothing changes. -/
theorem readLines_clean (clean : s.store.lineErrors = []) (n : Nat) (h : x % 64 = 0) :
    readLines pages n x s = (⟨.clean, segmentBytes s.store.dram pages x (64 * n), [], 0⟩, s) := by
  induction n generalizing x with
  | zero => rfl
  | succ n ih =>
    have line := readLine_clean (s := s) (line := segAddress pages x / 64) (by rw [clean]; rfl)
    have rest := ih (x := x + 64) (by omega)
    unfold readLines lineSize
    rw [line]
    simp only [rest]
    rw [storedLine_segAddress _ h, segmentBytes_append, show 64 + 64 * n = 64 * (n + 1) by omega]

theorem readSegment_clean (clean : s.store.lineErrors = []) (x length : Nat) :
    readSegment pages x length s = (⟨.clean, segmentBytes s.store.dram pages x length, [], 0⟩, s) := by
  unfold readSegment lineSize
  simp only
  rw [readLines_clean clean _ (by omega)]
  simp only
  rw [segmentBytes_part _ (by omega), show x - x % 64 + x % 64 = x by omega]

/-- The offsets of the lines that are lost, of so many lines from an offset on. -/
def lostOffsets (errors : List (Nat × List Nat)) (pages : List Nat) (n x : Nat) : List Nat :=
  ((List.range n).map fun k => x + 64 * k).filter fun y => lineLost errors (segAddress pages y / 64)

theorem lostOffsets_succ (errors : List (Nat × List Nat)) (n x : Nat) : lostOffsets errors pages (n + 1) x =
    (if lineLost errors (segAddress pages x / 64) then [x] else []) ++ lostOffsets errors pages n (x + 64) := by
  unfold lostOffsets
  rw [List.range_succ_eq_map, List.map_cons, List.map_map, List.filter_cons]
  have shift : ((fun k => x + 64 * k) ∘ Nat.succ) = fun k => x + 64 + 64 * k := by
    funext k
    simp only [Function.comp_apply]
    omega
  rw [shift]
  simp only [Nat.mul_zero, Nat.add_zero]
  split <;> rfl

/-- A read of lines finds the lines that are lost, and is uncorrectable when there is one (R81). -/
theorem readLines_lost (n : Nat) (x : Nat) (s : State) :
    (readLines pages n x s).1.badLines = lostOffsets s.store.lineErrors pages n x
      ∧ ((readLines pages n x s).1.outcome = .uncorrectable ↔ (readLines pages n x s).1.badLines ≠ []) := by
  induction n generalizing x s with
  | zero => exact ⟨rfl, by simp [readLines]⟩
  | succ n ih =>
    obtain ⟨bad, outcome⟩ := ih (x + 64) (readLine (segAddress pages x / 64) s).2.2
    have same : lostOffsets (readLine (segAddress pages x / 64) s).2.2.store.lineErrors pages n (x + 64) =
        lostOffsets s.store.lineErrors pages n (x + 64) :=
      List.filter_congr fun y _ => lineLost_readLine _ _ s
    rw [same] at bad
    have found := readLine_outcome (segAddress pages x / 64) s
    rw [lineOutcome_eq] at found
    rw [lostOffsets_succ]
    unfold readLines lineSize
    generalize readLine (segAddress pages x / 64) s = line at *
    obtain ⟨o, bytes, t⟩ := line
    dsimp only at found bad outcome ⊢
    cases lost : lineLost s.store.lineErrors (segAddress pages x / 64) with
    | true =>
      rw [lost, if_pos rfl] at found
      subst found
      exact ⟨by simp [bad], by simp⟩
    | false =>
      rw [lost, if_neg (by simp)] at found
      rw [← bad]
      split at found <;> subst found
      · exact ⟨rfl, outcome⟩
      · refine ⟨rfl, ?_⟩
        dsimp only
        rw [← outcome]
        split <;> simp_all

theorem readSegment_lost (x length : Nat) (s : State) :
    (readSegment pages x length s).1.badLines =
        lostOffsets s.store.lineErrors pages ((x % 64 + length + 63) / 64) (x - x % 64)
      ∧ ((readSegment pages x length s).1.outcome = .uncorrectable ↔ (readSegment pages x length s).1.badLines ≠ []) :=
  readLines_lost _ _ s

/-- A lost line within the lines read is found. -/
theorem mem_lostOffsets {errors : List (Nat × List Nat)} {length i : Nat} (low : x - x % 64 ≤ i) (high : i < x + length)
    (lost : 2 ≤ (errorBits errors (segAddress pages i / 64)).length) :
    i - i % 64 ∈ lostOffsets errors pages ((x % 64 + length + 63) / 64) (x - x % 64) := by
  refine List.mem_filter.mpr ⟨List.mem_map.mpr ⟨(i - i % 64 - (x - x % 64)) / 64, List.mem_range.mpr ?_, ?_⟩, ?_⟩
  · omega
  · omega
  · rw [← segAddress_line]
    exact decide_eq_true lost

/-- The lost lines come in ascending order. -/
theorem lostOffsets_ascending (errors : List (Nat × List Nat)) (n x : Nat) :
    (lostOffsets errors pages n x).Pairwise (· < ·) := by
  refine List.Pairwise.filter _ (List.pairwise_map.mpr (List.Pairwise.imp ?_ List.pairwise_lt_range))
  intro a b h
  omega

end lines

end Sys2Proof.Machine

namespace Sys2Proof.Machine

/-! ## Damage (R82, R118) -/

section damage

variable {s : State} {id other first last : Nat} {cause : DamageCause} {g : Segment}

/-- The damaged pictures of a segment once pictures `first` to `last` are marked (R82). -/
def widenDamage (before : Option Damage) (first last : Nat) (cause : DamageCause) : Damage :=
  match before with
  | none => ⟨first, last, cause⟩
  | some d => ⟨min d.first first, max d.last last, d.cause⟩

theorem damageClips_segment? (u : State) : (damageClips id u).segment? other = u.segment? other := by
  have raised : ∀ (l : List Clip) (v : State), (l.foldl (fun v c => raise (.clipDamaged c.id id) v) v).store = v.store :=
    fun l v => foldl_keeps (fun v : State => v.store) (fun _ _ => raise_store _ _) l v
  refine segment?_congr ?_
  unfold damageClips
  simp only [raised]
  rfl

/-- A held segment that is marked: its damaged pictures grow, and nothing else of it changes. -/
theorem segment?_markDamaged (held : s.segment? id = some g) : (markDamaged id first last cause s).segment? id =
    some { g with damage := some (widenDamage g.damage first last cause) } := by
  have mod : ∀ d, (s.modSegment id fun g => { g with damage := d }).segment? id = some { g with damage := d } :=
    fun d => segment?_modSegment_same (by intro _; rfl) held
  unfold markDamaged
  rw [held]
  simp only
  split
  · next d before =>
    rw [before, segment?_modSegment_same (by intro _; rfl) held]
    rfl
  · next before =>
    rw [before, segment?_congr (congrArg Store.segments (raise_store _ _)), damageClips_segment?]
    exact mod _

theorem segment?_markDamaged_other (ne : other ≠ id) :
    (markDamaged id first last cause s).segment? other = s.segment? other := by
  unfold markDamaged
  split
  · rfl
  · split
    · exact segment?_modSegment_other (by intro _; rfl) ne
    · rw [segment?_congr (congrArg Store.segments (raise_store _ _)), damageClips_segment?]
      exact segment?_modSegment_other (by intro _; rfl) ne

/-- A marking that is not the first changes no clip and raises no notice (R82). -/
theorem markDamaged_again {d : Damage} (held : s.segment? id = some g) (before : g.damage = some d) :
    (markDamaged id first last cause s).clipLog = s.clipLog ∧ (markDamaged id first last cause s).control = s.control := by
  unfold markDamaged
  rw [held]
  simp only [before]
  exact ⟨rfl, rfl⟩

/-- A clip whose range includes a damaged segment is DAMAGED (R118). -/
def markedClip (id : Nat) (k : Clip) : Clip := if id ∈ k.range then { k with damaged := true } else k

/-- What a first marking changes: the segment, the clips whose range includes it, and the notices, those of the clips that
were not DAMAGED in slot order before the segment's (R82, R118, notes/assumptions/14.md). -/
theorem markDamaged_first (held : s.segment? id = some g) (before : g.damage = none) :
    markDamaged id first last cause s = { s with
      store := (s.modSegment id fun g => { g with damage := some ⟨first, last, cause⟩ }).store
      clipLog := { s.clipLog with clips := s.clipLog.clips.map (markedClip id) }
      control := queueNotice ⟨.segmentDamaged id g.channel cause (pictureTimecode g first) (pictureTimecode g last) g.pinCount,
          s.timing.timecode⟩
        ((s.clipLog.clips.filter fun k => k.range.contains id && !k.damaged).foldl (fun control k =>
          queueNotice ⟨.clipDamaged k.id id, s.timing.timecode⟩ control) s.control) } := by
  have raised : ∀ (l : List Clip) (v : State), l.foldl (fun v c => raise (.clipDamaged c.id id) v) v = { v with
      control := l.foldl (fun control k => queueNotice ⟨.clipDamaged k.id id, v.timing.timecode⟩ control) v.control } := by
    intro l
    induction l with
    | nil => exact fun _ => rfl
    | cons c rest ih =>
      intro v
      rw [List.foldl_cons, ih, raise_of_not_protocol _ rfl]
      rfl
  have marks : (fun c : Clip => if c.range.contains id then { c with damaged := true } else c) = markedClip id := by
    funext c
    simp only [markedClip, List.contains_iff_mem]
  unfold markDamaged damageClips
  rw [held]
  simp only [before]
  rw [raised, raise_of_not_protocol _ rfl, marks]
  rfl

theorem clip?_markDamaged_first (held : s.segment? id = some g) (before : g.damage = none) (i : Nat) :
    (markDamaged id first last cause s).clip? i = (s.clip? i).map (markedClip id) := by
  rw [markDamaged_first held before]
  show (s.clipLog.clips.map (markedClip id)).find? _ = _
  rw [List.find?_map]
  congr 2
  funext k
  simp only [Function.comp_apply, markedClip]
  split <;> rfl

/-- A page that joins the bad-page list. -/
theorem segment?_addBadPage (held : s.segment? id = some g) (page : Nat) : ∃ bad, page ∈ bad ∧ g.badPages ⊆ bad
    ∧ (addBadPage id page s).segment? id = some { g with badPages := bad } := by
  refine ⟨_, ?_, ?_, segment?_modSegment_same (by intro _; rfl) held⟩
  · split
    · next listed => exact List.contains_iff_mem.mp listed
    · simp
  · split
    · exact List.Subset.refl _
    · exact List.subset_append_left _ _

/-- The page of each offset joins the bad-page list. -/
theorem segment?_addBadPages (pageOf : Nat → Nat) (offsets : List Nat) (held : s.segment? id = some g) :
    ∃ bad, (∀ offset ∈ offsets, pageOf offset ∈ bad) ∧ g.badPages ⊆ bad
      ∧ (offsets.foldl (fun s offset => addBadPage id (pageOf offset) s) s).segment? id = some { g with badPages := bad } := by
  induction offsets generalizing s g with
  | nil => exact ⟨g.badPages, by simp, List.Subset.refl _, held⟩
  | cons offset rest ih =>
    obtain ⟨bad, mem, grows, added⟩ := segment?_addBadPage held (pageOf offset)
    obtain ⟨bad', mems, grows', all⟩ := ih added
    exact ⟨bad', List.forall_mem_cons.mpr ⟨grows' mem, mems⟩, fun _ h => grows' (grows h), all⟩

/-- The picture in which a byte lies: the last one that begins at or before it (R82). -/
theorem pictureAtOffset_eq {n offset : Nat} (upTo : ∀ j ≤ n, ∃ start, g.index[j]? = some start ∧ start ≤ offset)
    (beyond : ∀ start, g.index[n + 1]? = some start → offset < start) : pictureAtOffset g offset = n := by
  have length : (g.index.takeWhile fun entry => decide (entry ≤ offset)).length = n + 1 := by
    have longEnough : n + 1 ≤ g.index.length := by
      obtain ⟨start, entry, -⟩ := upTo n le_rfl
      exact (List.getElem?_eq_some_iff.mp entry).1
    have front : g.index.take (n + 1) = (g.index.take (n + 1)).takeWhile fun entry => decide (entry ≤ offset) := by
      refine (List.takeWhile_eq_self_iff.mpr fun entry mem => ?_).symm
      obtain ⟨j, hj, rfl⟩ := List.mem_take_iff_getElem.mp mem
      obtain ⟨start, entry, le⟩ := upTo j (by omega)
      rw [List.getElem?_eq_getElem (by omega), Option.some.injEq] at entry
      simpa [entry] using le
    have rest : (g.index.drop (n + 1)).takeWhile (fun entry => decide (entry ≤ offset)) = [] := by
      cases tail : g.index.drop (n + 1) with
      | nil => rfl
      | cons start _ =>
        have entry : g.index[n + 1]? = some start := by
          rw [← List.head?_drop, tail]
          rfl
        rw [List.takeWhile_cons_of_neg (by simpa using beyond start entry)]
    rw [← List.take_append_drop (n + 1) g.index, List.takeWhile_append_of_pos
      (List.takeWhile_eq_self_iff.mp front.symm), rest, List.append_nil, List.length_take]
    omega
  rw [pictureAtOffset, length]
  rfl

theorem pictureAtOffset_mono {a b : Nat} (h : a ≤ b) : pictureAtOffset g a ≤ pictureAtOffset g b := by
  have shorter : ∀ l : List Nat, (l.takeWhile fun entry => decide (entry ≤ a)).length
      ≤ (l.takeWhile fun entry => decide (entry ≤ b)).length := by
    intro l
    induction l with
    | nil => exact le_rfl
    | cons entry rest ih =>
      by_cases ha : entry ≤ a
      · simpa [List.takeWhile_cons, ha, ha.trans h] using ih
      · simp [List.takeWhile_cons, ha]
  exact Nat.sub_le_sub_right (shorter _) 1

/-- The bad lines of a read at a held segment: their pages are bad, and the pictures in which they lie are damaged (R81, R82,
notes/assumptions/38.md). -/
theorem segment?_markBadLines {offsets : List Nat} (held : s.segment? g.id = some g) (ascending : offsets.Pairwise (· < ·))
    {offset : Nat} (mem : offset ∈ offsets) : ∃ h d, (markBadLines g cause offsets s).segment? g.id = some h
      ∧ h.damage = some d ∧ h.digest = g.digest
      ∧ (∀ offset ∈ offsets, g.pages[offset / 65536]?.getD 0 ∈ h.badPages)
      ∧ d.first ≤ pictureAtOffset g offset ∧ pictureAtOffset g offset ≤ d.last := by
  cases offsets with
  | nil => cases mem
  | cons low rest =>
    obtain ⟨bad, mems, -, added⟩ := segment?_addBadPages (fun offset => g.pages[offset / pageSize]?.getD 0) (low :: rest) held
    refine ⟨_, _, segment?_markDamaged added, rfl, rfl, mems, ?_, ?_⟩
    all_goals obtain ⟨later, ordered⟩ := List.pairwise_cons.mp ascending
    · have le : pictureAtOffset g low ≤ pictureAtOffset g offset := by
        rcases List.mem_cons.mp mem with rfl | mem
        · exact le_rfl
        · exact pictureAtOffset_mono (later _ mem).le
      show (widenDamage g.damage _ _ _).first ≤ _
      unfold widenDamage
      split
      · exact le
      · exact (Nat.min_le_right _ _).trans le
    · have le : pictureAtOffset g offset ≤ pictureAtOffset g (rest.getLast?.getD low) := by
        refine pictureAtOffset_mono ?_
        rcases List.mem_cons.mp mem with rfl | mem
        · cases last : rest.getLast? with
          | none => exact le_rfl
          | some high => exact (later _ (List.mem_of_getLast? last)).le
        · have nonempty : rest ≠ [] := List.ne_nil_of_mem mem
          rw [List.getLast?_eq_some_getLast nonempty, Option.getD_some]
          exact ordered.imp (fun h => h.le) |>.rel_getLast mem
      show _ ≤ (widenDamage g.damage _ _ _).last
      unfold widenDamage
      split
      · exact le
      · exact le.trans (Nat.le_max_right _ _)

end damage

/-! ## The end of a demand read (R81, R155, R184) -/

section reads

variable {s t u : State} {r : DemandRead} {read : RangeRead} {id : Nat} {g : Segment}

/-- The second state is the first but for what the end of a demand read can reach: segment records, the errors of lines and
their counts, the clip table, the frame that the read feeds, notices and free values. -/
def ReadSide (s t : State) : Prop :=
  t = { s with
    store := { s.store with
      segments := t.store.segments
      lineErrors := t.store.lineErrors
      uncorrectable := t.store.uncorrectable
      demandCorrected := t.store.demandCorrected }
    clipLog := t.clipLog
    paths := t.paths
    control := t.control
    freeReads := t.freeReads }

theorem ReadSide.trans (h : ReadSide s t) (h' : ReadSide t u) : ReadSide s u := Eq.trans (id h') (by rw [id h])

theorem ReadSide.of_damage (h : DamageOnly s t) : ReadSide s t := Eq.trans (id h) (by rw [id h])

theorem demandRead_readSide (segment : Option Nat) (pages : List Nat) (x length : Nat) (s : State) :
    ReadSide s (demandRead segment pages x length s).2 := by
  refine .trans ?_ (.of_damage (demandRead_only segment pages x length s))
  exact Eq.trans (demandRead_freed pages x length s) (by rw [demandRead_freed pages x length s])

/-- A read is as it was found by its lines, whatever becomes of its segment. -/
theorem demandRead_fst (segment : Option Nat) (pages : List Nat) (x length : Nat) (s : State) :
    (demandRead segment pages x length s).1 = (readSegment pages x length s).1 := by
  unfold demandRead
  simp only
  split <;> rfl

/-- The frame that the read feeds gets its bytes (R155). -/
def fed (r : DemandRead) (read : RangeRead) (s : State) : State :=
  match r.path with
  | some p => s.modPath p (fillFrame r.start read.bytes (read.outcome == .uncorrectable))
  | none => s

theorem fed_only (r : DemandRead) (read : RangeRead) (s : State) : fed r read s = { s with paths := (fed r read s).paths } := by
  unfold fed
  split <;> rfl

/-- The state in which a read that ends reads its lines: it has left the list of reads. -/
def withoutRead (r : DemandRead) (s : State) : State := s.modSched fun sc => { sc with reads := sc.reads.erase r }

/-- What the lines of a read that ends give. -/
def foundBy (r : DemandRead) (s : State) : RangeRead :=
  (demandRead r.segment r.pages r.offset r.length (withoutRead r s)).1

/-- The state once the lines of a read that ends have been read, and its segment marked. -/
def readState (r : DemandRead) (s : State) : State :=
  (demandRead r.segment r.pages r.offset r.length (withoutRead r s)).2

/-- A read that ends leaves the list, feeds its frame, and its clip goes on when it still sends (R184). -/
theorem endRead_eq (r : DemandRead) (s : State) : endRead r s =
    if r.use = .cursor then readOutcomeAt r (foundBy r s) (fed r (foundBy r s) (readState r s))
    else fed r (foundBy r s) (readState r s) := rfl

/-! ### What it reaches -/

theorem finishSegment_readSide (id : Nat) (g : Segment) (sum : Digest) (s : State) :
    ReadSide s (finishSegment id g sum s) ∧ (finishSegment id g sum s).paths = s.paths := by
  unfold finishSegment
  simp only
  split
  · exact ⟨rfl, rfl⟩
  · have marked := markDamaged_only g.id 0 (g.pictures - 1) .digest s
    exact ⟨.trans (.of_damage marked) rfl, by rw [DamageOnly] at marked; rw [marked]; rfl⟩

theorem readOutcomeAt_readSide (r : DemandRead) (read : RangeRead) (s : State) :
    ReadSide s (readOutcomeAt r read s) ∧ (readOutcomeAt r read s).paths = s.paths := by
  unfold readOutcomeAt
  simp only
  repeat' split
  all_goals first
    | exact ⟨rfl, rfl⟩
    | exact finishSegment_readSide _ _ _ s

/-- All that the end of a demand read can change, but for the list of reads. -/
theorem endRead_readSide (r : DemandRead) (s : State) : ReadSide (withoutRead r s) (endRead r s) := by
  have feeds : ReadSide (readState r s) (fed r (foundBy r s) (readState r s)) :=
    Eq.trans (fed_only _ _ _) (by rw [fed_only])
  have start := (demandRead_readSide r.segment r.pages r.offset r.length (withoutRead r s)).trans feeds
  rw [endRead_eq]
  split
  · exact start.trans (readOutcomeAt_readSide _ _ _).1
  · exact start

/-- The end of a read changes the frame that it feeds, and no path else. -/
theorem endRead_paths (r : DemandRead) (s : State) : (endRead r s).paths = match r.path with
    | some p => vecModify s.paths p (fillFrame r.start (foundBy r s).bytes ((foundBy r s).outcome == .uncorrectable))
    | none => s.paths := by
  have same : (readState r s).paths = s.paths := by
    have only := demandRead_only r.segment r.pages r.offset r.length (withoutRead r s)
    rw [readState, id only, demandRead_freed]
    rfl
  have feeds : (fed r (foundBy r s) (readState r s)).paths = match r.path with
      | some p => vecModify s.paths p (fillFrame r.start (foundBy r s).bytes ((foundBy r s).outcome == .uncorrectable))
      | none => s.paths := by
    rw [← same]
    unfold fed
    split <;> rfl
  rw [endRead_eq]
  split
  · exact (readOutcomeAt_readSide _ _ _).2.trans feeds
  · exact feeds

/-! ### With no error in the store -/

theorem foundBy_clean (clean : s.store.lineErrors = []) :
    foundBy r s = ⟨.clean, segmentBytes s.store.dram r.pages r.offset r.length, [], 0⟩ := by
  rw [foundBy, demandRead_fst, readSegment_clean (s := withoutRead r s) clean]
  rfl

/-- With no error in the store a read changes nothing. -/
theorem readState_clean (clean : s.store.lineErrors = []) : readState r s = withoutRead r s := by
  have read := readSegment_clean (s := withoutRead r s) (pages := r.pages) clean r.offset r.length
  unfold readState demandRead
  rw [read]
  simp only [BitVec.add_zero]
  split <;> rfl

/-- The frame that a read feeds carries the bytes read behind the first eight of its payload (R155). -/
theorem mem_retry_fillFrame {path : Path} {start : Pointer} {bytes : List Byte} {poisoned : Bool} {e : RetryEntry}
    (mem : e ∈ path.retry) (fills : e.start = start) :
    { e with
      contents := { e.contents with payload := e.contents.payload.take 8 ++ bytes }
      poisoned := e.poisoned || poisoned } ∈ (fillFrame start bytes poisoned path).retry :=
  List.mem_map.mpr ⟨e, mem, by rw [if_pos fills]⟩

theorem endRead_fills {p : Fin 4} (feeds : r.path = some p) : (endRead r s).paths[p] =
    fillFrame r.start (foundBy r s).bytes ((foundBy r s).outcome == .uncorrectable) s.paths[p] := by
  rw [endRead_paths, feeds]
  exact vecModify_same _ _ _

/-! ### A lost line (R81, R82, R155) -/

/-- A lost line within the lines read is among the bad lines, and the read is uncorrectable. -/
theorem foundBy_lost {i : Nat} (low : r.offset - r.offset % 64 ≤ i) (high : i < r.offset + r.length)
    (lost : 2 ≤ (errorBits s.store.lineErrors (segAddress r.pages i / 64)).length) :
    i - i % 64 ∈ (foundBy r s).badLines ∧ (foundBy r s).outcome = .uncorrectable := by
  obtain ⟨bad, outcome⟩ := readSegment_lost (pages := r.pages) r.offset r.length (withoutRead r s)
  have mem := mem_lostOffsets (pages := r.pages) (errors := s.store.lineErrors) low high lost
  rw [foundBy, demandRead_fst]
  have listed : i - i % 64 ∈ (readSegment r.pages r.offset r.length (withoutRead r s)).1.badLines := by
    rw [bad]
    exact mem
  exact ⟨listed, outcome.mpr (List.ne_nil_of_mem listed)⟩

theorem foundBy_ascending (r : DemandRead) (s : State) : (foundBy r s).badLines.Pairwise (· < ·) := by
  rw [foundBy, demandRead_fst, (readSegment_lost _ _ _).1]
  exact lostOffsets_ascending _ _ _

/-- A clip that goes on after an uncorrectable read leaves the store as it is. -/
theorem readOutcomeAt_store_of_uncorrectable (lost : read.outcome = .uncorrectable) :
    (readOutcomeAt r read s).store = s.store := by
  unfold readOutcomeAt
  repeat' split
  all_goals rfl

theorem fed_store (r : DemandRead) (read : RangeRead) (s : State) : (fed r read s).store = s.store := by
  rw [fed_only]

/-- After an uncorrectable read the records of the segments are as its bad lines leave them. -/
theorem endRead_segment?_of_uncorrectable (lost : (foundBy r s).outcome = .uncorrectable) :
    (endRead r s).segment? id = (readState r s).segment? id := by
  refine segment?_congr (congrArg Store.segments ?_)
  rw [endRead_eq]
  split
  · rw [readOutcomeAt_store_of_uncorrectable lost, fed_store]
  · exact fed_store _ _ _

/-- The bad lines of a read at its segment, which is still held. -/
theorem readState_held (names : r.segment = some id) (held : s.segment? id = some g) : ∃ v : State,
    v.segment? g.id = some g ∧ readState r s = markBadLines g .demand (foundBy r s).badLines v := by
  have counted := demandRead_freed r.pages r.offset r.length (withoutRead r s)
  have still : (demandRead none r.pages r.offset r.length (withoutRead r s)).2.segment? id = some g := by
    rw [counted]
    exact held
  refine ⟨_, (id_of_segment? held).symm ▸ still, ?_⟩
  rw [readState, foundBy, demandRead_fst, demandRead_eq, names]
  simp only [Option.bind_some, still, demandRead_fst]

/-! ### A read of a segment that was freed (notes/assumptions/33.md) -/

theorem endRead_freed (freed : r.segment = none) : (endRead r s).store.segments = s.store.segments
    ∧ (endRead r s).clipLog = s.clipLog ∧ (endRead r s).control = s.control := by
  have cursor : ∀ read v, readOutcomeAt r read v = v := by
    intro read v
    unfold readOutcomeAt
    rw [freed]
    repeat' split
    all_goals simp_all
  have unmarked : endRead r s = fed r (foundBy r s) (readState r s) := by
    rw [endRead_eq, cursor, ite_self]
  have counted := demandRead_freed r.pages r.offset r.length (withoutRead r s)
  rw [unmarked, fed_only, readState, freed, counted]
  exact ⟨rfl, rfl, rfl⟩

/-! ### A segment read to its end (R85, R184) -/

section toTheEnd

variable {c : Clip} {k : Cursor}

theorem clip?_modCursor {f : Cursor → Cursor} {u : State} {clip : Nat} (held : u.clip? clip = some c)
    (cursor : c.cursor = some k) : ∃ c', (u.modCursor clip f).clip? clip = some c' ∧ c'.cursor = some (f k) :=
  ⟨_, clip?_modClip_same (by intro _; rfl) held, by rw [cursor]; rfl⟩

/-- Marking a segment damaged keeps every clip's cursor. -/
theorem clip?_markDamaged {i first last : Nat} {cause : DamageCause} (held : s.clip? i = some c) :
    ∃ c', (markDamaged id first last cause s).clip? i = some c' ∧ c'.cursor = c.cursor := by
  cases segment : s.segment? id with
  | none =>
    refine ⟨c, ?_, rfl⟩
    unfold markDamaged
    rw [segment]
    exact held
  | some g =>
    cases before : g.damage with
    | some d =>
      rw [clip?_congr (congrArg ClipLog.clips (markDamaged_again segment before).1)]
      exact ⟨c, held, rfl⟩
    | none =>
      rw [clip?_markDamaged_first segment before, held]
      refine ⟨_, rfl, ?_⟩
      unfold markedClip
      split <;> rfl

/-- A segment read to its end with no error in the store: its sum is compared with its digest (R85). -/
theorem endRead_toTheEnd {clip : Nat} (names : r.clip = clip) (sends : r.use = .cursor) (clean : s.store.lineErrors = [])
    (segment : r.segment = some id) (held : s.segment? id = some g) (atEnd : r.offset + r.length = g.byteLength)
    (clipHeld : s.clip? clip = some c) (cursor : c.cursor = some k) : endRead r s =
      finishSegment clip g (onesAddBytes k.segmentSum r.offset (segmentBytes s.store.dram r.pages r.offset r.length))
        (fed r (foundBy r s) (withoutRead r s)) := by
  have clipHere : (fed r (foundBy r s) (withoutRead r s)).clip? r.clip = some c := by
    rw [fed_only, names]
    exact clipHeld
  have segmentHere : r.segment.bind (fed r (foundBy r s) (withoutRead r s)).segment? = some g := by
    rw [fed_only, segment]
    exact held
  rw [endRead_eq, if_pos sends, readState_clean clean]
  unfold readOutcomeAt
  rw [clipHere]
  simp only [cursor, segmentHere, atEnd, if_true]
  rw [if_neg (by rw [foundBy_clean clean]; simp), foundBy_clean clean, names]

/-- The end of a segment whose sum is its digest: it joins the sent list as UNDAMAGED (R184). -/
theorem finishSegment_same {clip : Nat} {u : State} (held : u.segment? g.id = some g) (whole : g.damage = none)
    (clipHeld : u.clip? clip = some c) (cursor : c.cursor = some k) :
    (finishSegment clip g g.digest u).segment? g.id = some g
      ∧ ∃ c', (finishSegment clip g g.digest u).clip? clip = some c' ∧ c'.cursor = some { k with
          position := .boundary (some g.id) false, sent := k.sent ++ [(g.id, true)], segmentSum := 0 } := by
  unfold finishSegment
  simp only [if_true, held, Option.any_some, whole]
  refine ⟨held, ?_⟩
  exact clip?_modCursor clipHeld cursor

/-- The end of a segment whose sum differs: it is damaged in every picture, and a DAMAGED item follows (R85, R184). -/
theorem finishSegment_differs {clip : Nat} {u : State} {sum : Digest} (differs : sum ≠ g.digest)
    (held : u.segment? g.id = some g) (whole : g.damage = none) (clipHeld : u.clip? clip = some c)
    (cursor : c.cursor = some k) :
    (finishSegment clip g sum u).segment? g.id = some { g with damage := some ⟨0, g.pictures - 1, .digest⟩ }
      ∧ ∃ c', (finishSegment clip g sum u).clip? clip = some c' ∧ c'.cursor = some { k with
          position := .boundary (some g.id) false, sent := k.sent ++ [(g.id, false)]
          items := k.items ++ [.damaged g.id], segmentSum := 0 } := by
  have marked := segment?_markDamaged (first := 0) (last := g.pictures - 1) (cause := .digest) held
  rw [whole] at marked
  obtain ⟨d, clipMarked, sameCursor⟩ := clip?_markDamaged (id := g.id) (first := 0) (last := g.pictures - 1)
    (cause := .digest) clipHeld
  unfold finishSegment
  simp only [if_neg differs, marked, Option.any_some, Option.isSome_some, if_true]
  exact ⟨marked, clip?_modCursor clipMarked (sameCursor.trans cursor)⟩

end toTheEnd

end reads

/-- The clause of O32 on a lost line, at the segment of the read (R81, R82). -/
theorem endRead_marks {s : State} {r : DemandRead} {i id : Nat} {g : Segment} (low : r.offset - r.offset % 64 ≤ i)
    (high : i < r.offset + r.length) (lost : 2 ≤ (errorBits s.store.lineErrors (segAddress r.pages i / 64)).length)
    (segment : r.segment = some id) (held : s.segment? id = some g) :
    ∃ h d, (endRead r s).segment? id = some h ∧ h.damage = some d ∧ h.digest = g.digest
      ∧ (∀ page, g.pages[i / 65536]? = some page → page ∈ h.badPages)
      ∧ ∀ n, (∀ j ≤ n, ∃ start, g.index[j]? = some start ∧ start ≤ i - i % 64) →
          (∀ start, g.index[n + 1]? = some start → i - i % 64 < start) → d.first ≤ n ∧ n ≤ d.last := by
  obtain ⟨listed, outcome⟩ := foundBy_lost low high lost
  obtain ⟨v, here, marking⟩ := readState_held segment held
  obtain ⟨h, d, marked, damage, digest, bad, first, last⟩ :=
    segment?_markBadLines (cause := .demand) here (foundBy_ascending r s) listed
  rw [← marking, id_of_segment? held] at marked
  refine ⟨h, d, (endRead_segment?_of_uncorrectable outcome).trans marked, damage, digest, fun page entry => ?_,
    fun n upTo beyond => ?_⟩
  · have same : (i - i % 64) / 65536 = i / 65536 := by omega
    have mem := bad _ listed
    rw [same, entry] at mem
    exact mem
  · rw [pictureAtOffset_eq upTo beyond] at first last
    exact ⟨first, last⟩

/-- What the end of a read leaves as it is. -/
theorem endRead_keeps (r : DemandRead) (s : State) : (endRead r s).now = s.now
    ∧ (endRead r s).sched = { s.sched with reads := s.sched.reads.erase r } ∧ (endRead r s).store.dram = s.store.dram
    ∧ (endRead r s).timing = s.timing ∧ (endRead r s).coders = s.coders ∧ (endRead r s).ports = s.ports
    ∧ (endRead r s).mixer = s.mixer ∧ (endRead r s).alloc = s.alloc := by
  have side := endRead_readSide r s
  rw [ReadSide] at side
  rw [side]
  exact ⟨rfl, rfl, rfl, rfl, rfl, rfl, rfl, rfl⟩

/-- A clip that goes on counts nothing of the store. -/
theorem readOutcomeAt_counters (r : DemandRead) (read : RangeRead) (s : State) :
    (readOutcomeAt r read s).store.uncorrectable = s.store.uncorrectable
      ∧ (readOutcomeAt r read s).store.demandCorrected = s.store.demandCorrected := by
  have finished : ∀ id g sum, (finishSegment id g sum s).store.uncorrectable = s.store.uncorrectable
      ∧ (finishSegment id g sum s).store.demandCorrected = s.store.demandCorrected := by
    intro id g sum
    have marked := markDamaged_only g.id 0 (g.pictures - 1) .digest s
    rw [DamageOnly] at marked
    unfold finishSegment
    simp only
    split
    · exact ⟨rfl, rfl⟩
    · rw [marked]
      exact ⟨rfl, rfl⟩
  unfold readOutcomeAt
  simp only
  repeat' split
  all_goals first
    | exact ⟨rfl, rfl⟩
    | exact finished _ _ _

/-- The clause of O32 on a store without errors (R81, R155). -/
theorem endRead_clean {s : State} {r : DemandRead} (clean : s.store.lineErrors = []) :
    (endRead r s).store.uncorrectable = s.store.uncorrectable
      ∧ (endRead r s).store.demandCorrected = s.store.demandCorrected
      ∧ ∀ p, r.path = some p → ∀ e ∈ s.paths[p].retry, e.start = r.start →
        { e with contents := { e.contents with
          payload := e.contents.payload.take 8 ++ segmentBytes s.store.dram r.pages r.offset r.length } } ∈
            (endRead r s).paths[p].retry := by
  refine ⟨?_, ?_, fun p feeds e mem fills => ?_⟩
  · rw [endRead_eq, readState_clean clean]
    split
    · rw [(readOutcomeAt_counters _ _ _).1, fed_store]
      rfl
    · rw [fed_store]
      rfl
  · rw [endRead_eq, readState_clean clean]
    split
    · rw [(readOutcomeAt_counters _ _ _).2, fed_store]
      rfl
    · rw [fed_store]
      rfl
  · have filled := mem_retry_fillFrame (bytes := (foundBy r s).bytes)
      (poisoned := (foundBy r s).outcome == .uncorrectable) mem fills
    rw [← endRead_fills feeds] at filled
    simp only [foundBy_clean clean, show (ReadOutcome.clean == .uncorrectable) = false from rfl, Bool.or_false] at filled
    exact filled

/-- The clause of O32 on a lost line, at the frame that the read feeds (R155). -/
theorem endRead_poisons {s : State} {r : DemandRead} {p : Fin 4} (lost : (foundBy r s).outcome = .uncorrectable)
    (feeds : r.path = some p) :
    (∀ e ∈ s.paths[p].retry, e.start = r.start → ∃ h ∈ (endRead r s).paths[p].retry,
      h.start = e.start ∧ h.owner = e.owner ∧ h.poisoned = true)
    ∧ ∀ f, s.paths[p].transmitter = some f → f.entry = some r.start →
        ∃ h, (endRead r s).paths[p].transmitter = some h ∧ h.entry = f.entry ∧ h.tail.poisoned = true := by
  rw [endRead_fills feeds, lost]
  refine ⟨fun e mem fills => ⟨_, mem_retry_fillFrame mem fills, rfl, rfl, by simp⟩, fun f sends entry => ?_⟩
  refine ⟨_, (congrArg (Option.map _) sends).trans (Option.map_some ..), ?_⟩
  rw [if_pos entry]
  exact ⟨rfl, by simp⟩

/-- The clause of O32 on a segment read to its end (R85, R184). -/
theorem endRead_compares {s : State} {r : DemandRead} {clip id : Nat} {c : Clip} {k : Cursor} {g : Segment}
    (names : r.clip = clip) (sends : r.use = .cursor) (clean : s.store.lineErrors = []) (segment : r.segment = some id)
    (held : s.segment? id = some g) (whole : g.damage = none) (atEnd : r.offset + r.length = g.byteLength)
    (clipHeld : s.clip? clip = some c) (cursor : c.cursor = some k) :
    let sum := onesAddBytes k.segmentSum r.offset (segmentBytes s.store.dram r.pages r.offset r.length)
    ∃ c', (endRead r s).clip? clip = some c'
      ∧ (sum = g.digest → (endRead r s).segment? id = some g ∧ c'.cursor = some { k with
          position := .boundary (some id) false, sent := k.sent ++ [(id, true)], segmentSum := 0 })
      ∧ (sum ≠ g.digest → (endRead r s).segment? id = some { g with damage := some ⟨0, g.pictures - 1, .digest⟩ }
          ∧ c'.cursor = some { k with
              position := .boundary (some id) false, sent := k.sent ++ [(id, false)]
              items := k.items ++ [.damaged id], segmentSum := 0 }) := by
  intro sum
  have same := id_of_segment? held
  have segmentHere : (fed r (foundBy r s) (withoutRead r s)).segment? g.id = some g := by
    rw [fed_only, same]
    exact held
  have clipHere : (fed r (foundBy r s) (withoutRead r s)).clip? clip = some c := by
    rw [fed_only]
    exact clipHeld
  rw [endRead_toTheEnd names sends clean segment held atEnd clipHeld cursor]
  subst same
  by_cases equal : sum = g.digest
  · obtain ⟨kept, c', clipNow, cursorNow⟩ := finishSegment_same segmentHere whole clipHere cursor
    rw [← equal] at kept clipNow
    exact ⟨c', clipNow, fun _ => ⟨kept, cursorNow⟩, fun differs => absurd equal differs⟩
  · obtain ⟨kept, c', clipNow, cursorNow⟩ := finishSegment_differs equal segmentHere whole clipHere cursor
    exact ⟨c', clipNow, fun same => absurd same equal, fun _ => ⟨kept, cursorNow⟩⟩

/-- Settles O32: the end of a read is seen through what its lines give. -/
theorem aDemandReadFillsItsFrame : Obligations.ADemandReadFillsItsFrame := by
  refine fun s elapsed clip => ⟨fun absent => ?_, fun r found => ?_⟩
  · have missing : s.sched.reads.find? (fun r => r.clip == clip) = none :=
      List.find?_eq_none.mpr fun r mem => by simpa using absent r mem
    simp only [exec, execDemandReadEnd, State.elapse_sched, missing]
    rfl
  · have names : r.clip = clip := by simpa using List.find?_some found
    have run : exec (.demandReadEnd elapsed clip) s = finish (serve (endRead r (s.elapse elapsed))) := by
      simp only [exec, execDemandReadEnd, State.elapse_sched, found]
    obtain ⟨now, sched, dram, timing, coders, ports, mixer, alloc⟩ := endRead_keeps r (s.elapse elapsed)
    exact ⟨run, now, sched, dram, timing, coders, ports, mixer, alloc,
      fun clean => endRead_clean (s := s.elapse elapsed) clean,
      fun i low high lost =>
        ⟨fun p feeds => endRead_poisons (s := s.elapse elapsed) (foundBy_lost (s := s.elapse elapsed) low high lost).2 feeds,
          fun id g segment held => endRead_marks (s := s.elapse elapsed) low high lost segment held⟩,
      fun freed => endRead_freed (s := s.elapse elapsed) freed,
      fun c k id g clipHeld cursor sends clean segment held whole atEnd =>
        endRead_compares (s := s.elapse elapsed) names sends clean segment held whole atEnd clipHeld cursor⟩

end Sys2Proof.Machine

namespace Sys2Proof.Machine

/-! ## Errors of a line (R80) -/

section lineErrors

variable {errors : List (Nat × List Nat)} {line other : Nat} {bits : List Nat}

/-- A line below every line listed has no error. -/
theorem errorBits_below (later : ∀ e ∈ errors, line < e.1) : errorBits errors line = [] := by
  induction errors with
  | nil => rfl
  | cons first rest ih =>
    obtain ⟨l, old⟩ := first
    obtain ⟨here, rest⟩ := List.forall_mem_cons.mp later
    rw [errorBits, if_neg (by simpa using here.ne'), ih rest]

/-- The bits of the line named grow by the new ones. -/
theorem mem_errorBits_addLineErrors (ascending : (errors.map fun e => e.1).Pairwise (· < ·)) (b : Nat) :
    b ∈ errorBits (addLineErrors line bits errors) line ↔ b ∈ errorBits errors line ∨ b ∈ bits := by
  induction errors with
  | nil => simp [addLineErrors, errorBits]
  | cons first rest ih =>
    obtain ⟨l, old⟩ := first
    simp only [List.map_cons, List.pairwise_cons, List.forall_mem_map] at ascending
    obtain ⟨later, ordered⟩ := ascending
    unfold addLineErrors
    split
    · next before =>
      have absent : errorBits ((l, old) :: rest) line = [] :=
        errorBits_below (List.forall_mem_cons.mpr ⟨before, fun e mem => before.trans (later e mem)⟩)
      rw [absent, errorBits, if_pos rfl]
      simp
    · split
      · next same => simp [errorBits, same]
      · next different =>
        rw [errorBits, errorBits, if_neg (Ne.symm different), if_neg (Ne.symm different)]
        exact ih ordered

/-- The bits of every other line stay as they are. -/
theorem errorBits_addLineErrors_other (ne : other ≠ line) :
    errorBits (addLineErrors line bits errors) other = errorBits errors other := by
  induction errors with
  | nil => simp [addLineErrors, errorBits, Ne.symm ne]
  | cons first rest ih =>
    obtain ⟨l, old⟩ := first
    unfold addLineErrors
    split
    · rw [errorBits, if_neg (Ne.symm ne)]
    · split
      · next same =>
        subst same
        rw [errorBits, errorBits, if_neg (Ne.symm ne), if_neg (Ne.symm ne)]
      · rw [errorBits, errorBits, ih]

/-- In an ascending list a line is listed once. -/
theorem errorBits_of_mem (ascending : (errors.map fun e => e.1).Pairwise (· < ·)) (mem : (line, bits) ∈ errors) :
    errorBits errors line = bits := by
  induction errors with
  | nil => cases mem
  | cons first rest ih =>
    obtain ⟨l, old⟩ := first
    simp only [List.map_cons, List.pairwise_cons, List.forall_mem_map] at ascending
    obtain ⟨later, ordered⟩ := ascending
    rcases List.mem_cons.mp mem with same | mem
    · cases same
      rw [errorBits, if_pos rfl]
    · rw [errorBits, if_neg (later _ mem).ne, ih ordered mem]

end lineErrors

/-! ## The patrol (R83, R84) -/

section patrol

variable {s t u : State} {page line : Nat} {bits : List Nat} {g : Segment}

/-! ### Which page it reads (R83) -/

theorem patrolPage_none (retired : ∀ page < s.store.initPosition, page ∈ s.store.retired) : s.patrolPage = none := by
  have first : (List.range' s.store.patrolPosition (s.store.initPosition - s.store.patrolPosition)).find?
      (fun page => !s.store.retired.contains page) = none := by
    refine List.find?_eq_none.mpr fun page mem => ?_
    rw [List.mem_range'_1] at mem
    simpa using retired page (by omega)
  have again : (List.range s.store.initPosition).find? (fun page => !s.store.retired.contains page) = none :=
    List.find?_eq_none.mpr fun page mem => by simpa using retired page (List.mem_range.mp mem)
  unfold State.patrolPage
  simp only [first, again]

/-- The page at the patrol position, or the next one, or the first one behind the last (R83). -/
theorem patrolPage_some (init : page < s.store.initPosition) (kept : page ∉ s.store.retired)
    (next : s.store.patrolPosition ≤ page ∧ (∀ p, s.store.patrolPosition ≤ p → p < page → p ∈ s.store.retired)
      ∨ page < s.store.patrolPosition
        ∧ (∀ p, s.store.patrolPosition ≤ p → p < s.store.initPosition → p ∈ s.store.retired)
        ∧ ∀ p < page, p ∈ s.store.retired) : s.patrolPage = some page := by
  unfold State.patrolPage
  rcases next with ⟨from_, skipped⟩ | ⟨before, upToLast, skipped⟩
  · have found : (List.range' s.store.patrolPosition (s.store.initPosition - s.store.patrolPosition)).find?
        (fun page => !s.store.retired.contains page) = some page := by
      rw [List.find?_range'_eq_some]
      refine ⟨by simpa using kept, ?_, fun p low high => by simpa using skipped p low high⟩
      rw [List.mem_range'_1]
      omega
    simp only [found]
  · have first : (List.range' s.store.patrolPosition (s.store.initPosition - s.store.patrolPosition)).find?
        (fun page => !s.store.retired.contains page) = none := by
      refine List.find?_eq_none.mpr fun p mem => ?_
      rw [List.mem_range'_1] at mem
      simpa using upToLast p (by omega) (by omega)
    have again : (List.range s.store.initPosition).find? (fun page => !s.store.retired.contains page) = some page := by
      rw [List.find?_range_eq_some]
      exact ⟨by simpa using kept, List.mem_range.mpr init, fun p high => by simpa using skipped p high⟩
    simp only [first, again]

/-- The state in which the patrol reads: the next read comes one interval later. -/
def patrolStart (s : State) : State :=
  s.modStore fun st => { st with patrolDue := s.now + st.patrolInterval * millisecond }

/-- One patrol read of a page (R83). -/
theorem patrolRead_eq (found : s.patrolPage = some page) : patrolRead s =
    (patrolLines page (s.errorLinesOf page) (patrolStart s)).modStore fun st =>
      { st with patrolPosition := if page + 1 = st.pageCount then 0 else page + 1 } := by
  have here : (patrolStart s).patrolPage = some page := found
  unfold patrolRead
  rw [show (s.modStore fun st => { st with patrolDue := s.now + st.patrolInterval * millisecond }) = patrolStart s from rfl]
  simp only [here]
  rfl

theorem errorLinesOf_none (clean : ∀ e ∈ s.store.lineErrors, e.1 / 1024 ≠ page) : s.errorLinesOf page = [] := by
  refine List.filter_eq_nil_iff.mpr fun line mem => ?_
  obtain ⟨e, listed, rfl⟩ := List.mem_map.mp mem
  simpa [pageSize, lineSize] using clean e listed

/-- The one line of a page that has an error. -/
theorem errorLinesOf_one (canonical : s.memoryCanonical) (listed : (line, bits) ∈ s.store.lineErrors)
    (lies : line / 1024 = page) (alone : ∀ e ∈ s.store.lineErrors, e.1 / 1024 = page → e.1 = line) :
    s.errorLinesOf page = [line] := by
  have ascending : (s.errorLinesOf page).Pairwise (· < ·) := canonical.2.filter _
  have mem : ∀ l, l ∈ s.errorLinesOf page ↔ l = line := by
    intro l
    simp only [State.errorLinesOf, List.mem_filter, List.mem_map, beq_iff_eq, pageSize, lineSize]
    constructor
    · rintro ⟨⟨e, listed, rfl⟩, lies⟩
      exact alone e listed lies
    · rintro rfl
      exact ⟨⟨_, listed, rfl⟩, lies⟩
  cases lines : s.errorLinesOf page with
  | nil => exact absurd ((mem line).mpr rfl) (by simp [lines])
  | cons first rest =>
    rw [lines] at mem ascending
    have same := (mem first).mp (by simp)
    have empty : rest = [] := by
      refine List.eq_nil_iff_forall_not_mem.mpr fun l inRest => ?_
      have above := (List.pairwise_cons.mp ascending).1 l inRest
      have equal := (mem l).mp (List.mem_cons_of_mem _ inRest)
      omega
    rw [same, empty]

/-! ### What it finds (R84) -/

theorem readLine_corrected (one : (errorBits s.store.lineErrors line).length = 1) : readLine line s =
    (.corrected, storedLine s.store.dram line, s.modStore fun st => { st with lineErrors := clearLine st.lineErrors line }) := by
  obtain ⟨b, single⟩ := List.length_eq_one_iff.mp one
  have outcome : lineOutcome s.store.lineErrors line = .corrected := by
    rw [lineOutcome_eq]
    simp [lineLost, single]
  unfold readLine
  rw [outcome]
  rfl

theorem readLine_lost (lost : 2 ≤ (errorBits s.store.lineErrors line).length) : ∃ bytes, readLine line s =
    (.uncorrectable, bytes, { s with
      store := { s.store with uncorrectable := s.store.uncorrectable + 1 }, freeReads := s.freeReads + 64 }) := by
  have outcome : lineOutcome s.store.lineErrors line = .uncorrectable := by
    rw [lineOutcome_eq, lineLost, if_pos (decide_eq_true lost)]
  unfold readLine
  rw [outcome]
  exact ⟨_, rfl⟩

theorem patrolLines_corrected {bytes : List Byte} (read : readLine line s = (.corrected, bytes, t)) :
    patrolLines page [line] s = t.modStore fun st => { st with patrolCorrected := st.patrolCorrected + 1 } := by
  rw [patrolLines, read]
  rfl

/-- The state in which a free page has been retired by the patrol, before reclaim. -/
def retirePage (page : Nat) (s : State) : State :=
  raise (.pageRetired page .patrol) <| s.modStore fun st =>
    { st with
      freePool := st.freePool.filter (· != page)
      retired := insertAscending page st.retired
      pagesRetired := st.pagesRetired + 1 }

theorem patrolLines_free {bytes : List Byte} (read : readLine line s = (.uncorrectable, bytes, t))
    (free : t.pageOwner page = none) : patrolLines page [line] s = reclaimPages (retirePage page t) := by
  rw [patrolLines, read]
  simp only [free]
  rfl

theorem patrolLines_owned {bytes : List Byte} (read : readLine line s = (.uncorrectable, bytes, t))
    (owned : t.pageOwner page = some g) : patrolLines page [line] s =
      let offset := g.pages.idxOf page * 65536 + (line * 64 - page * 65536)
      if offset < g.byteLength then
        markDamaged g.id (pictureAtOffset g offset) (pictureAtOffset g offset) .patrol (addBadPage g.id page t)
      else addBadPage g.id page t := by
  rw [patrolLines, read]
  simp only [owned]
  rfl

/-- A page in no segment is not freed by reclaim. -/
theorem reclaimPages_notFreed (absent : ∀ g ∈ s.store.segments, page ∉ g.pages) (out : page ∉ s.store.freePool) :
    page ∉ (reclaimPages s).store.freePool := by
  induction s using reclaimPages_induction with
  | done s same _ => rwa [same]
  | freed s id first next ih =>
    rw [next]
    have segments := (freeSegment_segments id s).subset
    refine ih (fun g mem => absent g (segments mem)) ?_
    cases held : s.segment? id with
    | none =>
      unfold freeSegment
      rwa [held]
    | some g =>
      rw [freeSegment_eq held]
      intro mem
      rcases (mem_insertAll _ _ _).mp mem with mem | mem
      · exact out mem
      · exact absent g (List.mem_of_find?_eq_some held) (List.mem_filter.mp mem).1

/-- Reclaim only adds to the retired pages. -/
theorem reclaimPages_retired (s : State) : s.store.retired ⊆ (reclaimPages s).store.retired := by
  induction s using reclaimPages_induction with
  | done s same _ => rw [same]; exact List.Subset.refl _
  | freed s id first next ih =>
    rw [next]
    refine fun page mem => ih ?_
    cases held : s.segment? id with
    | none =>
      unfold freeSegment
      rwa [held]
    | some g =>
      rw [freeSegment_eq held]
      exact (mem_insertAll _ _ _).mpr (.inl mem)

/-! ### What it reaches -/

/-- The second state is the first but for what a patrol read of lines can reach: what reclaim and damage can, the errors of
lines, two counts and free values. -/
def PatrolSide (s t : State) : Prop :=
  t = { s with
    store := { s.store with
      freePool := t.store.freePool
      retired := t.store.retired
      pagesRetired := t.store.pagesRetired
      segments := t.store.segments
      timelines := t.store.timelines
      completion := t.store.completion
      reclaimed := t.store.reclaimed
      lineErrors := t.store.lineErrors
      uncorrectable := t.store.uncorrectable
      patrolCorrected := t.store.patrolCorrected }
    clipLog := t.clipLog
    sched := { s.sched with reads := t.sched.reads }
    control := t.control
    freeReads := t.freeReads }

theorem PatrolSide.trans (h : PatrolSide s t) (h' : PatrolSide t u) : PatrolSide s u := Eq.trans (id h') (by rw [id h])

theorem PatrolSide.of_reclaim (h : ReclaimOnly s t) : PatrolSide s t := Eq.trans (id h) (by rw [id h])

theorem PatrolSide.of_damage (h : DamageOnly s t) : PatrolSide s t := Eq.trans (id h) (by rw [id h])

theorem PatrolSide.readLine (line : Nat) (s : State) : PatrolSide s (readLine line s).2.2 :=
  Eq.trans (readLine_frame line s) (by rw [readLine_frame line s])

/-- All that a patrol read of lines can change (R84). -/
theorem patrolLines_only (page : Nat) (lines : List Nat) (s : State) : PatrolSide s (patrolLines page lines s) := by
  induction lines generalizing s with
  | nil => exact rfl
  | cons line rest ih =>
    have read := PatrolSide.readLine line s
    rw [patrolLines]
    split
    · next e =>
      rw [e] at read
      exact read.trans (ih _)
    · next e =>
      rw [e] at read
      refine read.trans (.trans ?_ (ih _))
      exact rfl
    · next e =>
      rw [e] at read
      refine read.trans ?_
      split
      · refine .trans ?_ (.of_reclaim (reclaimPages_only _))
        refine .trans ?_ (.of_damage (.raise _ rfl))
        exact rfl
      · next g _ =>
        refine .trans ?_ (ih _)
        simp only
        split
        · refine .trans ?_ (.of_damage (markDamaged_only _ _ _ _ _))
          exact rfl
        · exact rfl

/-- All that one patrol read can change, and where the patrol goes next (R83). -/
theorem patrolRead_keeps (found : s.patrolPage = some page) : (patrolRead s).now = s.now
    ∧ (patrolRead s).store.patrolPosition = (if page + 1 = s.store.pageCount then 0 else page + 1)
    ∧ (patrolRead s).store.patrolDue = s.now + s.store.patrolInterval * millisecond
    ∧ (patrolRead s).store.dram = s.store.dram ∧ (patrolRead s).timing = s.timing ∧ (patrolRead s).coders = s.coders
    ∧ (patrolRead s).mixer = s.mixer := by
  have only := patrolLines_only page (s.errorLinesOf page) (patrolStart s)
  rw [patrolRead_eq found, id only]
  exact ⟨rfl, rfl, rfl, rfl, rfl, rfl, rfl⟩

/-! ### One line in error -/

/-- The one line in error of the page that the patrol reads. -/
def OneBadLine (page line : Nat) (bits : List Nat) (s : State) : Prop :=
  s.patrolPage = some page ∧ s.errorLinesOf page = [line] ∧ errorBits s.store.lineErrors line = bits

/-- A single-bit error is corrected and counted (R84). -/
theorem patrolRead_corrected (bad : OneBadLine page line bits s) (one : bits.length = 1) : patrolRead s =
    { s with store := { s.store with
      patrolPosition := if page + 1 = s.store.pageCount then 0 else page + 1
      patrolDue := s.now + s.store.patrolInterval * millisecond
      patrolCorrected := s.store.patrolCorrected + 1
      lineErrors := s.store.lineErrors.filter fun e => e.1 ≠ line } } := by
  obtain ⟨found, lines, listed⟩ := bad
  have filter : clearLine s.store.lineErrors line = s.store.lineErrors.filter fun e => e.1 ≠ line := by
    refine List.filter_congr fun e _ => ?_
    simp [bne, beq_eq_decide]
  rw [patrolRead_eq found, lines,
    patrolLines_corrected (readLine_corrected (s := patrolStart s) (by rw [← listed] at one; exact one)), ← filter]
  rfl

/-- The state in which the patrol has read a line that it cannot correct. -/
def lostLine (s : State) : State :=
  { patrolStart s with
    store := { (patrolStart s).store with uncorrectable := s.store.uncorrectable + 1 }, freeReads := s.freeReads + 64 }

theorem readLine_patrolStart (listed : errorBits s.store.lineErrors line = bits) (lost : 2 ≤ bits.length) :
    ∃ bytes, readLine line (patrolStart s) = (.uncorrectable, bytes, lostLine s) :=
  readLine_lost (s := patrolStart s) (by rw [← listed] at lost; exact lost)

/-- A free page with a line that cannot be corrected is retired, and the pool is filled up again (R84). -/
theorem patrolRead_free (bad : OneBadLine page line bits s) (lost : 2 ≤ bits.length)
    (free : ∀ g ∈ s.store.segments, page ∉ g.pages) : patrolRead s =
      (reclaimPages (retirePage page (lostLine s))).modStore fun st =>
        { st with patrolPosition := if page + 1 = st.pageCount then 0 else page + 1 } := by
  obtain ⟨found, lines, listed⟩ := bad
  obtain ⟨bytes, read⟩ := readLine_patrolStart listed lost
  have unowned : (lostLine s).pageOwner page = none :=
    List.find?_eq_none.mpr fun g mem => by simpa using free g mem
  rw [patrolRead_eq found, lines, patrolLines_free read unowned]

theorem retirePage_eq (page : Nat) (s : State) : retirePage page s = { s with
    store := { s.store with
      freePool := s.store.freePool.filter (· ≠ page)
      retired := insertAscending page s.store.retired
      pagesRetired := s.store.pagesRetired + 1 }
    control := queueNotice ⟨.pageRetired page .patrol, s.timing.timecode⟩ s.control } := by
  have filter : s.store.freePool.filter (· != page) = s.store.freePool.filter (· ≠ page) :=
    List.filter_congr fun e _ => by simp [bne, beq_eq_decide]
  unfold retirePage
  rw [raise_of_not_protocol _ rfl, ← filter]
  rfl

/-- The retired page is in no pool again, and the line is counted (R84). -/
theorem patrolRead_retires (bad : OneBadLine page line bits s) (lost : 2 ≤ bits.length)
    (free : ∀ g ∈ s.store.segments, page ∉ g.pages) : page ∈ (patrolRead s).store.retired
      ∧ page ∉ (patrolRead s).store.freePool ∧ (patrolRead s).store.uncorrectable = s.store.uncorrectable + 1 := by
  rw [patrolRead_free bad lost free]
  refine ⟨?_, ?_, ?_⟩
  · refine reclaimPages_retired _ ?_
    rw [retirePage_eq]
    exact (mem_insertAscending _ _ _).mpr (.inl rfl)
  · refine reclaimPages_notFreed ?_ ?_
    · rw [retirePage_eq]
      exact free
    · rw [retirePage_eq]
      simp
  · have only := reclaimPages_only (retirePage page (lostLine s))
    rw [id only, retirePage_eq]
    rfl

/-- With enough pages left nothing is reclaimed when a page is retired. -/
theorem patrolRead_retires_only (bad : OneBadLine page line bits s) (lost : 2 ≤ bits.length)
    (free : ∀ g ∈ s.store.segments, page ∉ g.pages)
    (enough : 256 ≤ (s.store.freePool.filter (· ≠ page)).length) : patrolRead s = { s with
      store := { s.store with
        patrolPosition := if page + 1 = s.store.pageCount then 0 else page + 1
        patrolDue := s.now + s.store.patrolInterval * millisecond
        freePool := s.store.freePool.filter (· ≠ page)
        retired := insertAscending page s.store.retired
        pagesRetired := s.store.pagesRetired + 1
        uncorrectable := s.store.uncorrectable + 1 }
      freeReads := s.freeReads + 64
      control := queueNotice ⟨.pageRetired page .patrol, s.timing.timecode⟩ s.control } := by
  rw [patrolRead_free bad lost free, reclaimPages_of_reserve (by rw [retirePage_eq]; exact enough), retirePage_eq]
  rfl

/-- A marking changes no byte, retires no page and counts no line. -/
theorem markDamaged_store {id first last : Nat} {cause : DamageCause} :
    (markDamaged id first last cause s).store.dram = s.store.dram
      ∧ (markDamaged id first last cause s).store.retired = s.store.retired
      ∧ (markDamaged id first last cause s).store.uncorrectable = s.store.uncorrectable := by
  have only := markDamaged_only id first last cause s
  rw [DamageOnly] at only
  rw [only]
  exact ⟨rfl, rfl, rfl⟩

/-- A page of a segment joins its bad-page list, and within its bytes the picture of the line is damaged (R82, R84). -/
theorem patrolRead_owned (bad : OneBadLine page line bits s) (lost : 2 ≤ bits.length) (owned : s.pageOwner page = some g)
    (held : s.segment? g.id = some g) :
    let offset := g.pages.idxOf page * 65536 + (line * 64 - page * 65536)
    ∃ h, (patrolRead s).segment? g.id = some h ∧ page ∈ h.badPages
      ∧ (patrolRead s).store.uncorrectable = s.store.uncorrectable + 1
      ∧ (patrolRead s).store.retired = s.store.retired
      ∧ h.damage = if offset < g.byteLength then
          some (widenDamage g.damage (pictureAtOffset g offset) (pictureAtOffset g offset) .patrol) else g.damage := by
  intro offset
  obtain ⟨found, lines, listed⟩ := bad
  obtain ⟨bytes, read⟩ := readLine_patrolStart listed lost
  obtain ⟨list, mem, -, added⟩ := segment?_addBadPage (s := lostLine s) held page
  rw [patrolRead_eq found, lines, patrolLines_owned read (g := g) owned]
  simp only
  split
  · obtain ⟨-, retired, counted⟩ := markDamaged_store (s := addBadPage g.id page (lostLine s)) (id := g.id)
      (first := pictureAtOffset g offset) (last := pictureAtOffset g offset) (cause := .patrol)
    exact ⟨_, segment?_markDamaged added, mem, counted, retired, rfl⟩
  · exact ⟨_, added, mem, rfl, rfl, rfl⟩

end patrol

/-! ## O31 -/

/-- MEMORY_ERROR adds its bits to those of the line (R80). -/
theorem exec_memoryError {s : State} {elapsed page line : Nat} {bits : List Nat} (isPage : page < s.store.pageCount)
    (isLine : line < 1024) (canonical : s.memoryCanonical) :
    ∃ t, exec (.memoryError elapsed page line bits) s = .next t ∧ t.now = s.now + elapsed
      ∧ (∀ b, b ∈ errorBits t.store.lineErrors (page * 1024 + line) ↔
          b ∈ errorBits s.store.lineErrors (page * 1024 + line) ∨ b ∈ bits)
      ∧ (∀ other, other ≠ page * 1024 + line →
          errorBits t.store.lineErrors other = errorBits s.store.lineErrors other)
      ∧ t.store = { s.store with lineErrors := t.store.lineErrors }
      ∧ t = { s with now := t.now, store := t.store, control := t.control } := by
  have exists_ : ¬ (s.store.pageCount ≤ page ∨ pageSize / lineSize ≤ line) := by
    simp only [pageSize, lineSize]
    omega
  simp only [exec, execMemoryError, if_neg exists_]
  split
  · next empty =>
    rw [List.isEmpty_iff] at empty
    subst empty
    exact ⟨_, finish_eq _, rfl, by simp [State.elapse], fun _ _ => rfl, rfl, rfl⟩
  · exact ⟨_, finish_eq _, rfl, mem_errorBits_addLineErrors canonical.2, fun _ ne => errorBits_addLineErrors_other ne, rfl, rfl⟩

/-- What one marking of a held segment changes (R82, R118). -/
theorem markDamaged_changes {s : State} {id first last : Nat} {cause : DamageCause} {g : Segment}
    (held : s.segment? id = some g) :
    let t := markDamaged id first last cause s
    (∀ other, other ≠ id → t.segment? other = s.segment? other) ∧ t.store.dram = s.store.dram
      ∧ (∀ d, g.damage = some d → t.clipLog = s.clipLog ∧ t.control = s.control
          ∧ t.segment? id = some { g with damage := some ⟨min d.first first, max d.last last, d.cause⟩ })
      ∧ (g.damage = none → t.segment? id = some { g with damage := some ⟨first, last, cause⟩ }
          ∧ (∀ i, t.clip? i = (s.clip? i).map fun k => if id ∈ k.range then { k with damaged := true } else k)
          ∧ ((∀ k ∈ s.clipLog.clips, id ∈ k.range → k.damaged = true) → t.control = queueNotice
              ⟨.segmentDamaged id g.channel cause (pictureTimecode g first) (pictureTimecode g last) g.pinCount,
                s.timing.timecode⟩ s.control)
          ∧ ∀ k, s.clipLog.clips = [k] → id ∈ k.range → k.damaged = false → t.control = queueNotice
              ⟨.segmentDamaged id g.channel cause (pictureTimecode g first) (pictureTimecode g last) g.pinCount,
                s.timing.timecode⟩ (queueNotice ⟨.clipDamaged k.id id, s.timing.timecode⟩ s.control)) := by
  intro t
  have marked : t.segment? id = some { g with damage := some (widenDamage g.damage first last cause) } :=
    segment?_markDamaged held
  refine ⟨fun other ne => segment?_markDamaged_other ne, markDamaged_store.1, fun d before => ?_, fun before => ?_⟩
  · obtain ⟨clips, control⟩ := markDamaged_again (first := first) (last := last) (cause := cause) held before
    rw [before] at marked
    exact ⟨clips, control, marked⟩
  · rw [before] at marked
    refine ⟨marked, clip?_markDamaged_first held before, fun all => ?_, fun k only covers fresh => ?_⟩
    · have noClip : (s.clipLog.clips.filter fun k => k.range.contains id && !k.damaged) = [] :=
        List.filter_eq_nil_iff.mpr fun k mem => by simpa using all k mem
      show (markDamaged id first last cause s).control = _
      rw [markDamaged_first held before, noClip]
      rfl
    · have oneClip : (s.clipLog.clips.filter fun k => k.range.contains id && !k.damaged) = [k] := by
        simp [only, covers, fresh]
      show (markDamaged id first last cause s).control = _
      rw [markDamaged_first held before, oneClip]
      rfl

/-- Settles O31: the errors of a line by the list of errors, the patrol by the one line in error of its page, and a marking by
whether it is the first. -/
theorem errorsOfALineAndThePatrol : Obligations.ErrorsOfALineAndThePatrol := by
  unfold Obligations.ErrorsOfALineAndThePatrol
  refine ⟨fun s elapsed page line bits => ⟨fun absent => ?_, exec_memoryError⟩, fun s => ⟨fun retired => ?_, ?_⟩,
    fun s id first last cause g held => markDamaged_changes held⟩
  · simp only [exec, execMemoryError]
    exact if_pos absent
  · have nothing : (s.passTo s.store.patrolDue).patrolPage = none := patrolPage_none retired
    have stays : patrolRead (s.passTo s.store.patrolDue) = patrolStart (s.passTo s.store.patrolDue) := by
      unfold patrolRead
      rw [show ((s.passTo s.store.patrolDue).modStore fun st => { st with
        patrolDue := (s.passTo s.store.patrolDue).now + st.patrolInterval * millisecond })
          = patrolStart (s.passTo s.store.patrolDue) from rfl]
      simp only [show (patrolStart (s.passTo s.store.patrolDue)).patrolPage = none from nothing]
    show finish (serve (patrolRead (s.passTo s.store.patrolDue))) = _
    rw [stays]
    rfl
  · intro page init kept next
    have found : (s.passTo s.store.patrolDue).patrolPage = some page := patrolPage_some init kept next
    obtain ⟨now, position, due, dram, timing, coders, mixer⟩ := patrolRead_keeps found
    refine ⟨patrolRead (s.passTo s.store.patrolDue), rfl, now, position, due, dram, timing, coders, mixer, fun clean => ?_,
      fun line bits canonical listed lies alone => ?_⟩
    · rw [patrolRead_eq found, errorLinesOf_none (s := s.passTo s.store.patrolDue) clean]
      rfl
    · have bad : OneBadLine page line bits (s.passTo s.store.patrolDue) :=
        ⟨found, errorLinesOf_one canonical listed lies alone, errorBits_of_mem canonical.2 listed⟩
      refine ⟨fun one => ?_, fun lost free => ?_, fun lost g i owned held upTo beyond => ?_⟩
      · rw [patrolRead_corrected bad one]
        rfl
      · obtain ⟨retired, gone, counted⟩ := patrolRead_retires bad lost free
        refine ⟨retired, gone, counted, fun enough => ?_⟩
        rw [patrolRead_retires_only bad lost free enough]
        exact ⟨fun p => mem_insertAscending _ _ _, rfl⟩
      · obtain ⟨h, now, listed, counted, same, damage⟩ := patrolRead_owned bad lost owned held
        refine ⟨h, now, listed, counted, same, fun beyondEnd => ?_, fun within => ?_⟩
        · rw [damage, if_neg (by omega)]
        · rw [damage, if_pos within, pictureAtOffset_eq upTo beyond]
          cases g.damage <;> rfl

end Sys2Proof.Machine

namespace Sys2Proof.Machine

/-! ## Bytes written at an offset of a segment (R70) -/

section addresses

variable {pages : List Nat} {x i j : Nat}

/-- In a list of different pages, different offsets are different addresses. -/
theorem segAddress_injective (distinct : pages.Nodup) (hi : i < pages.length * 65536) (hj : j < pages.length * 65536)
    (same : segAddress pages i = segAddress pages j) : i = j := by
  have at_ : ∀ k, k < pages.length * 65536 → ∃ h : k / 65536 < pages.length,
      segAddress pages k = pages[k / 65536] * 65536 + k % 65536 := by
    intro k hk
    have inside : k / 65536 < pages.length := by omega
    exact ⟨inside, by rw [segAddress, pageSize, List.getElem?_eq_getElem inside, Option.getD_some]⟩
  obtain ⟨insideI, addressI⟩ := at_ i hi
  obtain ⟨insideJ, addressJ⟩ := at_ j hj
  rw [addressI, addressJ] at same
  have page : pages[i / 65536] = pages[j / 65536] := by omega
  have index : i / 65536 = j / 65536 := distinct.getElem_inj_iff.mp page
  omega

/-- Bytes written at offsets of different pages read back. -/
theorem memRead_segWrite_same {m : Mem} {bytes : List Byte} {b : Byte} (canonical : m.wf = true) (distinct : pages.Nodup)
    (fits : x + bytes.length ≤ pages.length * 65536) (byte : bytes[i]? = some b) :
    memRead (segWrite pages m x bytes) (segAddress pages (x + i)) = b := by
  induction bytes generalizing m x i with
  | nil => cases byte
  | cons first rest ih =>
    rw [List.length_cons] at fits
    rw [segWrite]
    cases i with
    | zero =>
      cases byte
      have later : ∀ j < rest.length, segAddress pages (x + 1 + j) ≠ segAddress pages (x + 0) := by
        intro j hj same
        have := segAddress_injective distinct (by omega) (by omega) same
        omega
      rw [memRead_segWrite_other pages rest _ _ later, Nat.add_zero, memRead_memWrite_same _ _ canonical]
    | succ i =>
      have := ih (m := memWrite m (segAddress pages x) first) (x := x + 1) (i := i) (memWrite_wf _ _ canonical)
        (by omega) byte
      rwa [show x + (i + 1) = x + 1 + i by omega]

end addresses

section whole

variable {s : State} {pages : List Nat} {x first i : Nat} {bytes used : List Byte}

/-- The lines that hold so many bytes from the start of a line on. -/
def linesFor (bytes : Nat) : Nat := (bytes + 63) / 64

/-- Bytes written in whole lines from the start of a line on, with zeros up to the end of the last line; the lines hold no
error then. -/
def writeLines (pages : List Nat) (first : Nat) (used : List Byte) (s : State) : State :=
  s.modStore fun st =>
    { st with
      dram := segWrite pages st.dram first (used ++ List.replicate (64 * linesFor used.length - used.length) 0)
      lineErrors := st.lineErrors.filter fun e =>
        !((List.range (linesFor used.length)).map fun i => segAddress pages (first + 64 * i) / 64).contains e.1 }

/-- The bytes of the line in which the writer begins that lie before its first byte, as a read gives them. -/
def keptBytes (pages : List Nat) (x : Nat) (s : State) : List Byte :=
  if x % 64 = 0 then [] else (readLine (segAddress pages (x - x % 64) / 64) s).2.1.take (x % 64)

/-- The state once the line in which the writer begins has been read. -/
def keptState (pages : List Nat) (x : Nat) (s : State) : State :=
  if x % 64 = 0 then s else (readLine (segAddress pages (x - x % 64) / 64) s).2.2

/-- The writer reads the line in which it begins, and writes whole lines. -/
theorem writeSegment_eq (pages : List Nat) (x : Nat) (bytes : List Byte) (s : State) : writeSegment pages x bytes s =
    writeLines pages (x - x % 64) (keptBytes pages x s ++ bytes) (keptState pages x s) := by
  unfold writeSegment keptBytes keptState lineSize
  split <;> rfl

theorem readLine_length (line : Nat) (s : State) : (readLine line s).2.1.length = 64 := by
  unfold readLine
  split <;> simp [lineSize]

theorem keptBytes_length : (keptBytes pages x s).length = x % 64 := by
  unfold keptBytes
  split
  · next aligned => rw [aligned]; rfl
  · rw [List.length_take, readLine_length]
    omega

theorem keptState_dram : (keptState pages x s).store.dram = s.store.dram := by
  unfold keptState
  split
  · rfl
  · exact readLine_dram _ _

theorem keptState_frame : keptState pages x s = { s with
    store := { s.store with
      lineErrors := (keptState pages x s).store.lineErrors
      uncorrectable := (keptState pages x s).store.uncorrectable }
    freeReads := (keptState pages x s).freeReads } := by
  unfold keptState
  split
  · rfl
  · exact readLine_frame _ _

/-- A line that can be read gives the bytes before the first one written. -/
theorem keptBytes_getElem? (readable : (errorBits s.store.lineErrors (segAddress pages (x - x % 64) / 64)).length ≤ 1)
    (hi : i < x % 64) : (keptBytes pages x s)[i]? = some (memRead s.store.dram (segAddress pages (x - x % 64 + i))) := by
  have read : (readLine (segAddress pages (x - x % 64) / 64) s).2.1 = segmentBytes s.store.dram pages (x - x % 64) 64 := by
    rw [readLine_bytes (by unfold lineLost; exact decide_eq_false (by omega)), storedLine_segAddress _ (by omega)]
  rw [keptBytes, if_neg (by omega), read, List.getElem?_take_of_lt hi, segmentBytes, List.getElem?_map,
    List.getElem?_range (by omega)]
  rfl

/-- What writing whole lines leaves: the bytes, zeros behind them, no error in the lines, and every other address. -/
theorem writeLines_stores (canonical : s.store.dram.wf = true) (distinct : pages.Nodup) (aligned : first % 64 = 0)
    (fits : first + used.length ≤ pages.length * 65536) :
    let t := writeLines pages first used s
    (∀ i b, used[i]? = some b → memRead t.store.dram (segAddress pages (first + i)) = b)
      ∧ (∀ i, used.length ≤ i → i < 64 * linesFor used.length →
          memRead t.store.dram (segAddress pages (first + i)) = 0)
      ∧ (∀ i < 64 * linesFor used.length, errorBits t.store.lineErrors (segAddress pages (first + i) / 64) = [])
      ∧ ∀ a, (∀ i < 64 * linesFor used.length, segAddress pages (first + i) ≠ a) →
          memRead t.store.dram a = memRead s.store.dram a := by
  intro t
  have room : 64 * linesFor used.length ≥ used.length := by
    unfold linesFor
    omega
  have size : (used ++ List.replicate (64 * linesFor used.length - used.length) (0 : Byte)).length
      = 64 * linesFor used.length := by
    rw [List.length_append, List.length_replicate]
    omega
  have within : first + (used ++ List.replicate (64 * linesFor used.length - used.length) (0 : Byte)).length
      ≤ pages.length * 65536 := by
    rw [size]
    unfold linesFor
    omega
  refine ⟨fun i b byte => ?_, fun i behind inside => ?_, fun i inside => ?_, fun a outside => ?_⟩
  · refine memRead_segWrite_same canonical distinct within ?_
    rw [List.getElem?_append_left (List.getElem?_eq_some_iff.mp byte).1, byte]
  · refine memRead_segWrite_same canonical distinct within ?_
    rw [List.getElem?_append_right behind, List.getElem?_replicate, if_pos (by omega)]
  · refine (errorBits_filter (fun line => ((List.range (linesFor used.length)).map fun i =>
      segAddress pages (first + 64 * i) / 64).contains line) _ _).trans ?_
    have listed : segAddress pages (first + i) / 64
        ∈ (List.range (linesFor used.length)).map fun i => segAddress pages (first + 64 * i) / 64 := by
      refine List.mem_map.mpr ⟨i / 64, List.mem_range.mpr (by omega), ?_⟩
      rw [segAddress_line (first + i), show first + i - (first + i) % 64 = first + 64 * (i / 64) by omega]
    rw [if_pos (List.contains_iff_mem.mpr listed)]
  · refine memRead_segWrite_other pages _ _ _ fun i hi => ?_
    rw [size] at hi
    exact outside i hi

/-- The writer stores its bytes at their offsets, keeps the earlier bytes of its first line, fills its last line with zeros,
leaves no error in its lines and no other byte changed (R70, R80). -/
theorem writeSegment_stores (canonical : s.memoryCanonical) (distinct : pages.Nodup)
    (fits : x + bytes.length ≤ pages.length * 65536) :
    let t := writeSegment pages x bytes s
    (∀ i b, bytes[i]? = some b → memRead t.store.dram (segAddress pages (x + i)) = b)
      ∧ ((errorBits s.store.lineErrors (segAddress pages (x - x % 64) / 64)).length ≤ 1 →
          ∀ i, x - x % 64 ≤ i → i < x →
            memRead t.store.dram (segAddress pages i) = memRead s.store.dram (segAddress pages i))
      ∧ (∀ i, x + bytes.length ≤ i → i < (x + bytes.length + 63) / 64 * 64 →
          memRead t.store.dram (segAddress pages i) = 0)
      ∧ (∀ i, x - x % 64 ≤ i → i < (x + bytes.length + 63) / 64 * 64 →
          errorBits t.store.lineErrors (segAddress pages i / 64) = [])
      ∧ (∀ a, (∀ i, x - x % 64 ≤ i → i < (x + bytes.length + 63) / 64 * 64 → segAddress pages i ≠ a) →
          memRead t.store.dram a = memRead s.store.dram a)
      ∧ t.memoryCanonical
      ∧ t = { s with
          store := { s.store with
            dram := t.store.dram, lineErrors := t.store.lineErrors, uncorrectable := t.store.uncorrectable }
          freeReads := t.freeReads } := by
  intro t
  have length : (keptBytes pages x s ++ bytes).length = x % 64 + bytes.length := by
    rw [List.length_append, keptBytes_length]
  have lines : x - x % 64 + 64 * linesFor (keptBytes pages x s ++ bytes).length = (x + bytes.length + 63) / 64 * 64 := by
    rw [length]
    unfold linesFor
    omega
  have written : t = writeLines pages (x - x % 64) (keptBytes pages x s ++ bytes) (keptState pages x s) :=
    writeSegment_eq pages x bytes s
  obtain ⟨stored, zeros, clean, others⟩ := writeLines_stores (s := keptState pages x s) (pages := pages)
    (first := x - x % 64) (used := keptBytes pages x s ++ bytes) (by rw [keptState_dram]; exact canonical.1) distinct
    (by omega) (by rw [length]; omega)
  rw [← written] at stored zeros clean others
  rw [keptState_dram] at others
  refine ⟨fun i b byte => ?_, fun readable i low high => ?_, fun i low high => ?_, fun i low high => ?_,
    fun a outside => ?_, ?_, ?_⟩
  · have := stored (x % 64 + i) b (by
      rw [List.getElem?_append_right (by rw [keptBytes_length]; omega), keptBytes_length, Nat.add_sub_cancel_left, byte])
    rwa [show x - x % 64 + (x % 64 + i) = x + i by omega] at this
  · have offset : x - x % 64 + (i - (x - x % 64)) = i := by omega
    have := stored (i - (x - x % 64)) _ (by
      rw [List.getElem?_append_left (by rw [keptBytes_length]; omega)]
      exact keptBytes_getElem? readable (by omega))
    rwa [offset] at this
  · have := zeros (i - (x - x % 64)) (by rw [length]; omega) (by omega)
    rwa [show x - x % 64 + (i - (x - x % 64)) = i by omega] at this
  · have := clean (i - (x - x % 64)) (by omega)
    rwa [show x - x % 64 + (i - (x - x % 64)) = i by omega] at this
  · exact others a fun i hi => outside _ (by omega) (by omega)
  · have only := writeSegment_only pages x bytes s
    exact ⟨only.dram canonical.1, canonical.2.sublist (only.lines.map _)⟩
  · have frame := keptState_frame (pages := pages) (x := x) (s := s)
    rw [written, writeLines, frame]
    rfl

end whole

end Sys2Proof.Machine

namespace Sys2Proof.Machine

/-! ## What a close does to one clip (R100, R101) -/

section oneClip

variable {s t u : State} {id i segment : Nat} {k : Clip}

/-- Only the record of one id may have changed, and every record keeps its id. -/
structure ClipAlone (id : Nat) (s u : State) : Prop where
  ids : u.clipLog.clips.map (·.id) = s.clipLog.clips.map (·.id)
  others : ∀ i, i ≠ id → u.clip? i = s.clip? i

namespace ClipAlone

theorem of_clips (same : u.clipLog.clips = s.clipLog.clips) : ClipAlone id s u :=
  ⟨by rw [same], fun _ _ => clip?_congr same⟩

theorem refl (id : Nat) (s : State) : ClipAlone id s s := of_clips rfl

theorem trans (h : ClipAlone id s t) (h' : ClipAlone id t u) : ClipAlone id s u :=
  ⟨h'.ids.trans h.ids, fun i ne => (h'.others i ne).trans (h.others i ne)⟩

theorem modClip {f : Clip → Clip} (hf : ∀ k, (f k).id = k.id) (s : State) : ClipAlone id s (s.modClip id f) :=
  ⟨modClip_ids hf, fun _ ne => clip?_modClip_other hf ne⟩

theorem unpinAll (range : List Nat) (h : ClipAlone id s t) : ClipAlone id s (unpinAll range t) :=
  h.trans (of_clips (congrArg ClipLog.clips (unpinAll_clipLog _ _)))

theorem raise (body : NoticeBody) (h : ClipAlone id s t) : ClipAlone id s (raise body t) :=
  h.trans (of_clips (congrArg ClipLog.clips (raise_clipLog _ _)))

theorem completeClose (out : Option Nat) (cause : CloseCause) (s : State) :
    ClipAlone id s (completeClose id out cause s) := by
  unfold Machine.completeClose
  split
  · exact .refl id s
  · refine .raise _ (.trans (.unpinAll _ ?_) (.modClip (by intro _; rfl) _))
    exact .trans (.modClip (by intro _; rfl) s) (.of_clips rfl)

theorem closeAtEnd (cause : CloseCause) (s : State) : ClipAlone id s (closeAtEnd id cause s) := by
  unfold Machine.closeAtEnd
  split
  · exact .refl id s
  · exact .trans (.modClip (by intro _; rfl) s) (.completeClose _ _ _)

theorem closeInSegment (segment : Nat) (cause : CloseCause) (s : State) :
    ClipAlone id s (closeInSegment id segment cause s) := by
  unfold Machine.closeInSegment
  repeat' split
  · exact .completeClose _ _ _
  · exact .completeClose _ _ _
  · exact .modClip (by intro _; rfl) s

theorem settleInStored (segment : Nat) (s : State) : ClipAlone id s (settleInStored segment s id) := by
  unfold Machine.settleInStored
  split
  · exact .refl id s
  · exact .unpinAll _ (.modClip (by intro _; rfl) s)

theorem settleOutStored (segment : Nat) (s : State) : ClipAlone id s (settleOutStored segment s id) := by
  unfold Machine.settleOutStored
  split
  · exact .refl id s
  · exact .closeInSegment _ _ _

theorem settleInUnstored (alreadyPaused : Bool) (s : State) : ClipAlone id s (settleInUnstored alreadyPaused s id) := by
  unfold Machine.settleInUnstored
  split
  · exact .refl id s
  · exact .unpinAll _ (.modClip (by intro _; rfl) s)

theorem settleOutUnstored (s : State) : ClipAlone id s (settleOutUnstored s id) := by
  unfold Machine.settleOutUnstored
  split
  · exact .refl id s
  · simp only
    split
    · exact .trans (.modClip (by intro _; rfl) s) (.closeInSegment _ _ _)
    · exact .completeClose _ _ _

theorem addGap (start : Timecode) (s : State) : ClipAlone id s (addGap start s id) := by
  unfold Machine.addGap
  repeat' split
  · exact .refl id s
  · exact .closeAtEnd _ _
  · exact .raise _ (.modClip (by intro _; rfl) s)

end ClipAlone

/-- A close that has completed. -/
def CloseComplete (k : Clip) : Prop := k.record = .closed ∧ k.outSegment = none

theorem clip?_modClip_closed {f : Clip → Clip} (held : (s.clip? id).isSome) (hf : ∀ k, (f k).id = k.id)
    (closed : ∀ k, CloseComplete (f k)) : ∃ k', (s.modClip id f).clip? id = some k' ∧ CloseComplete k' := by
  obtain ⟨k, held⟩ := Option.isSome_iff_exists.mp held
  exact ⟨f k, clip?_modClip_same hf held, closed k⟩

/-- A close completes (R101). -/
theorem clip?_completeClose_same (held : s.clip? id = some k) (out : Option Nat) (cause : CloseCause) :
    ∃ k', (completeClose id out cause s).clip? id = some k' ∧ CloseComplete k' := by
  unfold completeClose
  rw [held]
  simp only
  rw [clip?_congr (congrArg ClipLog.clips (raise_clipLog _ _))]
  refine clip?_modClip_closed ?_ (by intro _; rfl) (by intro _; exact ⟨rfl, rfl⟩)
  exact Option.isSome_iff_exists.mpr
    ⟨_, (clip?_congr (congrArg ClipLog.clips (unpinAll_clipLog _ _))).trans (clip?_modClip_same (by intro _; rfl) held)⟩

/-- A clip whose close is among those that complete is closed after them, and one that was closed stays closed. -/
theorem clip?_closes (closes : List Clip) (held : s.clip? i = some k) (settled : (∃ c ∈ closes, c.id = i) ∨ CloseComplete k) :
    ∃ k', (closes.foldl (fun s c => completeClose c.id (some segment) (originCause c.closeOrigin) s) s).clip? i = some k'
      ∧ CloseComplete k' := by
  induction closes generalizing s k with
  | nil =>
    rcases settled with ⟨c, mem, -⟩ | closed
    · cases mem
    · exact ⟨k, held, closed⟩
  | cons first rest ih =>
    by_cases here : i = first.id
    · subst here
      obtain ⟨k', held', closed⟩ := clip?_completeClose_same held (some segment) (originCause first.closeOrigin)
      exact ih held' (.inr closed)
    · have stays := (ClipAlone.completeClose (id := first.id) (some segment) (originCause first.closeOrigin) s).others i here
      refine ih (stays.trans held) (settled.imp_left ?_)
      rintro ⟨c, mem, named⟩
      rcases List.mem_cons.mp mem with rfl | mem
      · exact absurd named.symm here
      · exact ⟨c, mem, named⟩

end oneClip

/-! ## The close of a segment (R71, R72) -/

section closing

variable {s : State} {c : Fin 6} {reason : CloseReason} {g : Segment}

/-- The state in which a segment has closed, and the closes that wait on it have not yet completed. -/
def segmentClosed (c : Fin 6) (reason : CloseReason) (g : Segment) (s : State) : State :=
  (((padSegment g s).modSegment g.id fun g => { g with state := .complete, closeReason := some reason }).modStore
    fun st => { st with completion := st.completion ++ [g.id] }).modCoder c fun k => { k with filling := none }

theorem closeSegment_eq (here : s.fillingSegment c = some g) : closeSegment c reason s =
    if g.pinCount = 0 then reclaimPages (completeCloses g.id (segmentClosed c reason g s))
    else completeCloses g.id (segmentClosed c reason g s) := by
  unfold closeSegment
  rw [here]
  rfl

/-- What a segment that has closed leaves alone. -/
theorem segmentClosed_keeps (c : Fin 6) (reason : CloseReason) (g : Segment) (s : State) :
    (segmentClosed c reason g s).clipLog = s.clipLog
      ∧ (segmentClosed c reason g s).coders = vecSet s.coders c { s.coders[c] with filling := none }
      ∧ (segmentClosed c reason g s).store.freePool = s.store.freePool
      ∧ (segmentClosed c reason g s).store.completion = s.store.completion ++ [g.id] := by
  obtain ⟨_, _, _, _, _, frame⟩ := padSegment_frame g s
  unfold segmentClosed
  rw [frame]
  exact ⟨rfl, rfl, rfl, rfl⟩

theorem segment?_segmentClosed (held : s.segment? g.id = some g) : (segmentClosed c reason g s).segment? g.id =
    some { g with state := .complete, closeReason := some reason, byteLength := g.byteLength + g.byteLength % 2 } := by
  have padded : (padSegment g s).segment? g.id = some { g with byteLength := g.byteLength + g.byteLength % 2 } := by
    rw [padSegment_segment? held, if_pos rfl]
  exact segment?_modSegment_same (by intro _; rfl) padded

theorem segment?_segmentClosed_other (held : s.segment? g.id = some g) {other : Nat} (ne : other ≠ g.id) :
    (segmentClosed c reason g s).segment? other = s.segment? other := by
  have padded : (padSegment g s).segment? other = s.segment? other := by
    rw [padSegment_segment? held, if_neg ne]
  exact (segment?_modSegment_other (by intro _; rfl) ne).trans padded

/-- The pad byte is a zero (R71). -/
theorem memRead_segmentClosed (odd : g.byteLength % 2 = 1) (canonical : s.memoryCanonical) (distinct : g.pages.Nodup)
    (room : g.byteLength < g.pages.length * 65536) :
    memRead (segmentClosed c reason g s).store.dram (segAddress g.pages g.byteLength) = 0 := by
  obtain ⟨stored, -⟩ := writeSegment_stores (x := g.byteLength) (bytes := [0]) canonical distinct (by simpa using room)
  have padded : (segmentClosed c reason g s).store.dram = (writeSegment g.pages g.byteLength [0] s).store.dram := by
    unfold segmentClosed padSegment
    rw [if_neg (by omega)]
    rfl
  rw [padded]
  exact stored 0 0 rfl

/-- A close on which no clip waits, with no page need or a pin to spare it, is a close of the segment alone. -/
theorem closeSegment_alone (here : s.fillingSegment c = some g) (unwaited : ∀ k ∈ s.clipLog.clips, k.outSegment ≠ some g.id)
    (stays : 0 < g.pinCount ∨ 256 ≤ s.store.freePool.length) : closeSegment c reason s = segmentClosed c reason g s := by
  obtain ⟨clips, -, pool, -⟩ := segmentClosed_keeps c reason g s
  have idle : completeCloses g.id (segmentClosed c reason g s) = segmentClosed c reason g s := by
    have nobody : (s.clipLog.clips.filter fun c => c.record == .closing && c.outSegment == some g.id) = [] :=
      List.filter_eq_nil_iff.mpr fun k mem => by simp [unwaited k mem]
    unfold completeCloses
    rw [clips, nobody]
    rfl
  rw [closeSegment_eq here, idle]
  split
  · next unpinned => exact reclaimPages_of_reserve (by rw [pool]; omega)
  · rfl

/-- The channel has no filling segment once it has closed. -/
theorem closeSegment_filling (here : s.fillingSegment c = some g) : (closeSegment c reason s).coders[c].filling = none := by
  have closes : (completeCloses g.id (segmentClosed c reason g s)).coders = (segmentClosed c reason g s).coders := by
    have only := completeCloses_only g.id (segmentClosed c reason g s)
    rw [ClipOnly] at only
    rw [only]
  have coders : (closeSegment c reason s).coders = (segmentClosed c reason g s).coders := by
    rw [closeSegment_eq here]
    split
    · exact (reclaimPages_only _).coders.trans closes
    · exact closes
  obtain ⟨-, after, -, -⟩ := segmentClosed_keeps c reason g s
  rw [coders, after, vecSet_same]

/-- The closes that wait on a segment complete when it closes (R72). -/
theorem closeSegment_closes (here : s.fillingSegment c = some g) {i : Nat} {k : Clip} (held : s.clip? i = some k)
    (closing : k.record = .closing) (waits : k.outSegment = some g.id) :
    ∃ k', (closeSegment c reason s).clip? i = some k' ∧ CloseComplete k' := by
  obtain ⟨clips, -, -, -⟩ := segmentClosed_keeps c reason g s
  have listed : ∃ c' ∈ (segmentClosed c reason g s).clipLog.clips.filter
      (fun c => c.record == .closing && c.outSegment == some g.id), c'.id = i := by
    refine ⟨k, List.mem_filter.mpr ⟨?_, by simp [closing, waits]⟩, by simpa using List.find?_some held⟩
    rw [clips]
    exact mem_of_clip? held
  have closes : ∃ k', (completeCloses g.id (segmentClosed c reason g s)).clip? i = some k' ∧ CloseComplete k' :=
    clip?_closes _ ((clip?_congr (congrArg ClipLog.clips clips)).trans held) (.inl listed)
  rw [closeSegment_eq here]
  split
  · rw [clip?_congr (congrArg ClipLog.clips (reclaimPages_only _).clipLog)]
    exact closes
  · exact closes

/-- A picture that does not follow the filling segment, or would overflow it, closes it first (R69, steps 2 and 3). -/
theorem closeBefore_eq (here : s.fillingSegment c = some g) (t : Timecode) (bytes : Nat) : closeBefore c t bytes s =
    if distance g.rate (lastPicture g) t ≠ 1 then closeSegment c .discontinuity s
    else if 4194304 < g.byteLength + bytes then closeSegment c .pages s else s := by
  unfold closeBefore
  rw [here]
  simp only
  by_cases next : distance g.rate (lastPicture g) t = 1
  · have follow : (!follows g t) = false := by simp [follows, next]
    rw [if_neg (not_not.mpr next), follow]
    exact if_neg Bool.false_ne_true
  · have break_ : (!follows g t) = true := by simp [follows, next]
    rw [if_pos next, break_]
    exact if_pos rfl

end closing

/-! ## A picture that fits the pages in hand (R69, R70) -/

section fits

variable {s : State} {c : Fin 6} {bytes : List Byte} {g : Segment}

/-- A picture that fits the pages of the filling segment takes none, and fills the segment or not. -/
theorem storePicture_fits (here : s.fillingSegment c = some g)
    (room : g.byteLength + bytes.length ≤ g.pages.length * 65536) : storePicture c bytes s =
      (true, if g.pictures + 1 = g.segLength then closeSegment c .length (pictureStored c g.id (appendPicture g bytes s))
        else pictureStored c g.id (appendPicture g bytes s)) := by
  have need : pagesFor (g.byteLength + bytes.length) - g.pages.length = 0 := by
    unfold pagesFor pageSize
    omega
  have same : (s.modSegment g.id fun g => { g with pages := g.pages }) = s := by
    unfold State.modSegment
    simp only [ite_self, List.map_id']
    rfl
  unfold storePicture
  rw [here]
  simp only [need, obtainPages_zero, List.append_nil]
  rw [same]

theorem segment?_appendPicture (held : s.segment? g.id = some g) :
    (appendPicture g bytes s).segment? g.id = some (g.append bytes) :=
  (appendPicture_segment g.pages held).1

/-- The picture's bytes change the memory and one record. -/
theorem appendPicture_frame (g : Segment) (bytes : List Byte) (s : State) :
    ∃ dram lineErrors uncorrectable segments freeReads, appendPicture g bytes s = { s with
      store := { s.store with
        dram := dram, lineErrors := lineErrors, uncorrectable := uncorrectable, segments := segments }
      freeReads := freeReads } := by
  obtain ⟨_, _, _, _, write⟩ := writeSegment_frame g.pages g.byteLength bytes s
  unfold appendPicture
  rw [write]
  exact ⟨_, _, _, _, _, rfl⟩

/-- With no clip in the table a stored picture settles none. -/
theorem pictureStored_noClips (noClips : s.clipLog.clips = []) (segment : Nat) : pictureStored c segment s = s := by
  unfold pictureStored State.clipsWhere
  simp only [noClips, List.filter_nil, List.map_nil, List.foldl_nil]

/-- The picture that fills a segment closes it with LENGTH (R69, step 6). -/
theorem storePicture_fills (here : s.fillingSegment c = some g) (noClips : s.clipLog.clips = [])
    (reserve : 256 ≤ s.store.freePool.length) (room : g.byteLength + bytes.length ≤ g.pages.length * 65536)
    (last : g.pictures + 1 = g.segLength) : (storePicture c bytes s).1 = true
      ∧ (storePicture c bytes s).2.coders[c].filling = none
      ∧ (storePicture c bytes s).2.segment? g.id = some { g with
          state := .complete
          closeReason := some .length
          pictures := g.segLength
          index := g.index ++ [g.byteLength]
          byteLength := g.byteLength + bytes.length + (g.byteLength + bytes.length) % 2
          digest := onesAddBytes g.digest g.byteLength bytes } := by
  obtain ⟨filling, held⟩ := segment_of_filling here
  obtain ⟨_, _, _, segments, _, frame⟩ := appendPicture_frame g bytes s
  have appended := segment?_appendPicture (bytes := bytes) held
  have clips : (appendPicture g bytes s).clipLog.clips = [] := by rw [frame]; exact noClips
  have pool : 256 ≤ (appendPicture g bytes s).store.freePool.length := by rw [frame]; exact reserve
  have filling' : (appendPicture g bytes s).fillingSegment c = some (g.append bytes) := by
    have same : (appendPicture g bytes s).coders = s.coders := by rw [frame]
    rw [State.fillingSegment, same, filling]
    exact appended
  rw [storePicture_fits here room, if_pos last, pictureStored_noClips clips]
  refine ⟨rfl, closeSegment_filling filling', ?_⟩
  rw [closeSegment_alone filling' (by rw [clips]; simp) (.inr pool)]
  refine (segment?_segmentClosed (g := g.append bytes) appended).trans ?_
  simp only [Segment.append, last]

end fits

end Sys2Proof.Machine

namespace Sys2Proof.Machine

/-! ## The opening of a segment (R69, step 4) -/

section opening

variable {s : State} {c : Fin 6} {first : Timecode} {bytes id : Nat}

/-- The lowest record that no segment has is the FREE one that is taken (R67). -/
theorem lowestFreeRecord_eq (inTable : id < 8192) (free : ∀ g ∈ s.store.segments, g.id ≠ id)
    (below : ∀ j < id, ∃ g ∈ s.store.segments, g.id = j) : s.lowestFreeRecord = some id := by
  have few : id ≤ s.store.segments.length := by
    have used : List.range id ⊆ s.store.segments.map fun g => g.id := by
      intro j mem
      obtain ⟨g, held, named⟩ := below j (List.mem_range.mp mem)
      exact List.mem_map.mpr ⟨g, held, named⟩
    have count := (List.subperm_of_subset List.nodup_range used).length_le
    simpa using count
  unfold State.lowestFreeRecord
  rw [List.find?_range_eq_some]
  refine ⟨?_, List.mem_range.mpr (by omega), fun j hj => ?_⟩
  · simpa [inTable] using free
  · obtain ⟨g, held, named⟩ := below j hj
    have taken : (s.store.segments.any fun g => g.id == j) = true := List.any_eq_true.mpr ⟨g, held, by simpa using named⟩
    simp [taken]

/-- With the reserve left behind them, pages are taken from the pool in order, and nothing is reclaimed. -/
theorem takePages_reserve {n : Nat} (enough : 256 + n ≤ s.store.freePool.length) : takePages n s =
    (s.store.freePool.take n, s.modStore fun st => { st with freePool := st.freePool.drop n }) := by
  induction n generalizing s with
  | zero => rfl
  | succ n ih =>
    cases pool : s.store.freePool with
    | nil =>
      rw [pool] at enough
      exact absurd enough (by simp)
    | cons page rest =>
      rw [pool, List.length_cons] at enough
      have left : 256 + n ≤ (s.modStore fun st => { st with freePool := rest }).store.freePool.length := by
        show 256 + n ≤ rest.length
        omega
      unfold takePages
      rw [pool]
      simp only
      rw [reclaimPages_of_reserve (by omega), ih left]
      simp only [State.modStore, pool]
      rfl

theorem obtainPages_reserve {n : Nat} (enough : 256 + n ≤ s.store.freePool.length) : obtainPages n s =
    (some (s.store.freePool.take n), s.modStore fun st => { st with freePool := st.freePool.drop n }) := by
  have more : ¬ s.store.freePool.length < n := by omega
  unfold obtainPages
  simp only [if_neg more, takePages_reserve enough]

/-- The state in which a segment has opened, but for the clips that extend to it. -/
def withNewSegment (c : Fin 6) (first : Timecode) (bytes id : Nat) (s : State) : State :=
  ((s.modStore fun st => { st with freePool := st.freePool.drop (pagesFor bytes) }).modStore fun st =>
    { st with
      segments := insertSegment (newSegment id c s.coders[c].segLength s.timing.rate first
        (s.store.freePool.take (pagesFor bytes))) st.segments
      timelines := vecModify st.timelines c fun line => line ++ [id] }).modCoder c fun k => { k with filling := some id }

/-- With a FREE record and pages in hand, a segment opens. -/
theorem openSegment_eq (lowest : s.lowestFreeRecord = some id) (enough : 256 + pagesFor bytes ≤ s.store.freePool.length) :
    openSegment c first bytes s = (true, extendClips c id (withNewSegment c first bytes id s)) := by
  have record : (if s.lowestFreeRecord.isNone then reclaimRecord s else s) = s := by
    rw [lowest]
    rfl
  unfold openSegment
  rw [record]
  simp only [lowest, obtainPages_reserve enough]
  rfl

theorem find?_insertSegment {g : Segment} {l : List Segment} (free : ∀ h ∈ l, h.id ≠ g.id) (other : Nat) :
    (insertSegment g l).find? (fun h => h.id == other) = if other = g.id then some g else l.find? fun h => h.id == other := by
  induction l with
  | nil =>
    by_cases same : other = g.id
    · simp [insertSegment, same]
    · simp [insertSegment, same, Ne.symm same]
  | cons h rest ih =>
    obtain ⟨ne, free⟩ := List.forall_mem_cons.mp free
    unfold insertSegment
    split
    · by_cases same : other = g.id
      · simp [same]
      · simp [same, Ne.symm same]
    · by_cases same : h.id = other
      · have different : other ≠ g.id := same ▸ ne
        simp [same, different]
      · simp [same, ih free]

/-- The new record, as the clips that extend to it leave it. -/
def openedSegment (c : Fin 6) (first : Timecode) (bytes id : Nat) (s : State) : Segment :=
  { newSegment id c s.coders[c].segLength s.timing.rate first (s.store.freePool.take (pagesFor bytes)) with
    pinCount := (s.clipsWhere (openOn c)).length }

theorem segment?_opened (free : ∀ g ∈ s.store.segments, g.id ≠ id) :
    (extendClips c id (withNewSegment c first bytes id s)).segment? id = some (openedSegment c first bytes id s) := by
  have new : (withNewSegment c first bytes id s).segment? id = some (newSegment id c s.coders[c].segLength s.timing.rate
      first (s.store.freePool.take (pagesFor bytes))) :=
    (find?_insertSegment (by exact free) id).trans (if_pos rfl)
  exact segment?_modSegment_same (by intro _; rfl) new

theorem segment?_opened_other (free : ∀ g ∈ s.store.segments, g.id ≠ id) {other : Nat} (ne : other ≠ id) :
    (extendClips c id (withNewSegment c first bytes id s)).segment? other = s.segment? other := by
  have old : (withNewSegment c first bytes id s).segment? other = s.segment? other :=
    (find?_insertSegment (by exact free) other).trans (if_neg ne)
  exact (segment?_modSegment_other (by intro _; rfl) ne).trans old

/-- A clip once a segment of a channel has opened (R75). -/
def extendedClip (c : Fin 6) (id : Nat) (k : Clip) : Clip := if openOn c k then extendClip id k else k

theorem extendedClip_id (c : Fin 6) (id : Nat) (k : Clip) : (extendedClip c id k).id = k.id := by
  unfold extendedClip
  split <;> rfl

theorem clip?_extendClips (c : Fin 6) (id : Nat) (s : State) (i : Nat) :
    (extendClips c id s).clip? i = (s.clip? i).map (extendedClip c id) :=
  find?_map_records (extendedClip_id c id) s.clipLog.clips i

end opening

end Sys2Proof.Machine

namespace Sys2Proof.Machine

/-! ## A picture that cannot be stored (R78) -/

section pause

variable {s u : State} {c : Fin 6} {i : Nat} {k : Clip} {at_ start : Timecode} {bytes : List Byte}

/-! ### Settling clips one after another -/

section folds

variable {f : State → Nat → State} {l : List Nat}

/-- Settling clips leaves every other clip. -/
theorem clip?_foldl_other (alone : ∀ u a, ClipAlone a u (f u a)) (other : i ∉ l) (u : State) :
    (l.foldl f u).clip? i = u.clip? i := by
  induction l generalizing u with
  | nil => rfl
  | cons a rest ih =>
    obtain ⟨ne, other⟩ := List.ne_and_not_mem_of_not_mem_cons other
    exact (ih other _).trans ((alone u a).others i ne)

theorem clipIds_foldl (alone : ∀ u a, ClipAlone a u (f u a)) (l : List Nat) (u : State) :
    (l.foldl f u).clipLog.clips.map (·.id) = u.clipLog.clips.map (·.id) :=
  foldl_keeps (fun v : State => v.clipLog.clips.map (·.id)) (fun v a => (alone v a).ids) l u

/-- A clip that is settled once is settled as it was before. -/
theorem clip?_foldl_once (alone : ∀ u a, ClipAlone a u (f u a)) (once : l.Nodup) (mem : i ∈ l) (u : State) :
    ∃ v, v.clip? i = u.clip? i ∧ (l.foldl f u).clip? i = (f v i).clip? i := by
  obtain ⟨before, after, rfl⟩ := List.append_of_mem mem
  obtain ⟨-, tail, apart⟩ := List.nodup_append.mp once
  have notBefore : i ∉ before := fun inside => apart i inside i List.mem_cons_self rfl
  have notAfter : i ∉ after := (List.nodup_cons.mp tail).1
  refine ⟨before.foldl f u, clip?_foldl_other alone notBefore u, ?_⟩
  rw [List.foldl_append, List.foldl_cons]
  exact clip?_foldl_other alone notAfter _

end folds

/-- A clip is among those that satisfy a test exactly when it does. -/
theorem mem_clipsWhere_iff (p : Clip → Bool) (once : (u.clipLog.clips.map (·.id)).Nodup) (held : u.clip? i = some k) :
    i ∈ u.clipsWhere p ↔ p k = true := mem_clipsWhere once held

/-- A pause adds its gap to a clip that has room for it (R97). -/
theorem clip?_addGap (held : s.clip? i = some k) (room : k.gaps.length < 16) : (addGap start s i).clip? i =
    some { k with truncated := true, gaps := k.gaps ++ [⟨start, none, k.lastSegment⟩] } := by
  unfold addGap
  rw [held]
  simp only [if_neg (Nat.not_le.mpr room)]
  rw [clip?_congr (congrArg ClipLog.clips (raise_clipLog _ _))]
  exact clip?_modClip_same (by intro _; rfl) held

/-- A pause reaches every OPEN clip of the channel that waits for no point (R97). -/
theorem clip?_pictureUnstored (once : (s.clipLog.clips.map (·.id)).Nodup) (held : s.clip? i = some k)
    (opens : openOn c k = true) (inPlaced : k.inPending = false) (outPlaced : k.outPending = false)
    (room : k.gaps.length < 16) : (pictureUnstored c (some start) s).clip? i =
      some { k with truncated := true, gaps := k.gaps ++ [⟨start, none, k.lastSegment⟩] } := by
  have inAlone : ∀ u a, ClipAlone a u (settleInUnstored (some start).isNone u a) := fun u _ => .settleInUnstored _ u
  have outAlone : ∀ u a, ClipAlone a u (settleOutUnstored u a) := fun u _ => .settleOutUnstored u
  have gapAlone : ∀ u a, ClipAlone a u (addGap start u a) := fun u _ => .addGap start u
  unfold pictureUnstored
  simp only
  have inSettled : ((s.clipsWhere fun k => openOn c k && k.inPending).foldl (settleInUnstored (some start).isNone) s).clip? i
      = some k := by
    refine (clip?_foldl_other inAlone (fun mem => ?_) s).trans held
    simp [mem_clipsWhere_iff _ once held, inPlaced] at mem
  have inIds := (clipIds_foldl inAlone (s.clipsWhere fun k => openOn c k && k.inPending) s).symm ▸ once
  generalize (s.clipsWhere fun k => openOn c k && k.inPending).foldl (settleInUnstored (some start).isNone) s = v
    at inSettled inIds ⊢
  have reached : i ∈ v.clipsWhere fun k => openOn c k && !k.outPending := by
    simp [mem_clipsWhere_iff _ inIds inSettled, opens, outPlaced]
  obtain ⟨w, before, gapped⟩ := clip?_foldl_once gapAlone (clipsWhere_nodup _ inIds) reached v
  rw [clip?_addGap (before.trans inSettled) room] at gapped
  have gapIds := (clipIds_foldl gapAlone (v.clipsWhere fun k => openOn c k && !k.outPending) v).symm ▸ inIds
  refine (clip?_foldl_other outAlone (fun mem => ?_) _).trans gapped
  simp [mem_clipsWhere_iff _ gapIds gapped, outPlaced] at mem

/-- With no clip in the table an unstored picture settles none. -/
theorem pictureUnstored_noClips (noClips : s.clipLog.clips = []) (pauseStart : Option Timecode) :
    pictureUnstored c pauseStart s = s := by
  unfold pictureUnstored State.clipsWhere
  cases pauseStart <;> simp only [noClips, List.filter_nil, List.map_nil, List.foldl_nil]

/-- With too few pages and every segment pinned, no segment opens and nothing changes. -/
theorem openSegment_fails (few : s.store.freePool.length < (bytes.length + 65535) / 65536)
    (pinned : ∀ g ∈ s.store.segments, 0 < g.pinCount) : openSegment c at_ bytes.length s = (false, s) := by
  have nothing : s.firstUnpinned = none :=
    firstUnpinned_none_iff.mpr fun id _ g held => pinned g (List.mem_of_find?_eq_some held)
  have record : (if s.lowestFreeRecord.isNone then reclaimRecord s else s) = s := by
    unfold reclaimRecord
    rw [nothing]
    exact ite_self s
  have reclaim : reclaimPages s = s := reclaimPages_of_none nothing
  have fewer : s.store.freePool.length < pagesFor bytes.length := few
  have pages : obtainPages (pagesFor bytes.length) s = (none, s) := by
    unfold obtainPages
    simp only [if_pos fewer, reclaim]
  unfold openSegment
  rw [record]
  cases lowest : s.lowestFreeRecord with
  | none => simp only [lowest]
  | some id => simp only [lowest, pages]

/-- A picture handed over to a PAUSED writer that still cannot store is counted (R79). -/
theorem handOver_stillPaused (paused : s.store.writers[c].state = .paused)
    (fails : openSegment c at_ bytes.length s = (false, s)) : handOver c at_ bytes s =
      pictureUnstored c none ((s.modWriter c fun w => { w with unstored := w.unstored + 1 }).modStore
        fun st => { st with unstored := st.unstored + 1 }) := by
  unfold handOver resumeWriter
  rw [if_pos paused, fails]

/-- A writer with no filling segment that cannot open one pauses (R78). -/
theorem handOver_pauses (writing : s.store.writers[c].state ≠ .paused) (idle : s.coders[c].filling = none)
    (fails : openSegment c at_ bytes.length s = (false, s)) : handOver c at_ bytes s = pauseWriter c at_ s := by
  have before : closeBefore c at_ bytes.length s = s := by
    unfold closeBefore State.fillingSegment
    rw [idle]
    rfl
  unfold handOver
  rw [if_neg writing, before]
  simp only [idle, Option.isNone_none, if_true, fails]
  rfl

theorem ClipOnly.writer (h : ClipOnly s u) : u.coders = s.coders ∧ u.store.writers = s.store.writers
    ∧ u.store.unstored = s.store.unstored ∧ u.timing = s.timing := by
  rw [id h]
  exact ⟨rfl, rfl, rfl, rfl⟩

/-- The state in which a writer has just paused, before the clips learn of it. -/
def justPaused (c : Fin 6) (at_ : Timecode) (s : State) : State :=
  (s.modWriter c fun _ => ⟨.paused, some at_, 1⟩).modStore fun st => { st with unstored := st.unstored + 1 }

theorem pauseWriter_eq (c : Fin 6) (at_ : Timecode) (s : State) : pauseWriter c at_ s =
    raise (.storeFull c at_ (pictureUnstored c (some at_) (justPaused c at_ s)).store.freePool.length
      (pictureUnstored c (some at_) (justPaused c at_ s)).freeRecords)
      (pictureUnstored c (some at_) (justPaused c at_ s)) := rfl

/-- A picture that cannot be stored (R78). -/
theorem handOver_unstored (few : s.store.freePool.length < (bytes.length + 65535) / 65536)
    (pinned : ∀ g ∈ s.store.segments, 0 < g.pinCount) (idle : s.coders[c].filling = none) :
    let w := s.store.writers[c]
    let t := handOver c at_ bytes s
    t.coders[c].filling = none ∧ t.store.unstored = s.store.unstored + 1
      ∧ (w.state = .paused → t.store.writers[c] = { w with unstored := w.unstored + 1 })
      ∧ (w.state ≠ .paused → t.store.writers[c] = ⟨.paused, some at_, 1⟩
          ∧ ((s.clipLog.clips.map fun k => k.id).Nodup → ∀ i k, s.clip? i = some k → k.record = .opened →
              k.channel = c → k.inPending = false → k.outPending = false → k.gaps.length < 16 →
              ∃ k', t.clip? i = some k' ∧ k'.truncated = true
                ∧ k'.gaps = k.gaps ++ [⟨at_, none, k.range.getLast?⟩])
          ∧ (s.clipLog.clips = [] → t.control = queueNotice ⟨.storeFull c at_ s.store.freePool.length
              (8192 - s.store.segments.length), s.timing.timecode⟩ s.control)) := by
  intro w t
  have fails := openSegment_fails (c := c) (at_ := at_) few pinned
  by_cases paused : w.state = .paused
  · have after : t = _ := handOver_stillPaused paused fails
    obtain ⟨coders, writers, unstored, -⟩ := (pictureUnstored_only c none ((s.modWriter c fun w =>
      { w with unstored := w.unstored + 1 }).modStore fun st => { st with unstored := st.unstored + 1 })).writer
    rw [← after] at coders writers unstored
    refine ⟨?_, unstored, fun _ => ?_, fun writing => absurd paused writing⟩
    · rw [coders]
      exact idle
    · rw [writers]
      exact vecModify_same _ _ _
  · have after : t = pauseWriter c at_ s := handOver_pauses paused idle fails
    obtain ⟨coders, writers, unstored, -⟩ := (pictureUnstored_only c (some at_) (justPaused c at_ s)).writer
    rw [after, pauseWriter_eq]
    refine ⟨?_, ?_, fun h => absurd h paused, fun _ => ⟨?_, fun once i k held opened on inPlaced outPlaced room => ?_,
      fun noClips => ?_⟩⟩
    · rw [raise_of_not_protocol _ rfl]
      show (pictureUnstored c (some at_) (justPaused c at_ s)).coders[c].filling = none
      rw [coders]
      exact idle
    · rw [raise_store]
      exact unstored
    · rw [raise_store, writers]
      exact vecModify_same _ _ _
    · rw [clip?_congr (congrArg ClipLog.clips (raise_clipLog _ _))]
      exact ⟨_, clip?_pictureUnstored (s := justPaused c at_ s) once held (openOn_iff.mpr ⟨opened, on⟩) inPlaced outPlaced
        room, rfl, rfl⟩
    · rw [pictureUnstored_noClips (s := justPaused c at_ s) noClips, raise_of_not_protocol _ rfl]
      rfl

end pause

end Sys2Proof.Machine

namespace Sys2Proof.Machine

/-! ## What the clips leave of the store while the reserve is at hand (R74, R76) -/

/-- With the reserve at hand the pool stays, and every segment stays and changes at most its pins. -/
def ReserveKept (s t : State) : Prop := 256 ≤ s.store.freePool.length →
  t.store.freePool = s.store.freePool ∧ ∀ i g, s.segment? i = some g → ∃ pins, t.segment? i = some { g with pinCount := pins }

namespace ReserveKept

variable {s t u : State}

theorem of_store (same : t.store = s.store) : ReserveKept s t := fun _ =>
  ⟨by rw [same], fun _ g held => ⟨g.pinCount, (segment?_congr (congrArg Store.segments same)).trans held⟩⟩

theorem refl (s : State) : ReserveKept s s := of_store rfl

theorem trans (h : ReserveKept s t) (h' : ReserveKept t u) : ReserveKept s u := by
  intro reserve
  obtain ⟨pool, kept⟩ := h reserve
  obtain ⟨pool', kept'⟩ := h' (by rw [pool]; exact reserve)
  refine ⟨pool'.trans pool, fun i g held => ?_⟩
  obtain ⟨pins, held'⟩ := kept i g held
  exact kept' i { g with pinCount := pins } held'

/-- What a state with the same store keeps. -/
theorem after (h : ReserveKept t u) (same : t.store = s.store) : ReserveKept s u := (of_store same).trans h

theorem unpin (id : Nat) (s : State) : ReserveKept s (unpin id s) := by
  intro reserve
  rw [unpin_reserve id reserve]
  exact ⟨rfl, fun i g held => ⟨_, segment?_modSegment_lessPins id held⟩⟩

theorem foldl {ι : Type} {f : State → ι → State} (step : ∀ u a, ReserveKept u (f u a)) (l : List ι) (u : State) :
    ReserveKept u (l.foldl f u) := foldl_related ReserveKept refl trans step l u

theorem unpinAll (ids : List Nat) (s : State) : ReserveKept s (unpinAll ids s) := foldl (fun u id => unpin id u) ids s

theorem completeClose (id : Nat) (out : Option Nat) (cause : CloseCause) (s : State) :
    ReserveKept s (completeClose id out cause s) := by
  unfold Machine.completeClose
  split
  · exact .refl s
  · refine .trans ?_ (.of_store (raise_store _ _))
    refine .trans ?_ (.of_store rfl)
    exact (unpinAll _ _).after rfl

theorem closeInSegment (id segment : Nat) (cause : CloseCause) (s : State) :
    ReserveKept s (closeInSegment id segment cause s) := by
  unfold Machine.closeInSegment
  repeat' split
  · exact completeClose _ _ _ _
  · exact completeClose _ _ _ _
  · exact .of_store rfl

theorem settleInStored (segment : Nat) (s : State) (id : Nat) : ReserveKept s (settleInStored segment s id) := by
  unfold Machine.settleInStored
  split
  · exact .refl s
  · exact (unpinAll _ _).after rfl

theorem settleOutStored (segment : Nat) (s : State) (id : Nat) : ReserveKept s (settleOutStored segment s id) := by
  unfold Machine.settleOutStored
  split
  · exact .refl s
  · exact closeInSegment _ _ _ _

theorem pictureStored (c : Fin 6) (segment : Nat) (s : State) : ReserveKept s (pictureStored c segment s) :=
  (foldl (settleInStored segment) _ s).trans (foldl (settleOutStored segment) _ _)

end ReserveKept

/-! ## A picture with which a writer resumes (R79) -/

section resume

variable {s : State} {c : Fin 6} {i id : Nat} {k : Clip} {at_ : Timecode} {bytes : List Byte}

/-- A stored picture settles the clips that wait for it, and no other one (R96, R100). -/
theorem clip?_pictureStored (once : (s.clipLog.clips.map (·.id)).Nodup) (held : s.clip? i = some k)
    (inPlaced : k.inPending = false) (outPlaced : k.outPending = false) (segment : Nat) :
    (pictureStored c segment s).clip? i = some k := by
  have inAlone : ∀ u a, ClipAlone a u (settleInStored segment u a) := fun u _ => .settleInStored segment u
  have outAlone : ∀ u a, ClipAlone a u (settleOutStored segment u a) := fun u _ => .settleOutStored segment u
  have inSettled : ((s.clipsWhere fun k => openOn c k && k.inPending).foldl (settleInStored segment) s).clip? i = some k := by
    refine (clip?_foldl_other inAlone (fun mem => ?_) s).trans held
    simp [mem_clipsWhere_iff _ once held, inPlaced] at mem
  have inIds := (clipIds_foldl inAlone (s.clipsWhere fun k => openOn c k && k.inPending) s).symm ▸ once
  refine (clip?_foldl_other outAlone (fun mem => ?_) _).trans inSettled
  simp [mem_clipsWhere_iff _ inIds inSettled, outPlaced] at mem

/-- The state in which a new segment has opened for a picture. -/
def segmentOpened (c : Fin 6) (at_ : Timecode) (bytes : List Byte) (id : Nat) (s : State) : State :=
  extendClips c id (withNewSegment c at_ bytes.length id s)

/-- The state in which the picture has been stored in its new segment. -/
def storedFirst (c : Fin 6) (at_ : Timecode) (bytes : List Byte) (id : Nat) (s : State) : State :=
  pictureStored c id (appendPicture (openedSegment c at_ bytes.length id s) bytes (segmentOpened c at_ bytes id s))

/-- The state in which the writer is WRITING again, and the open gaps are closed. -/
def writingAgain (c : Fin 6) (at_ : Timecode) (u : State) : State :=
  closeGaps c at_ (u.modWriter c fun w => { w with state := .writing })

/-- The opening of a segment leaves what the pause knows. -/
theorem segmentOpened_keeps : (segmentOpened c at_ bytes id s).coders = vecSet s.coders c { s.coders[c] with filling := some id }
    ∧ (segmentOpened c at_ bytes id s).store.writers = s.store.writers
    ∧ (segmentOpened c at_ bytes id s).timing = s.timing ∧ (segmentOpened c at_ bytes id s).control = s.control
    ∧ (segmentOpened c at_ bytes id s).store.freePool = s.store.freePool.drop (pagesFor bytes.length) :=
  ⟨rfl, rfl, rfl, rfl, rfl⟩

theorem segmentOpened_filling (free : ∀ g ∈ s.store.segments, g.id ≠ id) :
    (segmentOpened c at_ bytes id s).fillingSegment c = some (openedSegment c at_ bytes.length id s) := by
  refine fillingSegment_of ?_ (segment?_opened free)
  rw [segmentOpened_keeps.1, vecSet_same]

/-- The first picture of the new segment, stored. -/
theorem storePicture_opened (free : ∀ g ∈ s.store.segments, g.id ≠ id) (more : 1 < s.coders[c].segLength)
    (enough : 256 + pagesFor bytes.length ≤ s.store.freePool.length) :
    storePicture c bytes (segmentOpened c at_ bytes id s) = (true, storedFirst c at_ bytes id s) := by
  have room : (openedSegment c at_ bytes.length id s).byteLength + bytes.length
      ≤ (openedSegment c at_ bytes.length id s).pages.length * 65536 := by
    show 0 + bytes.length ≤ (s.store.freePool.take (pagesFor bytes.length)).length * 65536
    rw [List.length_take, Nat.min_eq_left (by omega)]
    unfold pagesFor pageSize
    omega
  have goesOn : (openedSegment c at_ bytes.length id s).pictures + 1 ≠ (openedSegment c at_ bytes.length id s).segLength := by
    show 0 + 1 ≠ s.coders[c].segLength
    omega
  rw [storePicture_fits (segmentOpened_filling free) room, if_neg goesOn]
  rfl

/-- A PAUSED writer that can open a segment resumes (R79). -/
theorem handOver_resumes (paused : s.store.writers[c].state = .paused) (lowest : s.lowestFreeRecord = some id)
    (free : ∀ g ∈ s.store.segments, g.id ≠ id) (more : 1 < s.coders[c].segLength)
    (enough : 256 + pagesFor bytes.length ≤ s.store.freePool.length) :
    handOver c at_ bytes s = endPause c (some at_) (writingAgain c at_ (storedFirst c at_ bytes id s)) := by
  have opens : openSegment c at_ bytes.length s = (true, segmentOpened c at_ bytes id s) := openSegment_eq lowest enough
  unfold handOver resumeWriter
  rw [if_pos paused, opens]
  simp only [storePicture_opened free more enough]
  rfl

/-- What the first picture leaves of the writer, the channel and the time. -/
theorem storedFirst_keeps : (storedFirst c at_ bytes id s).coders = (segmentOpened c at_ bytes id s).coders
    ∧ (storedFirst c at_ bytes id s).store.writers = s.store.writers ∧ (storedFirst c at_ bytes id s).timing = s.timing := by
  obtain ⟨_, _, _, _, _, frame⟩ := appendPicture_frame (openedSegment c at_ bytes.length id s) bytes (segmentOpened c at_ bytes id s)
  obtain ⟨coders, writers, -, timing⟩ := (pictureStored_only c id
    (appendPicture (openedSegment c at_ bytes.length id s) bytes (segmentOpened c at_ bytes id s))).writer
  unfold storedFirst
  rw [coders, writers, timing, frame]
  exact ⟨rfl, rfl, rfl⟩

/-- The new segment holds its first picture, whatever the clips do. -/
theorem segment?_storedFirst (free : ∀ g ∈ s.store.segments, g.id ≠ id)
    (enough : 256 + pagesFor bytes.length ≤ s.store.freePool.length) : ∃ pins, (storedFirst c at_ bytes id s).segment? id =
      some { (openedSegment c at_ bytes.length id s).append bytes with pinCount := pins } := by
  obtain ⟨_, _, _, _, _, frame⟩ := appendPicture_frame (openedSegment c at_ bytes.length id s) bytes (segmentOpened c at_ bytes id s)
  have reserve : 256 ≤ (appendPicture (openedSegment c at_ bytes.length id s) bytes
      (segmentOpened c at_ bytes id s)).store.freePool.length := by
    rw [frame]
    show 256 ≤ (s.store.freePool.drop (pagesFor bytes.length)).length
    rw [List.length_drop]
    omega
  obtain ⟨-, kept⟩ := ReserveKept.pictureStored c id _ reserve
  exact kept id _ (segment?_appendPicture (g := openedSegment c at_ bytes.length id s) (segment?_opened free))

theorem clips_appendPicture (g : Segment) (bytes : List Byte) (s : State) : (appendPicture g bytes s).clipLog = s.clipLog := by
  obtain ⟨_, _, _, _, _, frame⟩ := appendPicture_frame g bytes s
  rw [frame]

/-- A clip that waits for no point extends to the new segment, and nothing else of it changes. -/
theorem clip?_storedFirst (once : (s.clipLog.clips.map (·.id)).Nodup) (held : s.clip? i = some k)
    (inPlaced : k.inPending = false) (outPlaced : k.outPending = false) :
    (storedFirst c at_ bytes id s).clip? i = some (extendedClip c id k) := by
  have clips := clips_appendPicture (openedSegment c at_ bytes.length id s) bytes (segmentOpened c at_ bytes id s)
  have extended : (segmentOpened c at_ bytes id s).clip? i = some (extendedClip c id k) := by
    refine (clip?_extendClips c id _ i).trans ?_
    rw [show (withNewSegment c at_ bytes.length id s).clip? i = s.clip? i from rfl, held]
    rfl
  have points : (extendedClip c id k).inPending = k.inPending ∧ (extendedClip c id k).outPending = k.outPending := by
    unfold extendedClip
    split <;> exact ⟨rfl, rfl⟩
  refine clip?_pictureStored ?_ ((clip?_congr (congrArg ClipLog.clips clips)).trans extended) (points.1.trans inPlaced)
    (points.2.trans outPlaced) id
  rw [clips]
  show ((s.clipLog.clips.map (extendedClip c id)).map (·.id)).Nodup
  rw [List.map_map]
  exact (List.map_congr_left fun k _ => extendedClip_id c id k) ▸ once

theorem clip?_closeGaps (c : Fin 6) (stop : Timecode) (s : State) (i : Nat) : (closeGaps c stop s).clip? i =
    (s.clip? i).map fun k => if openOn c k then countGaps s.timing.rate stop k else k :=
  find?_map_records (countGaps_id _ _) s.clipLog.clips i

/-- The end of a pause is a notice and a writer with no gap (R79). -/
theorem endPause_keeps (c : Fin 6) (stored : Option Timecode) (u : State) :
    (endPause c stored u).store.writers = vecModify u.store.writers c (fun w => { w with gapStart := none, unstored := 0 })
      ∧ (endPause c stored u).coders = u.coders ∧ (endPause c stored u).store.segments = u.store.segments
      ∧ (endPause c stored u).clipLog = u.clipLog
      ∧ (endPause c stored u).control = queueNotice ⟨.storeResumed c stored
          (u.store.writers[c].gapStart.getD u.timing.timecode) u.store.writers[c].unstored, u.timing.timecode⟩ u.control := by
  rw [endPause, raise_of_not_protocol _ rfl]
  exact ⟨rfl, rfl, rfl, rfl, rfl⟩

/-- A writer that is WRITING again has changed itself and gaps of clips alone. -/
theorem writingAgain_keeps (c : Fin 6) (at_ : Timecode) (u : State) :
    (writingAgain c at_ u).store.writers = vecModify u.store.writers c (fun w => { w with state := .writing })
      ∧ (writingAgain c at_ u).coders = u.coders ∧ (writingAgain c at_ u).store.segments = u.store.segments
      ∧ (writingAgain c at_ u).timing = u.timing ∧ (writingAgain c at_ u).control = u.control
      ∧ ∀ i, (writingAgain c at_ u).clip? i = (u.clip? i).map fun k =>
          if openOn c k then countGaps u.timing.rate at_ k else k :=
  ⟨rfl, rfl, rfl, rfl, rfl, fun i => clip?_closeGaps c at_ _ i⟩

/-- With no clip in the table the first picture raises no notice. -/
theorem storedFirst_control (noClips : s.clipLog.clips = []) : (storedFirst c at_ bytes id s).control = s.control := by
  have noClips' : (appendPicture (openedSegment c at_ bytes.length id s) bytes (segmentOpened c at_ bytes id s)).clipLog.clips = [] := by
    rw [clips_appendPicture]
    show s.clipLog.clips.map _ = []
    rw [noClips]
    rfl
  obtain ⟨_, _, _, _, _, frame⟩ :=
    appendPicture_frame (openedSegment c at_ bytes.length id s) bytes (segmentOpened c at_ bytes id s)
  unfold storedFirst
  rw [pictureStored_noClips noClips', frame]
  rfl

/-- The picture with which a writer resumes (R79). -/
theorem handOver_resumed (paused : s.store.writers[c].state = .paused) (more : 1 < s.coders[c].segLength)
    (enough : 256 + (bytes.length + 65535) / 65536 ≤ s.store.freePool.length) (inTable : id < 8192)
    (free : ∀ g ∈ s.store.segments, g.id ≠ id) (below : ∀ j < id, ∃ g ∈ s.store.segments, g.id = j) :
    let w := s.store.writers[c]
    let t := handOver c at_ bytes s
    t.store.writers[c] = ⟨.writing, none, 0⟩ ∧ t.coders[c].filling = some id
      ∧ (∃ g, t.segment? id = some g ∧ g.pictures = 1 ∧ g.firstTimecode = at_ ∧ g.index = [0]
          ∧ g.byteLength = bytes.length ∧ g.digest = onesAddBytes 0 0 bytes)
      ∧ (∀ start, w.gapStart = some start → s.clipLog.clips = [] → t.control = queueNotice
          ⟨.storeResumed c (some at_) start w.unstored, s.timing.timecode⟩ s.control)
      ∧ ((s.clipLog.clips.map fun k => k.id).Nodup → ∀ i k, s.clip? i = some k → k.record = .opened →
          k.channel = c → k.inPending = false → k.outPending = false → ∃ k', t.clip? i = some k'
            ∧ k'.gaps = k.gaps.map fun gap =>
                { gap with count := some (gap.count.getD (distance s.timing.rate gap.start at_)) }) := by
  intro w t
  have after : t = endPause c (some at_) (writingAgain c at_ (storedFirst c at_ bytes id s)) :=
    handOver_resumes paused (lowestFreeRecord_eq inTable free below) free more enough
  obtain ⟨coders, writers, timing⟩ := storedFirst_keeps (c := c) (at_ := at_) (bytes := bytes) (id := id) (s := s)
  obtain ⟨writers', coders', segments', timing', control', clips'⟩ :=
    writingAgain_keeps c at_ (storedFirst c at_ bytes id s)
  obtain ⟨writersEnd, codersEnd, segmentsEnd, clipsEnd, controlEnd⟩ :=
    endPause_keeps c (some at_) (writingAgain c at_ (storedFirst c at_ bytes id s))
  have writer : (writingAgain c at_ (storedFirst c at_ bytes id s)).store.writers[c] = { w with state := .writing } := by
    rw [writers', writers, vecModify_same]
  rw [after]
  refine ⟨?_, ?_, ?_, fun start gap noClips => ?_, fun once i k held isOpen on inPlaced outPlaced => ?_⟩
  · rw [writersEnd, vecModify_same, writer]
  · rw [codersEnd, coders', coders, segmentOpened_keeps.1, vecSet_same]
  · obtain ⟨pins, held⟩ := segment?_storedFirst (c := c) (at_ := at_) free enough
    refine ⟨_, (segment?_congr (segmentsEnd.trans segments')).trans held, rfl, rfl, rfl, Nat.zero_add _, rfl⟩
  · rw [controlEnd, writer, gap, timing', timing, control', storedFirst_control noClips]
    rfl
  · have opens : openOn c k = true := openOn_iff.mpr ⟨isOpen, on⟩
    have extended : extendedClip c id k = extendClip id k := if_pos opens
    have stillOpens : openOn c (extendClip id k) = true := opens
    have stored := clip?_storedFirst (c := c) (at_ := at_) (bytes := bytes) (id := id) once held inPlaced outPlaced
    refine ⟨countGaps s.timing.rate at_ (extendClip id k), ?_, rfl⟩
    rw [clip?_congr (congrArg ClipLog.clips clipsEnd), clips', stored, extended, Option.map_some, if_pos stillOpens, timing]

end resume

end Sys2Proof.Machine

namespace Sys2Proof.Machine

/-! ## O33 -/

section clauses

variable {s : State} {c : Fin 6} {id : Nat} {g : Segment}

/-- The close of a segment (R71, R72). -/
theorem closeSegment_changes (reason : CloseReason) (filling : s.coders[c].filling = some id) (held : s.segment? id = some g) :
    let t := closeSegment c reason s
    t.coders[c].filling = none
      ∧ (∀ i k, s.clip? i = some k → k.record = .closing → k.outSegment = some id →
          ∃ k', t.clip? i = some k' ∧ k'.record = .closed ∧ k'.outSegment = none)
      ∧ ((∀ k ∈ s.clipLog.clips, k.outSegment ≠ some id) → 0 < g.pinCount ∨ 256 ≤ s.store.freePool.length →
          t.segment? id = some { g with
              state := .complete, closeReason := some reason, byteLength := g.byteLength + g.byteLength % 2 }
            ∧ t.store.completion = s.store.completion ++ [id] ∧ t.clipLog = s.clipLog
            ∧ t.coders = vecSet s.coders c { s.coders[c] with filling := none }
            ∧ (∀ other, other ≠ id → t.segment? other = s.segment? other)
            ∧ (g.byteLength % 2 = 1 → s.memoryCanonical → g.pages.Nodup → g.byteLength < g.pages.length * 65536 →
                memRead t.store.dram (segAddress g.pages g.byteLength) = 0)) := by
  intro t
  have here : s.fillingSegment c = some g := fillingSegment_of filling held
  obtain rfl := id_of_segment? held
  refine ⟨closeSegment_filling here, fun i k found closing waits => closeSegment_closes here found closing waits,
    fun unwaited stays => ?_⟩
  have alone : t = segmentClosed c reason g s := closeSegment_alone here unwaited stays
  obtain ⟨clips, coders, -, completion⟩ := segmentClosed_keeps c reason g s
  rw [alone]
  exact ⟨segment?_segmentClosed held, completion, clips, coders, fun other ne => segment?_segmentClosed_other held ne,
    memRead_segmentClosed⟩

/-- The opening of a segment (R69, R75). -/
theorem openSegment_changes (first : Timecode) (bytes : Nat) (inTable : id < 8192) (free : ∀ g ∈ s.store.segments, g.id ≠ id)
    (below : ∀ j < id, ∃ g ∈ s.store.segments, g.id = j) :
    let need := (bytes + 65535) / 65536
    let onChannel := fun k : Clip => k.record = .opened ∧ k.channel = c
    256 + need ≤ s.store.freePool.length →
    ∃ t, openSegment c first bytes s = (true, t)
      ∧ t.segment? id = some
        { id := id, state := .filling, channel := c, segLength := s.coders[c].segLength, rate := s.timing.rate
          firstTimecode := first, pictures := 0, index := [], byteLength := 0, pages := s.store.freePool.take need
          digest := 0, closeReason := none, pinCount := (s.clipLog.clips.filter fun k => onChannel k).length
          damage := none, badPages := [] }
      ∧ (∀ other, other ≠ id → t.segment? other = s.segment? other)
      ∧ t.store.freePool = s.store.freePool.drop need
      ∧ t.store.timelines = vecSet s.store.timelines c (s.store.timelines[c] ++ [id])
      ∧ t.coders = vecSet s.coders c { s.coders[c] with filling := some id }
      ∧ ∀ i k, s.clip? i = some k → ∃ k', t.clip? i = some k'
          ∧ (onChannel k → k' = { k with range := k.range ++ [id], cursor := k'.cursor })
          ∧ (¬onChannel k → k' = k) := by
  intro need onChannel enough
  have pins : (s.clipLog.clips.filter fun k => onChannel k).length = (s.clipsWhere (openOn c)).length := by
    have test : ∀ k ∈ s.clipLog.clips, decide (onChannel k) = openOn c k := fun k _ => by
      rw [Bool.eq_iff_iff, openOn_iff, decide_eq_true_iff]
    rw [State.clipsWhere, List.length_map, List.filter_congr test]
  refine ⟨_, openSegment_eq (lowestFreeRecord_eq inTable free below) enough, ?_, fun other ne => segment?_opened_other free ne,
    rfl, rfl, rfl, fun i k held => ⟨extendedClip c id k, ?_, fun on => ?_, fun off => ?_⟩⟩
  · rw [segment?_opened free, pins]
    rfl
  · rw [clip?_extendClips]
    exact congrArg (Option.map (extendedClip c id)) held
  · rw [extendedClip, if_pos (openOn_iff.mpr on)]
    rfl
  · exact if_neg fun opens => off (openOn_iff.mp opens)

end clauses

/-- Settles O33: a close, an opening, the picture before and after which a segment closes, a pause with its end, and the lines
that the writer writes, one lemma for each. -/
theorem theWriterStoresInItsSegmentAlone : Obligations.TheWriterStoresInItsSegmentAlone := by
  unfold Obligations.TheWriterStoresInItsSegmentAlone
  refine ⟨fun s c reason id g filling held => closeSegment_changes reason filling held,
    fun s c first bytes id inTable free below => openSegment_changes first bytes inTable free below,
    fun s c at_ bytes g here => closeBefore_eq here at_ bytes,
    fun s c bytes g here noClips reserve room last => storePicture_fills here noClips reserve room last,
    fun s c at_ bytes => ⟨handOver_unstored, fun paused more enough id inTable free below =>
      handOver_resumed paused more enough inTable free below⟩,
    fun s pages x bytes canonical distinct fits => writeSegment_stores canonical distinct fits⟩

end Sys2Proof.Machine

namespace Sys2Proof.Machine

/-! ## Requests that name a clip (R92) -/

section named

variable {s t : State} {kind : RequestKind} {owner : List Byte → State → Reply × State} {body rest : List Byte}
  {code : ResultCode} {contents : ReplyContents} {high low : Byte} {id : Nat} {c : Clip}

theorem bodyClip_cons : bodyClip (high :: low :: rest) s = s.clipNamed (high.toNat * 256 + low.toNat) := by
  rw [bodyClip, field_zero_two]

theorem id_of_clipNamed (h : s.clipNamed id = some c) : c.id = id := by
  have found := List.find?_some h
  rw [Bool.and_eq_true, beq_iff_eq] at found
  exact found.1

theorem runRequest_ok (asks : s.asks kind body) (hl : lengthOk kind body = true) (e : owner body s = answerOk contents t) :
    runRequest kind owner s = answered ⟨.ok, contents⟩ t := by
  rw [runRequest_eq asks hl, e, answerOk_fst, answerOk_snd]

theorem thenCheck_of_refuse (e : owner body s = refuse code s) (ok : code ≠ .ok) (accepted : code ≠ .accepted) :
    thenCheck owner body s = refuse code s := by
  unfold thenCheck
  rw [e]
  cases code with
  | ok => exact absurd rfl ok
  | accepted => exact absurd rfl accepted
  | _ => rfl

/-- The scheduler does not go on after a refusal, and goes on after a request that was carried out (R180). -/
theorem runRequest_serve_refused (asks : s.asks kind body) (hl : lengthOk kind body = true)
    (e : owner body s = refuse code s) (ok : code ≠ .ok := by decide) (accepted : code ≠ .accepted := by decide) :
    runRequest kind (thenServe owner) s = refusedWith code s :=
  runRequest_refused asks hl (thenServe_of_refuse e ok accepted)

theorem runRequest_serve_ok (asks : s.asks kind body) (hl : lengthOk kind body = true)
    (e : owner body s = answerOk contents t) :
    runRequest kind (thenServe owner) s = answered ⟨.ok, contents⟩ (serve t) :=
  runRequest_ok asks hl (thenServe_ok e)

theorem runRequest_serve_accepted (asks : s.asks kind body) (hl : lengthOk kind body = true)
    (e : owner body s = answerAccepted contents t) :
    runRequest kind (thenServe owner) s = answered ⟨.accepted, contents⟩ (serve t) := by
  rw [runRequest_eq asks hl, thenServe_accepted e, answerAccepted_fst, answerAccepted_snd]

/-- The checks of a waiting clip are made again after a request that was carried out alone (R187). -/
theorem runRequest_check_refused (asks : s.asks kind body) (hl : lengthOk kind body = true)
    (e : owner body s = refuse code s) (ok : code ≠ .ok := by decide) (accepted : code ≠ .accepted := by decide) :
    runRequest kind (thenCheck owner) s = refusedWith code s :=
  runRequest_refused asks hl (thenCheck_of_refuse e ok accepted)

theorem runRequest_check_ok (asks : s.asks kind body) (hl : lengthOk kind body = true)
    (e : owner body s = answerOk contents t) :
    runRequest kind (thenCheck owner) s = answered ⟨.ok, contents⟩ (serve (waitChecks t)) :=
  runRequest_ok asks hl (thenCheck_ok e)

end named

/-! ## CLIP_LABEL (R105) -/

section label

variable {s : State} {high low : Byte} {label : List Byte} {c : Clip}

theorem clipLabel_unnamed (h : s.clipNamed (high.toNat * 256 + low.toNat) = none) :
    clipLabel (high :: low :: label) s = refuse .notFound s := by
  rw [clipLabel, bodyClip_cons, h]

theorem clipLabel_named (h : s.clipNamed (high.toNat * 256 + low.toNat) = some c) :
    clipLabel (high :: low :: label) s = if c.started then refuse .badState s
      else answerOk (.labelled (decide (32 < label.length))) (s.modClip (high.toNat * 256 + low.toNat) fun k =>
        { k with label := (label.take 32).map printable }) := by
  rw [clipLabel, bodyClip_cons, h, ← id_of_clipNamed h]
  rfl

end label

/-- Settles O38: the label is replaced unless the clip has started. -/
theorem clipLabelReplacesTheLabel : Obligations.ClipLabelReplacesTheLabel := by
  intro s high low label asks
  have length : lengthOk .clipLabel (high :: low :: label) = true := by simp [lengthOk]
  refine ⟨fun unnamed => ?_, fun c named => ⟨fun started => ?_, fun fresh => ?_⟩⟩
  · exact runRequest_refused asks length (clipLabel_unnamed unnamed)
  · refine runRequest_refused asks length ?_
    rw [clipLabel_named named, if_pos started]
  · refine runRequest_ok asks length ?_
    rw [clipLabel_named named, fresh]
    rfl

/-! ## Bodies with an optional timecode (Table 10-4) -/

section points

variable {flags : Byte} {point rest : List Byte}

/-- The flags and the point of a body that carries an optional timecode. -/
theorem pointBytes_eq (p : Option (Byte × Byte × Byte × Byte)) :
    ∃ flags point, pointBytes p = flags :: point ∧ flags.toNat < 2 ∧ point.length = 4 * (flags.toNat % 2) := by
  rcases p with - | ⟨hh, mm, ss, ff⟩
  · exact ⟨0, [], rfl, by decide, rfl⟩
  · exact ⟨1, [hh, mm, ss, ff], rfl, by decide, rfl⟩

theorem maskBit_zero (n : Nat) : maskBit n 0 = decide (n % 2 = 1) := Nat.testBit_zero n

/-- A flags byte with a bit beyond bit 0 is not defined (R206). -/
theorem maskDefined_one (n : Nat) : maskDefined n 1 = decide (n < 2) := rfl

theorem optionalPoint_succ (b : Byte) (body : List Byte) (k : Nat) :
    optionalPoint (k + 1) (b :: body) = optionalPoint k body := by
  simp [optionalPoint, timecodeField]

theorem optionalPoint_pointBytes (p : Option (Byte × Byte × Byte × Byte)) (rest : List Byte) :
    optionalPoint 0 (pointBytes p ++ rest) = pointTimecode p := by
  rcases p with - | ⟨hh, mm, ss, ff⟩ <;> simp [pointBytes, pointTimecode, optionalPoint, maskBit_zero, timecodeField]

/-- A body that ends in an optional timecode has a right length when the timecode is there as its flag says. -/
theorem pointLengthOk_flags (front : List Byte) (hp : point.length = 4 * (flags.toNat % 2)) :
    pointLengthOk front.length (front ++ flags :: point) = true := by
  have bit : field (front ++ flags :: point) front.length 1 = flags.toNat := by simp [field, numberOf]
  unfold pointLengthOk
  rw [bit, maskBit_zero]
  rcases Nat.mod_two_eq_zero_or_one flags.toNat with even | odd
  · simp [even, hp]
  · simp [odd, hp]

end points

/-! ## CLIP_MARK (R103) -/

section mark

variable {s : State} {high low flags kind size : Byte} {point note : List Byte} {c : Clip} {t : Timecode}

theorem markKindAt_flags (hp : point.length = 4 * (flags.toNat % 2)) :
    markKindAt (high :: low :: flags :: point ++ kind :: size :: note) = point.length + 3 := by
  have bit : field (high :: low :: flags :: point ++ kind :: size :: note) 2 1 = flags.toNat := by simp [field, numberOf]
  unfold markKindAt
  rw [bit, maskBit_zero]
  rcases Nat.mod_two_eq_zero_or_one flags.toNat with even | odd
  · simp [even, hp]
  · simp [odd, hp]

/-- Where the fields behind the optional timecode lie. -/
theorem field_behindPoint (k n : Nat) : field (high :: low :: flags :: point ++ kind :: size :: note) (point.length + 3 + k) n =
    field (kind :: size :: note) k n := by
  unfold field
  rw [show point.length + 3 + k = (high :: low :: flags :: point).length + k by simp, List.drop_append,
    List.drop_eq_nil_of_le (by simp)]
  simp

theorem clipMark_lengthOk (hp : point.length = 4 * (flags.toNat % 2)) (hn : note.length = size.toNat) :
    lengthOk .clipMark (high :: low :: flags :: point ++ kind :: size :: note) = true := by
  have noted : field (high :: low :: flags :: point ++ kind :: size :: note) (point.length + 3 + 1) 1 = size.toNat := by
    rw [field_behindPoint, field_succ, field_zero_one]
  show clipMarkLengthOk _ = true
  rw [clipMarkLengthOk, markKindAt_flags hp, noted, ← hn]
  simp
  omega

/-- What a CLIP_MARK body says: its flags, its kind, its timecode and its note (Table 10-4). -/
structure Marks (body : List Byte) (flags kind : Nat) (p : Option Timecode) (note : List Byte) : Prop where
  flags : field body 2 1 = flags
  kind : field body (markKindAt body) 1 = kind
  point : optionalPoint 2 body = p
  note : (body.drop (markKindAt body + 2)).take (field body (markKindAt body + 1) 1) = note

theorem marks_cons (hp : point.length = 4 * (flags.toNat % 2)) (hn : note.length = size.toNat) :
    Marks (high :: low :: flags :: point ++ kind :: size :: note) flags.toNat kind.toNat
      (optionalPoint 2 (high :: low :: flags :: point ++ kind :: size :: note)) note := by
  refine ⟨by simp [field, numberOf], ?_, rfl, ?_⟩
  · rw [markKindAt_flags hp]
    exact (field_behindPoint 0 1).trans (field_zero_one _ _)
  · rw [markKindAt_flags hp, field_behindPoint, field_succ, field_zero_one, ← hn,
      show point.length + 3 + 2 = (high :: low :: flags :: point ++ [kind, size]).length by simp,
      show high :: low :: flags :: point ++ kind :: size :: note =
        (high :: low :: flags :: point ++ [kind, size]) ++ note by simp,
      List.drop_left, List.take_length]

variable {body : List Byte} {f n : Nat} {p : Option Timecode}

/-- Checks of CLIP_MARK on the body alone (R103, R206). -/
theorem clipMark_badValue (m : Marks body f n p note) (bad : 1 < f ∨ 15 < n ∨ s.validPoint p = false) :
    clipMark body s = refuse .badValue s := by
  unfold clipMark
  simp only [m.flags, m.kind, m.point, maskDefined_one]
  refine if_pos ?_
  simpa [or_assoc] using bad

theorem clipMark_unnamed (m : Marks body f n p note) (defined : f < 2) (kinds : n ≤ 15) (valid : s.validPoint p = true)
    (unnamed : bodyClip body s = none) : clipMark body s = refuse .notFound s := by
  unfold clipMark
  simp [m.flags, m.kind, m.point, maskDefined_one, defined, kinds, valid, unnamed]

/-- CLIP_MARK once its body has passed and the clip is found: its checks on the clip, in their order (R103). -/
theorem clipMark_named (m : Marks body f n p note) (defined : f < 2) (kinds : n ≤ 15) (valid : s.validPoint p = true)
    (named : bodyClip body s = some c) (ht : t = p.getD s.timing.timecode) : clipMark body s =
      if c.send ∈ [SendState.sent, .failed] then refuse .badState s
      else if s.inFuture t = true ∨ s.earlier t c.inPoint = true ∨ ∃ out, c.outPoint = some out ∧ s.earlier out t = true then
        refuse .badValue s
      else if 8 ≤ c.markers.length then refuse .noRoom s
      else answerOk (.marked c.markers.length (decide (16 < note.length))) (s.modClip c.id fun k =>
        { k with markers := k.markers ++ [⟨t, n, (note.take 16).map printable⟩] }) := by
  unfold clipMark
  simp [m.flags, m.kind, m.point, m.note, maskDefined_one, defined, kinds, valid, named, ← ht, Option.any_eq_true, or_assoc]

end mark

/-- Settles O37: the checks of CLIP_MARK in their order, and the marker that passes them. -/
theorem clipMarkAddsAMarker : Obligations.ClipMarkAddsAMarker := by
  refine ⟨fun s high low flags kind size point note asks undefined hp hn => ?_,
    fun s high low kind size p note asks hn => ?_⟩
  · exact runRequest_serve_refused asks (clipMark_lengthOk hp hn) (clipMark_badValue (marks_cons hp hn) (.inl undefined))
  · obtain ⟨flags, point, bytes, defined, hp⟩ := pointBytes_eq p
    have length := clipMark_lengthOk (high := high) (low := low) (kind := kind) hp hn
    have marks := marks_cons (high := high) (low := low) (kind := kind) hp hn
    have carried : optionalPoint 2 (high :: low :: flags :: point ++ kind :: size :: note) = pointTimecode p := by
      rw [← optionalPoint_pointBytes p (kind :: size :: note), bytes]
      exact (optionalPoint_succ _ _ 1).trans (optionalPoint_succ _ _ 0)
    rw [carried] at marks
    rw [bytes] at asks
    refine ⟨fun bad => ?_, fun kinds valid => ⟨fun unnamed => ?_, fun c named => ?_⟩⟩
    · exact runRequest_serve_refused asks length (clipMark_badValue marks (.inr bad))
    · exact runRequest_serve_refused asks length (clipMark_unnamed marks defined kinds valid (bodyClip_cons.trans unnamed))
    · have marked := clipMark_named marks defined kinds valid (bodyClip_cons.trans named) rfl
      rw [id_of_clipNamed named, hn] at marked
      refine ⟨fun ended => ?_, fun unended => ⟨fun outside => ?_, fun inside full => ?_, fun inside room => ?_⟩⟩
      · exact runRequest_serve_refused asks length (marked.trans (if_pos ended))
      · rw [if_neg unended, if_pos outside] at marked
        exact runRequest_serve_refused asks length marked
      · rw [if_neg unended, if_neg inside, if_pos full] at marked
        exact runRequest_serve_refused asks length marked
      · rw [if_neg unended, if_neg inside, if_neg (Nat.not_le.mpr room)] at marked
        exact runRequest_serve_ok asks length marked

end Sys2Proof.Machine

namespace Sys2Proof.Machine

/-! ## Rating, holding, releasing and sending a clip (R106, R107, R110, R111) -/

section sending

variable {s : State} {high low rating urgent : Byte} {rest : List Byte} {c : Clip}

theorem clipRate_unnamed (h : s.clipNamed (high.toNat * 256 + low.toNat) = none) :
    clipRate (high :: low :: rest) s = refuse .notFound s := by
  rw [clipRate, bodyClip_cons, h]

theorem clipRate_named (h : s.clipNamed (high.toNat * 256 + low.toNat) = some c) :
    clipRate [high, low, rating, urgent] s =
      if 7 < rating.toNat ∨ 1 < urgent.toNat then refuse .badValue s
      else if c.send ∈ [SendState.sent, .failed] then refuse .badState s
      else answerOk .none (s.modClip (high.toNat * 256 + low.toNat) fun k =>
        { k with rating := rating.toNat, urgent := urgent.toNat == 1 }) := by
  rw [clipRate, bodyClip_cons, h, ← id_of_clipNamed h]
  simp

theorem clipHold_unnamed (h : s.clipNamed (high.toNat * 256 + low.toNat) = none) :
    clipHold (high :: low :: rest) s = refuse .notFound s := by
  rw [clipHold, bodyClip_cons, h]

theorem clipHold_named (h : s.clipNamed (high.toNat * 256 + low.toNat) = some c) : clipHold (high :: low :: rest) s =
    answerOk .none (s.modClip (high.toNat * 256 + low.toNat) fun k => { k with hold := true }) := by
  rw [clipHold, bodyClip_cons, h, ← id_of_clipNamed h]

theorem clipRelease_unnamed (h : s.clipNamed (high.toNat * 256 + low.toNat) = none) :
    clipRelease (high :: low :: rest) s = refuse .notFound s := by
  rw [clipRelease, bodyClip_cons, h]

/-- The state that a release leaves (R111). -/
def released (id : Nat) (before : SendState) (s : State) : State :=
  let t := s.modClip id fun k => { k with hold := false }
  if before = .held then setSend id .queued .released t else t

theorem clipRelease_named (h : s.clipNamed (high.toNat * 256 + low.toNat) = some c) : clipRelease (high :: low :: rest) s =
    answerOk .none (released (high.toNat * 256 + low.toNat) c.send s) := by
  rw [clipRelease, bodyClip_cons, h, ← id_of_clipNamed h]
  rfl

theorem clip?_released {id : Nat} (held : s.clip? id = some c) : (released id c.send s).clip? id =
    some { c with hold := false, send := if c.send = .held then .queued else c.send } := by
  have free := clip?_modClip_same (f := fun k => { k with hold := false }) (by intro _; rfl) held
  unfold released
  dsimp only
  split
  · exact clip?_setSend_same free
  · exact free

theorem clip?_released_other {id other : Nat} (before : SendState) (ne : other ≠ id) :
    (released id before s).clip? other = s.clip? other := by
  have free : (s.modClip id fun k => { k with hold := false }).clip? other = s.clip? other :=
    clip?_modClip_other (by intro _; rfl) ne
  unfold released
  dsimp only
  split
  · exact (clip?_setSend_other ne).trans free
  · exact free

theorem clipSend_unnamed (h : s.clipNamed (high.toNat * 256 + low.toNat) = none) :
    clipSend (high :: low :: rest) s = refuse .notFound s := by
  rw [clipSend, bodyClip_cons, h]

/-- A send from its start: the cursor before START and what the last send left removed (R107). -/
def Clip.sendAnew (c : Clip) : Clip :=
  { c with cursor := some (freshCursor []), started := false, markersSent := 0, resendUsed := false, sendDigest := none }

/-- The state that CLIP_SEND leaves (R107). -/
def queuedAnew (id : Nat) (s : State) : State :=
  setSend id .queued .send ((takeQueueNumber id s).modClip id Clip.sendAnew)

theorem clipSend_named (h : s.clipNamed (high.toNat * 256 + low.toNat) = some c) : clipSend (high :: low :: rest) s =
    if c.send ≠ .idle ∨ c.record = .closing then refuse .badState s
    else answerOk .none (queuedAnew (high.toNat * 256 + low.toNat) s) := by
  rw [clipSend, bodyClip_cons, h, ← id_of_clipNamed h]
  rfl

theorem clip?_takeQueueNumber {id : Nat} (held : s.clip? id = some c) :
    (takeQueueNumber id s).clip? id = some { c with queueNumber := some s.clipLog.queueCounter } :=
  clip?_modClip_same (f := fun c => { c with queueNumber := some s.clipLog.queueCounter }) (by intro _; rfl) held

theorem clip?_takeQueueNumber_other {id other : Nat} (ne : other ≠ id) :
    (takeQueueNumber id s).clip? other = s.clip? other :=
  clip?_modClip_other (f := fun c => { c with queueNumber := some s.clipLog.queueCounter }) (by intro _; rfl) ne

/-- After a change of send state the allocator holds the demand there is (R108). -/
theorem setSend_demand {id : Nat} (after : SendState) (cause : SendCause) (held : s.clip? id = some c) :
    (setSend id after cause s).alloc.clipDemand = (setSend id after cause s).clipDemand := by
  unfold setSend
  rw [held]
  simp only
  rw [updateDemand_clipDemand]
  unfold State.clipDemand
  conv_rhs => rw [show _ = _ from updateDemand_only _]

/-- A QUEUED clip is clip demand (R108). -/
theorem clipDemand_of_queued {id : Nat} (held : s.clip? id = some c) (queued : c.send = .queued) : s.clipDemand = true :=
  List.any_eq_true.mpr ⟨c, mem_of_clip? held, by simp [queued]⟩

theorem clip?_queuedAnew {id : Nat} (held : s.clip? id = some c) : (queuedAnew id s).clip? id =
    some { c.sendAnew with queueNumber := some s.clipLog.queueCounter, send := .queued } :=
  clip?_setSend_same (clip?_modClip_same (by intro _; rfl) (clip?_takeQueueNumber held))

theorem clip?_queuedAnew_other {id other : Nat} (ne : other ≠ id) : (queuedAnew id s).clip? other = s.clip? other :=
  (clip?_setSend_other ne).trans ((clip?_modClip_other (by intro _; rfl) ne).trans (clip?_takeQueueNumber_other ne))

/-- What CLIP_SEND changes beside the record: the queue counter and the clip demand (R107, R108). -/
theorem queuedAnew_changes {id : Nat} (held : s.clip? id = some c) :
    (queuedAnew id s).clipLog.queueCounter = s.clipLog.queueCounter + 1
      ∧ (queuedAnew id s).alloc.clipDemand = true
      ∧ queuedAnew id s = { s with
          clipLog := (queuedAnew id s).clipLog
          alloc := (queuedAnew id s).alloc
          control := (queuedAnew id s).control } := by
  have only := setSend_only id .queued .send ((takeQueueNumber id s).modClip id Clip.sendAnew)
  have numbered : ((takeQueueNumber id s).modClip id Clip.sendAnew).clip? id = _ :=
    clip?_modClip_same (by intro _; rfl) (clip?_takeQueueNumber held)
  refine ⟨congrArg (fun u => u.clipLog.queueCounter) only, ?_, ?_⟩
  · exact (setSend_demand .queued .send numbered).trans (clipDemand_of_queued (clip?_queuedAnew held) rfl)
  · rw [show queuedAnew id s = _ from only]
    rfl

end sending

/-- Settles O39: each of the four requests finds its clip or refuses, and changes its own fields of the record. -/
theorem clipsAreRatedHeldAndSent : Obligations.ClipsAreRatedHeldAndSent := by
  refine fun s high low => ⟨fun unnamed => ⟨fun rating urgent asks => ?_, fun asks => ?_, fun asks => ?_, fun asks => ?_⟩,
    fun c held alive => ⟨fun rating urgent asks => ?_, fun asks => ?_, fun asks => ?_, fun asks => ?_⟩⟩
  · exact runRequest_check_refused asks rfl (clipRate_unnamed unnamed)
  · exact runRequest_check_refused asks rfl (clipHold_unnamed unnamed)
  · exact runRequest_check_refused asks rfl (clipRelease_unnamed unnamed)
  · exact runRequest_check_refused asks rfl (clipSend_unnamed unnamed)
  · have rated := clipRate_named (rating := rating) (urgent := urgent) (clipNamed_of_clip? held alive)
    refine ⟨fun beyond => ?_, fun within defined ended => ?_, fun within defined unended => ?_⟩
    · exact runRequest_check_refused asks rfl (rated.trans (if_pos (.inl beyond)))
    · rw [if_neg (by omega), if_pos ended] at rated
      exact runRequest_check_refused asks rfl rated
    · rw [if_neg (by omega), if_neg unended] at rated
      exact runRequest_check_ok asks rfl rated
  · exact runRequest_check_ok asks rfl (clipHold_named (clipNamed_of_clip? held alive))
  · exact ⟨_, _, runRequest_check_ok asks rfl (clipRelease_named (clipNamed_of_clip? held alive)), clip?_released held, rfl,
      fun other ne => clip?_released_other c.send ne⟩
  · have sent := clipSend_named (rest := []) (clipNamed_of_clip? held alive)
    refine ⟨fun bad => ?_, fun idle settled => ⟨_, ?_, clip?_queuedAnew held, fun other ne => clip?_queuedAnew_other ne,
      queuedAnew_changes held⟩⟩
    · exact runRequest_check_refused asks rfl (sent.trans (if_pos bad))
    · rw [if_neg (not_or.mpr ⟨not_not.mpr idle, settled⟩)] at sent
      exact runRequest_check_ok asks rfl sent

/-! ## The end of a wait for a confirm (R114 to R116) -/

section confirm

variable {s : State} {id : Nat} {c : Clip}

/-- The record of a clip that is sent again, before it takes its queue number: a RESEND item that names the first segment
of its range goes first (R116). -/
def Clip.resent (c : Clip) : Clip :=
  { c with
    resendUsed := true, sendDigest := none, confirmDeadline := none
    cursor := some (freshCursor [.resend c.firstSegment]), started := false, markersSent := 0 }

/-- The record of a clip whose send is over. -/
def Clip.doneSending (c : Clip) : Clip := { c with confirmDeadline := none, queueNumber := none, cursor := none }

/-- The second end of a wait makes the clip FAILED (R116). -/
theorem endWait_used {cause : SendCause} (held : s.clip? id = some c) (used : c.resendUsed = true) :
    endWait id cause s = setSend id .failed cause (s.modClip id Clip.doneSending) := by
  unfold endWait
  rw [held]
  exact if_pos used

/-- The first end of a wait queues the clip again (R116). -/
theorem endWait_unused {cause : SendCause} (held : s.clip? id = some c) (unused : c.resendUsed = false) :
    endWait id cause s =
      setSend id .queued cause (takeQueueNumber id (s.modClip id Clip.resent)) := by
  unfold endWait
  rw [held]
  exact if_neg (Bool.eq_false_iff.mp unused)

/-- A wait has ended: one resend, then FAILED (R116). -/
structure WaitEnded (s u : State) (id : Nat) (c k : Clip) : Prop where
  held : u.clip? id = some k
  deadline : k.confirmDeadline = none
  others : ∀ other, other ≠ id → u.clip? other = s.clip? other
  failed : c.resendUsed = true → k.send = .failed ∧ k.cursor = none
  resent : c.resendUsed = false → k.send = .queued ∧ k.resendUsed = true ∧ k.sendDigest = none
    ∧ k.started = false ∧ k.queueNumber = some s.clipLog.queueCounter
    ∧ k.cursor = some ⟨.beforeStart, [.resend c.range.head?], 0, 0, 0, []⟩

theorem endWait_ended (cause : SendCause) (held : s.clip? id = some c) : ∃ k, WaitEnded s (endWait id cause s) id c k := by
  cases used : c.resendUsed with
  | true =>
    rw [endWait_used held used]
    refine ⟨_, clip?_setSend_same (clip?_modClip_same (by intro _; rfl) held), rfl, fun other ne => ?_, fun _ => ⟨rfl, rfl⟩,
      fun unused => ?_⟩
    · exact (clip?_setSend_other ne).trans (clip?_modClip_other (by intro _; rfl) ne)
    · rw [used] at unused
      exact nomatch unused
  | false =>
    have again : (s.modClip id Clip.resent).clip? id = _ := clip?_modClip_same (by intro _; rfl) held
    rw [endWait_unused held used]
    refine ⟨_, clip?_setSend_same (clip?_takeQueueNumber again), rfl, fun other ne => ?_, fun used' => ?_,
      fun _ => ⟨rfl, rfl, rfl, rfl, rfl, rfl⟩⟩
    · exact (clip?_setSend_other ne).trans ((clip?_takeQueueNumber_other ne).trans (clip?_modClip_other (by intro _; rfl) ne))
    · rw [used] at used'
      exact nomatch used'

/-- A confirm of a clip that does not wait for one is ignored and reported (R114). -/
theorem confirmClip_ignored {path : Fin 4} {digest : Digest} (h : ∀ c, s.clipNamed id = some c → c.send ≠ .awaitConfirm) :
    confirmClip path id digest s = raise (.confirmIgnored path id digest) s := by
  unfold confirmClip
  cases named : s.clipNamed id with
  | none => rfl
  | some c => exact if_pos (h c named)

theorem confirmClip_waiting {path : Fin 4} {digest : Digest} (named : s.clipNamed id = some c)
    (waits : c.send = .awaitConfirm) :
    confirmClip path id digest s = if c.sendDigest = some digest then
        setSend id .sent .confirmed (s.modClip id Clip.doneSending)
      else endWait id .mismatch s := by
  unfold confirmClip
  rw [named]
  exact if_neg (not_not.mpr waits)

/-- A timeout of a clip that does not wait has no effect (notes/assumptions/2.md). -/
theorem confirmTimeout_idle (h : ∀ c, s.clip? id = some c → c.send ≠ .awaitConfirm) :
    exec (.confirmTimeout id) s = finish s := by
  show execConfirmTimeout id s = _
  have nobody : ((s.clip? id).filter fun c => c.send == .awaitConfirm) = none := by
    rw [Option.filter_eq_none_iff]
    exact fun c held => by simpa using h c held
  rw [execConfirmTimeout, nobody]

theorem confirmTimeout_waiting {t : Time} (held : s.clip? id = some c) (waits : c.send = .awaitConfirm)
    (due : c.confirmDeadline = some t) :
    exec (.confirmTimeout id) s = finish (serve (endWait id .timeout (s.passTo t))) := by
  show execConfirmTimeout id s = _
  have found : ((s.clip? id).filter fun c => c.send == .awaitConfirm) = some c := by
    rw [held]
    simp [waits]
  rw [execConfirmTimeout, found]
  simp only [due]

end confirm

/-- Settles O41: a confirm or a timeout is ignored when no clip waits, and ends the wait of one that does. -/
theorem aConfirmEndsTheWait : Obligations.AConfirmEndsTheWait := by
  refine ⟨fun s path id digest idle => confirmClip_ignored idle, fun s id idle => confirmTimeout_idle idle,
    fun s id c held alive waits => ⟨fun path digest matches_ => ?_, fun path digest mismatch => ?_, fun t due => ?_⟩⟩
  · rw [confirmClip_waiting (clipNamed_of_clip? held alive) waits, if_pos matches_]
    exact ⟨_, clip?_setSend_same (clip?_modClip_same (by intro _; rfl) held), rfl, rfl⟩
  · rw [confirmClip_waiting (clipNamed_of_clip? held alive) waits, if_neg mismatch]
    obtain ⟨k, ended⟩ := endWait_ended .mismatch held
    exact ⟨k, ended.held, ended.deadline, ended.others, ended.failed, ended.resent⟩
  · obtain ⟨k, ended⟩ := endWait_ended (s := s.passTo t) .timeout held
    refine ⟨_, confirmTimeout_waiting held waits due, ?_, k, ended.held, ended.deadline, ended.others, ended.failed,
      ended.resent⟩
    rw [(endWait_only id .timeout (s.passTo t)).state]
    rfl

end Sys2Proof.Machine

namespace Sys2Proof.Machine

/-! ## Placing an in-point (R95) -/

/-- The newest of the items that pass a test, from the end back. -/
theorem find?_reverse_newest {α : Type} {p : α → Bool} {before after : List α} {a : α} (passes : p a = true)
    (newer : ∀ x ∈ after, p x = false) : (before ++ a :: after).reverse.find? p = some a :=
  List.find?_eq_some_iff_append.mpr ⟨passes, after.reverse, before.reverse, by simp, by simpa using newer⟩

section placing

variable {s : State} {c : Fin 6} {t : Timecode} {g oldest : Segment} {line before after : List Segment}

/-- The segment's pictures include a timecode (R68). -/
abbrev Segment.holds (g : Segment) (t : Timecode) : Prop := distance g.rate g.firstTimecode t < g.pictures

theorem pictureIndex_isSome (g : Segment) (t : Timecode) : (pictureIndex g t).isSome = decide (g.holds t) := by
  unfold pictureIndex
  dsimp only
  split <;> simp_all [Segment.holds]

/-- The timeline holds a timecode in the newest segment that does (R68). -/
theorem locate_newest (split : s.timelineNow c = before ++ g :: after) (holds : g.holds t) (newer : ∀ h ∈ after, ¬h.holds t) :
    s.locate c t = some g := by
  unfold State.locate
  rw [split]
  exact find?_reverse_newest (by simpa [pictureIndex_isSome] using holds) (by simpa [pictureIndex_isSome] using newer)

theorem newest_of_locate (found : s.locate c t = some g) : ∃ before after, s.timelineNow c = before ++ g :: after
    ∧ g.holds t ∧ ∀ h ∈ after, ¬h.holds t := by
  obtain ⟨holds, newer, older, split, fresh⟩ := List.find?_eq_some_iff_append.mp found
  refine ⟨older.reverse, newer.reverse, ?_, by simpa [pictureIndex_isSome] using holds, fun h mem => ?_⟩
  · have back := congrArg List.reverse split
    simpa using back
  · simpa [pictureIndex_isSome] using fresh h (List.mem_reverse.mp mem)

theorem locate_none (nowhere : ∀ g ∈ s.timelineNow c, ¬g.holds t) : s.locate c t = none := by
  unfold State.locate
  simpa [pictureIndex_isSome] using nowhere

/-- The picture in progress, not yet handed over, is waited for. -/
theorem placeNow_waits (waits : s.coders[c].handed = false) (clamped : Bool) :
    s.placeNow c clamped = ⟨s.timing.timecode, clamped, true, s.coders[c].filling, false⟩ := by
  unfold State.placeNow
  rw [waits]
  rfl

theorem placeIn_now (now : t = s.timing.timecode) (waits : s.coders[c].handed = false) :
    s.placeIn c t = ⟨t, false, true, s.coders[c].filling, false⟩ := by
  unfold State.placeIn
  rw [if_pos ⟨now, waits⟩, placeNow_waits waits, now]

section settled

variable (settled : t ≠ s.timing.timecode ∨ s.coders[c].handed = true)
include settled

/-- An in-point that does not wait is looked for on the timeline. -/
theorem not_waiting : ¬(t = s.timing.timecode ∧ s.coders[c].handed = false) := fun ⟨now, waits⟩ =>
  settled.elim (fun other => other now) fun handed => Bool.eq_false_iff.mp waits handed

theorem placeIn_located (found : s.locate c t = some g) : s.placeIn c t = ⟨t, false, false, some g.id, false⟩ := by
  unfold State.placeIn
  rw [if_neg (not_waiting settled), found]

theorem placeIn_noPicture (empty : s.timelineNow c = []) (waits : s.coders[c].handed = false) :
    s.placeIn c t = ⟨s.timing.timecode, true, true, s.coders[c].filling, false⟩ := by
  have nowhere : s.locate c t = none := locate_none (by simp [empty])
  have nothing : s.oldestRetained c = none := by simp [State.oldestRetained, empty]
  have other : t ≠ s.timing.timecode := settled.resolve_right (Bool.eq_false_iff.mp waits)
  unfold State.placeIn
  rw [if_neg (not_waiting settled), nowhere, nothing]
  simp only [placeNow_waits waits, bne_iff_ne.mpr other]

variable (nowhere : s.locate c t = none)
include nowhere

theorem placeIn_before (first : s.oldestRetained c = some oldest) (before : s.earlier t oldest.firstTimecode = true) :
    s.placeIn c t = ⟨oldest.firstTimecode, true, false, some oldest.id, false⟩ := by
  unfold State.placeIn
  rw [if_neg (not_waiting settled), nowhere, first]
  exact if_pos before

theorem placeIn_between (first : s.oldestRetained c = some oldest) (late : s.earlier t oldest.firstTimecode = false)
    (next : ((s.timelineNow c).find? fun g => s.earlier t g.firstTimecode) = some g) :
    s.placeIn c t = ⟨g.firstTimecode, true, false, some g.id, false⟩ := by
  unfold State.placeIn
  rw [if_neg (not_waiting settled), nowhere, first]
  simp only [late, next]
  rfl

theorem placeIn_pause (first : s.oldestRetained c = some oldest) (late : s.earlier t oldest.firstTimecode = false)
    (last : ((s.timelineNow c).find? fun g => s.earlier t g.firstTimecode) = none) (paused : s.inPause c t = true) :
    s.placeIn c t = ⟨t, false, false, none, true⟩ := by
  unfold State.placeIn
  rw [if_neg (not_waiting settled), nowhere, first]
  simp only [late, last, paused]
  rfl

end settled

theorem inPause_of_start {start : Timecode} (paused : s.store.writers[c].state = .paused)
    (gap : s.store.writers[c].gapStart = some start) (since : s.earlier t start = false) : s.inPause c t = true := by
  unfold State.inPause
  rw [paused, gap]
  simp [since]

end placing

/-- The cases of R95 in their order. -/
theorem placeIn_cases (s : State) (c : Fin 6) (t : Timecode) :
    let line := s.timelineNow c
    let holds := fun g : Segment => distance g.rate g.firstTimecode t < g.pictures
    (t = s.timing.timecode → s.coders[c].handed = false → s.placeIn c t = ⟨t, false, true, s.coders[c].filling, false⟩)
    ∧ (t ≠ s.timing.timecode ∨ s.coders[c].handed = true →
        (∀ before g after, line = before ++ g :: after → holds g → (∀ h ∈ after, ¬holds h) →
          s.placeIn c t = ⟨t, false, false, some g.id, false⟩)
        ∧ (line = [] → s.coders[c].handed = false →
            s.placeIn c t = ⟨s.timing.timecode, true, true, s.coders[c].filling, false⟩)
        ∧ ((∀ g ∈ line, ¬holds g) →
            (∀ oldest rest, line = oldest :: rest → s.earlier t oldest.firstTimecode = true →
              s.placeIn c t = ⟨oldest.firstTimecode, true, false, some oldest.id, false⟩)
            ∧ (∀ oldest before g after, line = oldest :: before ++ g :: after →
                (∀ h ∈ oldest :: before, s.earlier t h.firstTimecode = false) → s.earlier t g.firstTimecode = true →
                s.placeIn c t = ⟨g.firstTimecode, true, false, some g.id, false⟩)
            ∧ (∀ start, line ≠ [] → (∀ h ∈ line, s.earlier t h.firstTimecode = false) →
                s.store.writers[c].state = .paused → s.store.writers[c].gapStart = some start →
                s.earlier t start = false → s.placeIn c t = ⟨t, false, false, none, true⟩))) := by
  intro line holds
  refine ⟨placeIn_now, fun settled => ⟨fun before g after split inside newer => ?_, placeIn_noPicture settled,
    fun nowhere => ⟨fun oldest rest split early => ?_, fun oldest before g after split late early => ?_,
      fun start some_ late paused gap since => ?_⟩⟩⟩
  · exact placeIn_located settled (locate_newest split inside newer)
  · exact placeIn_before settled (locate_none nowhere) (congrArg List.head? split) early
  · refine placeIn_between settled (locate_none nowhere) (congrArg List.head? split) (late oldest List.mem_cons_self) ?_
    exact List.find?_eq_some_iff_append.mpr ⟨early, oldest :: before, after, split, fun h inside => by simp [late h inside]⟩
  · obtain ⟨oldest, rest, split⟩ := List.exists_cons_of_ne_nil some_
    refine placeIn_pause settled (locate_none nowhere) (congrArg List.head? split)
      (late oldest (split ▸ List.mem_cons_self)) ?_ (inPause_of_start paused gap since)
    exact List.find?_eq_none.mpr fun h inside => by simp [late h inside]

/-! ## CLIP_OPEN (R94) -/

section slots

variable {s : State}

/-- No slot is free when each number is taken. -/
theorem freeSlot_eq_none (taken : ∀ slot < 256, ∃ k ∈ s.clipLog.clips, k.slot = slot) : s.freeSlot = none := by
  simpa [State.freeSlot] using taken

/-- The lowest free slot is the one whose lower numbers are all taken. -/
theorem freeSlot_eq_some {slot : Nat} (inTable : slot < 256) (free : ∀ k ∈ s.clipLog.clips, k.slot ≠ slot)
    (below : ∀ j < slot, ∃ k ∈ s.clipLog.clips, k.slot = j) : s.freeSlot = some slot := by
  unfold State.freeSlot
  rw [List.find?_range_eq_some]
  exact ⟨by simpa using free, List.mem_range.mpr inTable, fun j hj => by simpa using below j hj⟩

/-- The ids from the next id on, 65535 being followed by 1 (R92). -/
def idFrom (next j : Nat) : Nat := (next - 1 + j) % 65535 + 1

/-- So many ids in a row are held by as many records. -/
theorem le_length_of_ids {next n : Nat} (few : n ≤ 65535) (held : ∀ j < n, ∃ k ∈ s.clipLog.clips, k.id = idFrom next j) :
    n ≤ s.clipLog.clips.length := by
  have distinct : ((List.range n).map (idFrom next)).Nodup := by
    refine List.Nodup.map_on (fun i hi j hj same => ?_) List.nodup_range
    have hi' := List.mem_range.mp hi
    have hj' := List.mem_range.mp hj
    simp only [idFrom] at same
    omega
  have used : (List.range n).map (idFrom next) ⊆ s.clipLog.clips.map fun k => k.id := by
    intro id mem
    obtain ⟨j, hj, rfl⟩ := List.mem_map.mp mem
    obtain ⟨k, inTable, named⟩ := held j (List.mem_range.mp hj)
    exact List.mem_map.mpr ⟨k, inTable, named⟩
  simpa using (List.subperm_of_subset distinct used).length_le

/-- The first id from the next id on that no record holds (R92). -/
theorem nextClipId_eq {new : Nat} (low : 1 ≤ s.clipLog.nextId) (high : s.clipLog.nextId ≤ 65535) (low' : 1 ≤ new)
    (high' : new ≤ 65535) (free : ∀ k ∈ s.clipLog.clips, k.id ≠ new)
    (held : ∀ j < (new + 65535 - s.clipLog.nextId) % 65535, ∃ k ∈ s.clipLog.clips, k.id = idFrom s.clipLog.nextId j) :
    s.nextClipId = new := by
  have within := Nat.mod_lt (new + 65535 - s.clipLog.nextId) (show 0 < 65535 by decide)
  have there : idFrom s.clipLog.nextId ((new + 65535 - s.clipLog.nextId) % 65535) = new := by
    unfold idFrom
    omega
  generalize (new + 65535 - s.clipLog.nextId) % 65535 = n at held within there
  have few := le_length_of_ids (by omega) held
  have first : (((List.range (s.clipLog.clips.length + 1)).map (idFrom s.clipLog.nextId)).find? fun id =>
      !s.clipLog.clips.any fun c => c.id == id) = some new := by
    rw [List.find?_map, Option.map_eq_some_iff]
    refine ⟨n, ?_, there⟩
    rw [List.find?_range_eq_some]
    refine ⟨by simpa [there] using free, List.mem_range.mpr (by omega), fun j hj => ?_⟩
    simpa using held j hj
  unfold State.nextClipId
  exact congrArg (Option.getD · s.clipLog.nextId) first

end slots

section opening

variable {s : State} {n flags : Byte} {point : List Byte} {p : Option Timecode} {c : Fin 6} {origin : Origin}

theorem clipOpen_lengthOk (hp : point.length = 4 * (flags.toNat % 2)) :
    lengthOk .clipOpen (n :: flags :: point) = true :=
  pointLengthOk_flags [n] hp

theorem clipOpen_badValue (hp : optionalPoint 1 (n :: flags :: point) = p)
    (bad : 6 ≤ n.toNat ∨ 1 < flags.toNat ∨ s.validPoint p = false) :
    clipOpen origin (n :: flags :: point) s = refuse .badValue s := by
  unfold clipOpen
  simp only [field_zero_one, field_succ, hp, maskDefined_one]
  rcases Nat.lt_or_ge n.toNat 6 with channel | none
  · rw [finOf_of_lt channel]
    refine if_pos ?_
    simpa using bad.resolve_left (by omega)
  · rw [finOf_of_le none]

section channel

variable (hp : optionalPoint 1 (n :: flags :: point) = p) (hn : n.toNat = c.val) (defined : flags.toNat < 2)
  (valid : s.validPoint p = true)
include hp hn defined valid

theorem clipOpen_notRecording (idle : s.coders[c].mode.isRecording = false) :
    clipOpen origin (n :: flags :: point) s = refuse .badState s := by
  simp [clipOpen, hp, hn, maskDefined_one, defined, valid, idle, -Fin.getElem_fin]

variable (records : s.coders[c].mode.isRecording = true)
include records

theorem clipOpen_future (future : s.inFuture (p.getD s.timing.timecode) = true) :
    clipOpen origin (n :: flags :: point) s = refuse .badValue s := by
  simp [clipOpen, hp, hn, maskDefined_one, defined, valid, records, future, -Fin.getElem_fin]

variable (past : s.inFuture (p.getD s.timing.timecode) = false)
include past

theorem clipOpen_noRoom (full : 255 ≤ (s.clipsWhere (openOn c)).length ∨ s.freeSlot = none
      ∨ s.pinRefused (s.rangeFrom c (s.placeIn c (p.getD s.timing.timecode)).start) = true) :
    clipOpen origin (n :: flags :: point) s = refuse .noRoom s := by
  simp only [clipOpen, field_zero_one, field_succ, hp, hn, finOf_val, maskDefined_one, defined, valid, records, past]
  by_cases many : 255 ≤ (s.clipsWhere (openOn c)).length
  · simp [many]
  · cases slot : s.freeSlot with
    | none => simp
    | some slot => simp [many, (full.resolve_left many).resolve_left (by simp [slot])]

theorem clipOpen_creates {slot : Nat} (few : (s.clipsWhere (openOn c)).length < 255) (free : s.freeSlot = some slot)
    (pins : s.pinRefused (s.rangeFrom c (s.placeIn c (p.getD s.timing.timecode)).start) = false) :
    clipOpen origin (n :: flags :: point) s = createClip slot c (s.placeIn c (p.getD s.timing.timecode)) origin s := by
  simp [clipOpen, hp, hn, maskDefined_one, defined, valid, records, past, Nat.not_le.mpr few, free, pins, -Fin.getElem_fin]

end channel

end opening

section creating

variable {s : State} {slot : Nat} {c : Fin 6} {placed : PlacedIn} {origin : Origin}

theorem find?_insertClip {k : Clip} {l : List Clip} (free : ∀ d ∈ l, d.id ≠ k.id) (other : Nat) :
    (insertClip k l).find? (fun d => d.id == other) = if other = k.id then some k else l.find? fun d => d.id == other := by
  induction l with
  | nil =>
    by_cases same : other = k.id
    · simp [insertClip, same]
    · simp [insertClip, same, Ne.symm same]
  | cons d rest ih =>
    obtain ⟨ne, free⟩ := List.forall_mem_cons.mp free
    unfold insertClip
    split
    · by_cases same : other = k.id
      · simp [same]
      · simp [same, Ne.symm same]
    · by_cases same : d.id = other
      · have different : other ≠ k.id := same ▸ ne
        simp [same, different]
      · simp [same, ih free]

/-- One pin more on each segment of a range, and no other change (R74). -/
theorem segment?_pinAll (range : List Nat) (id : Nat) : (pinAll range s).segment? id =
    (s.segment? id).map fun g => if id ∈ range then { g with pinCount := g.pinCount + 1 } else g := by
  have keepsId : ∀ g : Segment, (if range.contains g.id then { g with pinCount := g.pinCount + 1 } else g).id = g.id := by
    intro g
    split <;> rfl
  show (s.store.segments.map fun g => if range.contains g.id then { g with pinCount := g.pinCount + 1 } else g).find? _ = _
  rw [List.find?_map]
  simp only [Function.comp_def, keepsId]
  show (s.segment? id).map _ = _
  cases held : s.segment? id with
  | none => rfl
  | some g => simp [id_of_segment? held]

theorem damagedIn_isSome (range : List Nat) :
    (s.damagedIn range).isSome = range.any fun id => (s.segment? id).any fun g => g.damage.isSome := by
  rw [Bool.eq_iff_iff]
  simp [State.damagedIn]

/-- The record that an open creates (Table 5-1). -/
def openedClip (slot : Nat) (c : Fin 6) (placed : PlacedIn) (s : State) : Clip :=
  newClip slot s.nextClipId c placed (s.rangeFrom c placed.start) (s.damagedIn (s.rangeFrom c placed.start)).isSome

/-- What an open changes: the record, the next id, the pins of the range, and notices (R94). -/
theorem createClip_eq (slot : Nat) (c : Fin 6) (placed : PlacedIn) (origin : Origin) (s : State) :
    ∃ control, createClip slot c placed origin s =
      answerOk (.clipOpened s.nextClipId slot placed.inPoint placed.clamped) { s with
        clipLog := { s.clipLog with
          clips := insertClip (openedClip slot c placed s) s.clipLog.clips
          nextId := s.nextClipId % 65535 + 1 }
        store := { s.store with segments := (pinAll (s.rangeFrom c placed.start) s).store.segments }
        control := control } := by
  unfold createClip openedClip
  simp only
  split
  · rw [raise_of_not_protocol _ rfl, raise_of_not_protocol _ rfl]
    exact ⟨_, rfl⟩
  · rw [raise_of_not_protocol _ rfl]
    exact ⟨_, rfl⟩

end creating

/-- Settles O35: the cases of R95, the checks of CLIP_OPEN in their order, and the record that an open creates. -/
theorem clipOpenTakesARecord : Obligations.ClipOpenTakesARecord := by
  refine ⟨placeIn_cases, fun s n flags rest asks undefined hp => ?_, fun s n point asks => ?_⟩
  · exact runRequest_refused (owner := clipOpen .request) asks (clipOpen_lengthOk hp)
      (clipOpen_badValue rfl (.inr (.inl undefined)))
  · obtain ⟨flags, rest, bytes, defined, hp⟩ := pointBytes_eq point
    have carried : optionalPoint 1 (n :: flags :: rest) = pointTimecode point := by
      rw [← optionalPoint_pointBytes point [], bytes, List.append_nil]
      exact optionalPoint_succ _ _ 0
    have length := clipOpen_lengthOk (n := n) hp
    rw [bytes] at asks
    refine ⟨fun bad => runRequest_refused (owner := clipOpen .request) asks length
      (clipOpen_badValue carried (bad.imp_right .inr)), fun c hn valid => ⟨fun idle => ?_, fun recording => ?_⟩⟩
    · exact runRequest_refused (owner := clipOpen .request) asks length
        (clipOpen_notRecording carried hn defined valid ((not_isRecording_iff _).mpr idle))
    have records := (isRecording_iff _).mpr recording
    refine ⟨fun future => ?_, fun past => ⟨fun full => ?_,
      fun slot inTable free below few pins low high new low' high' fresh held => ?_⟩⟩
    · exact runRequest_refused (owner := clipOpen .request) asks length
        (clipOpen_future carried hn defined valid records future)
    · refine runRequest_refused (owner := clipOpen .request) asks length
        (clipOpen_noRoom carried hn defined valid records past ?_)
      rw [State.clipsWhere, List.length_map]
      exact full.imp_right (.imp_left freeSlot_eq_none)
    · have id_ : s.nextClipId = new := nextClipId_eq low high low' high' fresh held
      obtain ⟨control, created⟩ := createClip_eq slot c (s.placeIn c ((pointTimecode point).getD s.timing.timecode)) .request s
      have run := runRequest_ok (owner := clipOpen .request) asks length ((clipOpen_creates carried hn defined valid records
        past (by rwa [State.clipsWhere, List.length_map]) (freeSlot_eq_some inTable free below) pins).trans created)
      rw [id_] at run
      have insert := find?_insertClip (k := openedClip slot c (s.placeIn c ((pointTimecode point).getD s.timing.timecode)) s)
        (l := s.clipLog.clips) (by rw [show Clip.id _ = new from id_]; exact fresh)
      refine ⟨_, run, ?_, fun other ne => ?_, rfl, segment?_pinAll _, rfl⟩
      · refine (insert new).trans ((if_pos id_.symm).trans (congrArg some ?_))
        unfold openedClip
        rw [id_, damagedIn_isSome]
        rfl
      · exact (insert other).trans (if_neg fun same => ne (same.trans id_))

end Sys2Proof.Machine

namespace Sys2Proof.Machine

/-! ## Placing an out-point (R100) -/

section placing

variable {s : State} {c : Clip} {t : Timecode} {g : Segment} {gap : Gap} {id : Nat}

/-- A segment of the range begins before a timecode. -/
abbrev State.beginsEarlier (s : State) (t : Timecode) (id : Nat) : Prop :=
  ∃ g, s.segment? id = some g ∧ s.earlier g.firstTimecode t = true

theorem gapHolds_iff : s.gapHolds t gap = true ↔
    s.earlier t gap.start = false ∧ ∀ n, gap.count = some n → distance s.timing.rate gap.start t < n := by
  unfold State.gapHolds
  cases gap.count <;> simp

/-- The newest segment of a range that begins before a timecode, as `placeOut` looks for it. -/
def State.lastBefore (s : State) (range : List Nat) (t : Timecode) : Option Nat :=
  range.reverse.find? fun id =>
    match s.segment? id with
    | some g => s.earlier g.firstTimecode t
    | none => false

theorem lastBefore_newest {before after : List Nat} (early : s.beginsEarlier t id)
    (newer : ∀ j ∈ after, ¬s.beginsEarlier t j) : s.lastBefore (before ++ id :: after) t = some id := by
  obtain ⟨g, held, early⟩ := early
  refine find?_reverse_newest (by simpa [held] using early) fun j inside => ?_
  have late := newer j inside
  cases held' : s.segment? j with
  | none => rfl
  | some h => exact Bool.eq_false_iff.mpr fun early' => late ⟨h, held', early'⟩

theorem lastBefore_none {range : List Nat} (late : ∀ id ∈ range, ¬s.beginsEarlier t id) : s.lastBefore range t = none := by
  refine List.find?_eq_none.mpr fun j inside => ?_
  have late' := late j (List.mem_reverse.mp inside)
  cases held : s.segment? j with
  | none => exact Bool.false_ne_true
  | some h => exact fun early => late' ⟨h, held, early⟩

theorem placeOut_now (now : t = s.timing.timecode) (waits : s.coders[c.channel].handed = false) : s.placeOut c t = .waits :=
  if_pos ⟨now, waits⟩

section settled

variable (settled : t ≠ s.timing.timecode ∨ s.coders[c.channel].handed = true)
include settled

theorem placeOut_located (found : s.locate c.channel t = some g) (inside : g.id ∈ c.range) :
    s.placeOut c t = .inSegment g.id false := by
  unfold State.placeOut
  rw [if_neg (not_waiting settled), found]
  simp [Option.filter, inside]

variable (outside : ∀ g, s.locate c.channel t = some g → g.id ∉ c.range)
include outside

/-- The timeline does not hold the out-point in the range: the gaps are looked at, and then the range (R100). -/
theorem placeOut_unlocated : s.placeOut c t = (c.gaps.find? (s.gapHolds t)).elim
    ((s.lastBefore c.range t).elim .empty fun segment => .inSegment segment true)
    fun gap => gap.follows.elim .empty fun segment => .inSegment segment true := by
  have nowhere : ((s.locate c.channel t).filter fun g => c.range.contains g.id) = none := by
    rw [Option.filter_eq_none_iff]
    exact fun g found => by simpa using outside g found
  unfold State.placeOut
  rw [if_neg (not_waiting settled), nowhere]
  cases c.gaps.find? (s.gapHolds t) with
  | none =>
    dsimp only [Option.elim_none]
    show (match s.lastBefore c.range t with | some segment => PlacedOut.inSegment segment true | none => .empty) = _
    cases s.lastBefore c.range t <;> rfl
  | some gap =>
    dsimp only [Option.elim_some]
    cases gap.follows <;> rfl

theorem placeOut_gap (found : c.gaps.find? (s.gapHolds t) = some gap) :
    s.placeOut c t = gap.follows.elim .empty fun segment => .inSegment segment true := by
  rw [placeOut_unlocated settled outside, found, Option.elim_some]

theorem placeOut_range (none : c.gaps.find? (s.gapHolds t) = none) :
    s.placeOut c t = (s.lastBefore c.range t).elim .empty fun segment => .inSegment segment true := by
  rw [placeOut_unlocated settled outside, none, Option.elim_none]

end settled

end placing

/-- The cases of R100 in their order. -/
theorem placeOut_cases (s : State) (c : Clip) (t : Timecode) :
    let line := s.timelineNow c.channel
    let holds := fun g : Segment => distance g.rate g.firstTimecode t < g.pictures
    let inGap := fun gap : Gap => s.earlier t gap.start = false
      ∧ ∀ n, gap.count = some n → distance s.timing.rate gap.start t < n
    let beginsEarlier := fun id => ∃ g, s.segment? id = some g ∧ s.earlier g.firstTimecode t = true
    (t = s.timing.timecode → s.coders[c.channel].handed = false → s.placeOut c t = .waits)
    ∧ (t ≠ s.timing.timecode ∨ s.coders[c.channel].handed = true →
        (∀ before g after, line = before ++ g :: after → holds g → (∀ h ∈ after, ¬holds h) → g.id ∈ c.range →
          s.placeOut c t = .inSegment g.id false)
        ∧ ((∀ before g after, line = before ++ g :: after → holds g → (∀ h ∈ after, ¬holds h) → g.id ∉ c.range) →
            (∀ before gap after, c.gaps = before ++ gap :: after → inGap gap → (∀ h ∈ before, ¬inGap h) →
              (∀ segment, gap.follows = some segment → s.placeOut c t = .inSegment segment true)
              ∧ (gap.follows = none → s.placeOut c t = .empty))
            ∧ ((∀ gap ∈ c.gaps, ¬inGap gap) →
                (∀ before id after, c.range = before ++ id :: after → beginsEarlier id →
                  (∀ j ∈ after, ¬beginsEarlier j) → s.placeOut c t = .inSegment id true)
                ∧ ((∀ id ∈ c.range, ¬beginsEarlier id) → s.placeOut c t = .empty)))) := by
  intro line holds inGap beginsEarlier
  refine ⟨placeOut_now, fun settled => ⟨fun before g after split inside newer mem => ?_, fun outside => ?_⟩⟩
  · exact placeOut_located settled (locate_newest split inside newer) mem
  · have outside' : ∀ g, s.locate c.channel t = some g → g.id ∉ c.range := fun g found => by
      obtain ⟨before, after, split, inside, newer⟩ := newest_of_locate found
      exact outside before g after split inside newer
    refine ⟨fun before gap after split inside older => ?_, fun noGap => ?_⟩
    · have first : c.gaps.find? (s.gapHolds t) = some gap := List.find?_eq_some_iff_append.mpr
        ⟨gapHolds_iff.mpr inside, before, after, split, fun h mem => by simpa using mt gapHolds_iff.mp (older h mem)⟩
      have placed := placeOut_gap settled outside' first
      exact ⟨fun segment follows => by rw [placed, follows]; rfl, fun follows => by rw [placed, follows]; rfl⟩
    · have placed := placeOut_range settled outside'
        (List.find?_eq_none.mpr fun gap mem => mt gapHolds_iff.mp (noGap gap mem))
      refine ⟨fun before id after split early newer => ?_, fun late => ?_⟩
      · rw [placed, split, lastBefore_newest early newer]
        rfl
      · rw [placed, lastBefore_none late]
        rfl

end Sys2Proof.Machine

namespace Sys2Proof.Machine

/-! ## What a handover tells the clips (R69, R78, R79) -/

section handover

variable {s : State} {c : Fin 6} {at_ : Timecode} {bytes : List Byte} {g : Segment}

/-- The clip table, the pool, the completed segments, and the state and the pins of every segment are as they were. -/
def ClipsUntold (s u : State) : Prop :=
  u.clipLog = s.clipLog ∧ u.store.freePool = s.store.freePool ∧ u.store.completion = s.store.completion
    ∧ ∀ id, (u.segment? id).map (fun g => (g.state, g.pinCount)) = (s.segment? id).map fun g => (g.state, g.pinCount)

theorem appendPicture_untold (g : Segment) (bytes : List Byte) (s : State) : ClipsUntold s (appendPicture g bytes s) := by
  obtain ⟨segments, completion⟩ := writeSegment_segments g.pages g.byteLength bytes s
  have pool : (appendPicture g bytes s).store.freePool = s.store.freePool := by
    obtain ⟨_, _, _, _, _, frame⟩ := appendPicture_frame g bytes s
    rw [frame]
  refine ⟨clips_appendPicture g bytes s, pool, completion, fun id => ?_⟩
  unfold appendPicture
  rw [segment?_modSegment (by intro _; rfl), segment?_congr segments, Option.map_map]
  congr 1
  funext h
  simp only [Function.comp_apply]
  split <;> rfl

/-- A picture that the filling segment has room for is stored, and then the clips are told (R69, R70). -/
theorem handOver_fits (here : s.fillingSegment c = some g) (writes : s.store.writers[c].state ≠ .paused)
    (follows : closeBefore c at_ bytes.length s = s) (room : g.byteLength + bytes.length ≤ g.pages.length * 65536) :
    handOver c at_ bytes s =
      if g.pictures + 1 = g.segLength then closeSegment c .length (pictureStored c g.id (appendPicture g bytes s))
      else pictureStored c g.id (appendPicture g bytes s) := by
  obtain ⟨filling, -⟩ := segment_of_filling here
  unfold handOver
  rw [if_neg writes, follows]
  simp only [filling, Option.isNone_some, Bool.false_eq_true, if_false, storePicture_fits here room]
  rfl

/-- What a handover tells the clips, by what becomes of the picture. -/
theorem handOver_tells (s : State) (c : Fin 6) (at_ : Timecode) (bytes : List Byte) :
    let kept := fun u : State => u.clipLog = s.clipLog ∧ u.store.freePool = s.store.freePool
      ∧ u.store.completion = s.store.completion ∧ ∀ id, (u.segment? id).map (fun g => (g.state, g.pinCount)) =
        (s.segment? id).map fun g => (g.state, g.pinCount)
    (∀ g, s.fillingSegment c = some g → s.store.writers[c].state ≠ .paused → closeBefore c at_ bytes.length s = s →
      g.byteLength + bytes.length ≤ g.pages.length * 65536 → ∃ u, kept u ∧ handOver c at_ bytes s =
        if g.pictures + 1 = g.segLength then closeSegment c .length (pictureStored c g.id u)
        else pictureStored c g.id u)
    ∧ (s.store.freePool.length < (bytes.length + 65535) / 65536 → (∀ g ∈ s.store.segments, 0 < g.pinCount) →
        s.coders[c].filling = none →
        (s.store.writers[c].state = .paused → ∃ u, kept u ∧ handOver c at_ bytes s = pictureUnstored c none u)
        ∧ (s.store.writers[c].state ≠ .paused → ∃ u notice, kept u ∧ protocolPath notice = none
            ∧ handOver c at_ bytes s = raise notice (pictureUnstored c (some at_) u))) := by
  refine ⟨fun g here writes follows room => ⟨_, appendPicture_untold g bytes s, handOver_fits here writes follows room⟩,
    fun few pinned idle => ?_⟩
  have fails := openSegment_fails (c := c) (at_ := at_) few pinned
  refine ⟨fun paused => ⟨_, ?_, handOver_stillPaused paused fails⟩, fun writes => ?_⟩
  · exact ⟨rfl, rfl, rfl, fun _ => rfl⟩
  · have pauses := (handOver_pauses writes idle fails).trans (pauseWriter_eq c at_ s)
    refine ⟨justPaused c at_ s, _, ?_, ?_, pauses⟩
    · exact ⟨rfl, rfl, rfl, fun _ => rfl⟩
    · rfl

end handover

/-! ## Settling one clip among several -/

section settling

variable {s u : State} {i : Nat} {k : Clip} {f : State → Nat → State} {p : Clip → Bool}

/-- Settling the clips that satisfy a test leaves one that does not, and keeps what every step at another clip keeps. -/
theorem settle_other (alone : ∀ u a, ClipAlone a u (f u a)) (once : (u.clipLog.clips.map (·.id)).Nodup)
    (held : u.clip? i = some k) (fails : p k = false) {I : State → Prop} (step : ∀ u a, a ≠ i → I u → I (f u a)) (start : I u) :
    ((u.clipsWhere p).foldl f u).clip? i = some k ∧ I ((u.clipsWhere p).foldl f u) := by
  have notIn : i ∉ u.clipsWhere p := fun mem => by
    rw [mem_clipsWhere_iff p once held, fails] at mem
    exact Bool.false_ne_true mem
  refine ⟨(clip?_foldl_other alone notIn u).trans held, ?_⟩
  exact List.foldlRecOn _ _ start fun v kept a mem => step v a (fun same => notIn (same ▸ mem)) kept

/-- Settling the clips that satisfy a test settles one of them once, in a state that keeps what every step at another clip
keeps. -/
theorem settle_at (alone : ∀ u a, ClipAlone a u (f u a)) (once : (u.clipLog.clips.map (·.id)).Nodup)
    (held : u.clip? i = some k) (passes : p k = true) {I : State → Prop} (step : ∀ u a, a ≠ i → I u → I (f u a)) (start : I u) :
    ∃ v, v.clip? i = some k ∧ I v ∧ ((u.clipsWhere p).foldl f u).clip? i = (f v i).clip? i := by
  obtain ⟨before, after, split⟩ := List.append_of_mem ((mem_clipsWhere_iff p once held).mpr passes)
  have distinct : (u.clipsWhere p).Nodup := clipsWhere_nodup p once
  rw [split] at distinct ⊢
  obtain ⟨-, tail, apart⟩ := List.nodup_append.mp distinct
  have notBefore : i ∉ before := fun inside => apart i inside i List.mem_cons_self rfl
  have notAfter : i ∉ after := (List.nodup_cons.mp tail).1
  refine ⟨before.foldl f u, (clip?_foldl_other alone notBefore u).trans held, ?_, ?_⟩
  · exact List.foldlRecOn _ _ start fun v kept a mem => step v a (fun same => notBefore (same ▸ mem)) kept
  · rw [List.foldl_append, List.foldl_cons]
    exact clip?_foldl_other alone notAfter _

theorem clip?_settle_other (alone : ∀ u a, ClipAlone a u (f u a)) (once : (u.clipLog.clips.map (·.id)).Nodup)
    (held : u.clip? i = some k) (fails : p k = false) : ((u.clipsWhere p).foldl f u).clip? i = some k :=
  (settle_other (I := fun _ => True) alone once held fails (fun _ _ _ _ => trivial) trivial).1

theorem clip?_settle_at (alone : ∀ u a, ClipAlone a u (f u a)) (once : (u.clipLog.clips.map (·.id)).Nodup)
    (held : u.clip? i = some k) (passes : p k = true) :
    ∃ v, v.clip? i = some k ∧ ((u.clipsWhere p).foldl f u).clip? i = (f v i).clip? i := by
  obtain ⟨v, same, -, at_⟩ := settle_at (I := fun _ => True) alone once held passes (fun _ _ _ _ => trivial) trivial
  exact ⟨v, same, at_⟩

theorem settle_once (alone : ∀ u a, ClipAlone a u (f u a)) (once : (u.clipLog.clips.map (·.id)).Nodup) (l : List Nat) :
    ((l.foldl f u).clipLog.clips.map (·.id)).Nodup := by
  rw [clipIds_foldl alone]
  exact once

end settling

/-! ## A picture that was stored (R96, R100) -/

section stored

variable {s u : State} {c : Fin 6} {i segment : Nat} {k : Clip} {before after : List Nat}

/-- The clip follows the channel: it is OPEN on it. -/
abbrev Clip.followsOn (k : Clip) (c : Fin 6) : Prop := k.record = .opened ∧ k.channel = c

theorem openOn_eq_false (off : ¬k.followsOn c) : openOn c k = false := Bool.eq_false_iff.mpr (mt openOn_iff.mp off)

/-- A clip whose in-point picture was stored: its range begins at that segment, and its cursor lies in it (R96). -/
def Clip.begunAt (before range : List Nat) (k : Clip) : Clip :=
  { k with range := range, inPending := false, cursor := k.cursor.map (cutCursor before none k.gaps.length) }

/-- The change that makes it, of a record that holds the segment or not. -/
def Clip.beginAt (before : List Nat) (segment : Nat) (k : Clip) : Clip := k.begunAt before (k.range.dropWhile (· != segment))

/-- A range split at the first entry of a segment. -/
theorem range_split (split : k.range = before ++ segment :: after) (first : segment ∉ before) :
    k.range.takeWhile (· != segment) = before ∧ k.range.dropWhile (· != segment) = segment :: after := by
  have others : ∀ x ∈ before, (x != segment) = true := fun x mem => by
    simpa using fun same : x = segment => first (same ▸ mem)
  rw [split, List.takeWhile_append_of_pos others, List.dropWhile_append_of_pos others]
  simp

theorem settleInStored_eq (held : s.clip? i = some k) (split : k.range = before ++ segment :: after)
    (first : segment ∉ before) :
    settleInStored segment s i = unpinAll before (s.modClip i (Clip.beginAt before segment)) := by
  unfold settleInStored
  rw [held]
  simp only [(range_split split first).1]
  rfl

theorem beginAt_eq (split : k.range = before ++ segment :: after) (first : segment ∉ before) :
    k.beginAt before segment = k.begunAt before (segment :: after) :=
  congrArg (fun range => k.begunAt before range) (range_split split first).2

theorem clip?_settleInStored (held : s.clip? i = some k) (split : k.range = before ++ segment :: after)
    (first : segment ∉ before) : (settleInStored segment s i).clip? i = some (k.begunAt before (segment :: after)) := by
  rw [settleInStored_eq held split first, clip?_congr (congrArg ClipLog.clips (unpinAll_clipLog _ _)),
    clip?_modClip_same (by intro _; rfl) held, beginAt_eq split first]

/-- A clip whose out-point lies in a FILLING segment waits for it. -/
def Clip.closingIn (segment : Nat) (k : Clip) : Clip :=
  { k with record := .closing, outSegment := some segment, outPending := false, inPending := false }

theorem closeInSegment_filling {g : Segment} {cause : CloseCause} (found : s.segment? segment = some g)
    (filling : g.state = .filling) : closeInSegment i segment cause s = s.modClip i (Clip.closingIn segment) := by
  unfold closeInSegment
  rw [found]
  simp only [filling]
  rfl

theorem clip?_settleOutStored {g : Segment} (held : s.clip? i = some k) (found : s.segment? segment = some g)
    (filling : g.state = .filling) : (settleOutStored segment s i).clip? i = some (k.closingIn segment) := by
  unfold settleOutStored
  rw [held]
  simp only [closeInSegment_filling found filling]
  exact clip?_modClip_same (by intro _; rfl) held

/-- The state in which the in-points that waited for a stored picture are settled. -/
def inPointsStored (c : Fin 6) (segment : Nat) (s : State) : State :=
  (s.clipsWhere fun k => openOn c k && k.inPending).foldl (settleInStored segment) s

theorem pictureStored_eq (c : Fin 6) (segment : Nat) (s : State) : pictureStored c segment s =
    ((inPointsStored c segment s).clipsWhere fun k => openOn c k && k.outPending).foldl (settleOutStored segment)
      (inPointsStored c segment s) := rfl

theorem inPointsStored_once (once : (s.clipLog.clips.map (·.id)).Nodup) :
    ((inPointsStored c segment s).clipLog.clips.map (·.id)).Nodup :=
  settle_once (fun u _ => .settleInStored segment u) once _

theorem inPointsStored_segments (c : Fin 6) (segment : Nat) (s : State) : SegmentsKept s (inPointsStored c segment s) :=
  .foldl (settleInStored_segments segment) _ s

/-- A clip once the in-points that waited are settled (R96). -/
def Clip.inStored (before range : List Nat) (k : Clip) : Clip := if k.inPending then k.begunAt before range else k

theorem Clip.inStored_followsOn (before range : List Nat) (k : Clip) :
    openOn c (k.inStored before range) = openOn c k ∧ (k.inStored before range).outPending = k.outPending := by
  unfold Clip.inStored
  split <;> exact ⟨rfl, rfl⟩

theorem clip?_inPointsStored (once : (s.clipLog.clips.map (·.id)).Nodup) (held : s.clip? i = some k)
    (follows : openOn c k = true) (split : k.range = before ++ segment :: after) (first : segment ∉ before) :
    (inPointsStored c segment s).clip? i = some (k.inStored before (segment :: after)) := by
  have alone : ∀ u a, ClipAlone a u (settleInStored segment u a) := fun u _ => .settleInStored segment u
  unfold Clip.inStored
  cases waits : k.inPending with
  | false =>
    exact clip?_settle_other alone once held (by simp [waits])
  | true =>
    obtain ⟨v, same, at_⟩ :=
      clip?_settle_at (p := fun k => openOn c k && k.inPending) alone once held (by simp [follows, waits])
    exact at_.trans (clip?_settleInStored same split first)

/-- A clip of another channel, or one that waits for no point, stays as it is. -/
theorem pictureStored_other (once : (s.clipLog.clips.map (·.id)).Nodup) (held : s.clip? i = some k)
    (idle : ¬k.followsOn c ∨ k.inPending = false ∧ k.outPending = false) :
    (pictureStored c segment s).clip? i = some k := by
  have tests : (openOn c k && k.inPending) = false ∧ (openOn c k && k.outPending) = false := by
    rcases idle with off | ⟨inPlaced, outPlaced⟩
    · simp [openOn_eq_false off]
    · simp [inPlaced, outPlaced]
  obtain ⟨noIn, noOut⟩ := tests
  have stays : (inPointsStored c segment s).clip? i = some k :=
    clip?_settle_other (fun u _ => .settleInStored segment u) once held noIn
  exact clip?_settle_other (fun u _ => .settleOutStored segment u) (inPointsStored_once once) stays noOut

/-- A clip whose in-point alone waited is settled (R96). -/
theorem pictureStored_in (once : (s.clipLog.clips.map (·.id)).Nodup) (held : s.clip? i = some k)
    (follows : openOn c k = true) (split : k.range = before ++ segment :: after) (first : segment ∉ before)
    (outPlaced : k.outPending = false) :
    (pictureStored c segment s).clip? i = some (k.inStored before (segment :: after)) := by
  have settled := clip?_inPointsStored once held follows split first
  obtain ⟨-, pending⟩ := Clip.inStored_followsOn (c := c) before (segment :: after) k
  exact clip?_settle_other (fun u _ => .settleOutStored segment u) (inPointsStored_once once) settled
    (by rw [pending, outPlaced, Bool.and_false])

/-- A clip whose out-point waited is CLOSING in the segment that stored its picture (R100). -/
theorem pictureStored_out (once : (s.clipLog.clips.map (·.id)).Nodup) (held : s.clip? i = some k)
    (follows : openOn c k = true) (split : k.range = before ++ segment :: after) (first : segment ∉ before)
    (waits : k.outPending = true) {g : Segment} (found : s.segment? segment = some g) (filling : g.state = .filling)
    (open_ : segment ∉ s.store.completion) :
    (pictureStored c segment s).clip? i = some ((k.inStored before (segment :: after)).closingIn segment) := by
  have settled := clip?_inPointsStored once held follows split first
  obtain ⟨opens, pending⟩ := Clip.inStored_followsOn (c := c) before (segment :: after) k
  obtain ⟨v, same, kept, at_⟩ := settle_at (p := fun k => openOn c k && k.outPending)
    (fun u _ => .settleOutStored segment u) (inPointsStored_once once) settled
    (by rw [opens, pending, follows, waits, Bool.and_self]) (I := SegmentsKept s)
    (fun u a _ kept => kept.trans (settleOutStored_segments segment u a)) (inPointsStored_segments c segment s)
  obtain ⟨pins, found'⟩ := kept.incomplete segment g found open_
  exact at_.trans (clip?_settleOutStored same found' filling)

/-- With the reserve at hand segments lose their pins and none is freed (R74). -/
theorem segment?_unpinAll (reserve : 256 ≤ s.store.freePool.length) (lost : List Nat) (id : Nat) :
    (unpinAll lost s).segment? id = (s.segment? id).map fun g => { g with pinCount := g.pinCount - lost.count id } := by
  cases found : s.segment? id with
  | none => exact unpinAll_missing lost found
  | some g => exact unpinAll_stays lost found (.inr reserve)

/-- The segments before the in-point lose the pins of the only clip (R96). -/
theorem pictureStored_pins (held : s.clip? i = some k) (only : s.clipLog.clips = [k]) (follows : openOn c k = true)
    (split : k.range = before ++ segment :: after) (first : segment ∉ before) (waits : k.inPending = true)
    (outPlaced : k.outPending = false) (reserve : 256 ≤ s.store.freePool.length) (id : Nat) :
    (pictureStored c segment s).segment? id =
      (s.segment? id).map fun g => { g with pinCount := g.pinCount - before.count id } := by
  have named : k.id = i := by simpa using List.find?_some held
  have settled : inPointsStored c segment s = unpinAll before (s.modClip i (Clip.beginAt before segment)) := by
    rw [← settleInStored_eq held split first]
    simp [inPointsStored, State.clipsWhere, only, follows, waits, named]
  have clips : (inPointsStored c segment s).clipLog.clips = [k.begunAt before (segment :: after)] := by
    rw [settled, unpinAll_clipLog]
    show s.clipLog.clips.map _ = _
    simp [only, named, beginAt_eq split first]
  have none : ((inPointsStored c segment s).clipsWhere fun k => openOn c k && k.outPending) = [] := by
    simp [State.clipsWhere, clips, Clip.begunAt, outPlaced]
  rw [pictureStored_eq, none, settled]
  exact segment?_unpinAll (s := s.modClip i (Clip.beginAt before segment)) reserve before id

end stored

end Sys2Proof.Machine

namespace Sys2Proof.Machine

/-! ## The pins that one clip gives up (R74) -/

section releases

variable {s t u v w : State} {a i id : Nat} {k : Clip} {lost : List Nat}

/-- How often the range of a clip names a segment. -/
def State.named (u : State) (a id : Nat) : Nat := (u.clip? a).elim 0 fun d => d.range.count id

theorem named_of_clip? (held : u.clip? a = some k) (id : Nat) : u.named a id = k.range.count id := by
  rw [State.named, held]
  rfl

theorem named_congr (same : v.clip? a = u.clip? a) (id : Nat) : v.named a id = u.named a id := by
  rw [State.named, State.named, same]

theorem named_modReads (f : DemandRead → DemandRead) (id : Nat) : (u.modReads f).named a id = u.named a id := rfl

/-- Work at one clip alone takes from each segment at most the pins that its range gives up, so that a segment with more
pins than those stays. -/
structure Releases (a : Nat) (u v : State) : Prop where
  alone : ClipAlone a u v
  timing : v.timing = u.timing
  missing : ∀ id, u.segment? id = none → v.segment? id = none
  fewer : ∀ id, v.named a id ≤ u.named a id
  held : ∀ id g, u.segment? id = some g → u.named a id < g.pinCount + v.named a id →
    ∃ pins, v.segment? id = some { g with pinCount := pins } ∧ g.pinCount + v.named a id ≤ pins + u.named a id

namespace Releases

theorem of_store (alone : ClipAlone a u v) (timing : v.timing = u.timing) (store : v.store.segments = u.store.segments)
    (fewer : ∀ id, v.named a id ≤ u.named a id) : Releases a u v := by
  refine ⟨alone, timing, fun id missing => (segment?_congr store).trans missing, fewer, fun id g found _ => ?_⟩
  refine ⟨g.pinCount, (segment?_congr store).trans found, ?_⟩
  have := fewer id
  omega

theorem refl (a : Nat) (u : State) : Releases a u u := of_store (.refl a u) rfl rfl fun _ => le_rfl

theorem trans (h : Releases a u v) (h' : Releases a v w) : Releases a u w := by
  refine ⟨h.alone.trans h'.alone, h'.timing.trans h.timing, fun id missing => h'.missing id (h.missing id missing),
    fun id => (h'.fewer id).trans (h.fewer id), fun id g found more => ?_⟩
  have less := h'.fewer id
  obtain ⟨pins, found', kept⟩ := h.held id g found (by omega)
  obtain ⟨pins', found'', kept'⟩ := h'.held id { g with pinCount := pins } found' (by show _ < pins + _; omega)
  refine ⟨pins', found'', ?_⟩
  have kept'' : pins + w.named a id ≤ pins' + v.named a id := kept'
  omega

/-- A change of the record that leaves its range. -/
theorem modClip {f : Clip → Clip} (hf : ∀ k, (f k).id = k.id) (range : ∀ k, (f k).range = k.range) (u : State) :
    Releases a u (u.modClip a f) := by
  refine of_store (.modClip hf u) rfl rfl fun id => ?_
  rw [State.named, State.named, clip?_modClip_eq hf, if_pos rfl]
  cases u.clip? a <;> simp [range]

theorem raise (body : NoticeBody) (h : Releases a u v) : Releases a u (raise body v) := by
  refine h.trans (of_store (.raise _ (.refl a v)) (raise_timing v body) (by rw [raise_store]) fun id => ?_)
  exact (named_congr (clip?_congr (by rw [raise_clipLog])) id).le

/-- A range that is cut, and the segments that it loses unpinned. -/
theorem unpinAll (alone : ClipAlone a u v) (timing : v.timing = u.timing) (store : v.store.segments = u.store.segments)
    (cut : ∀ id, lost.count id + v.named a id ≤ u.named a id) : Releases a u (unpinAll lost v) := by
  have only := unpinAll_only lost v
  have same : ∀ id, (Machine.unpinAll lost v).named a id = v.named a id :=
    named_congr (clip?_congr (congrArg ClipLog.clips (unpinAll_clipLog lost v)))
  refine ⟨.unpinAll lost alone, only.timing.trans timing, fun id missing => ?_, fun id => ?_, fun id g found more => ?_⟩
  · exact unpinAll_missing lost ((segment?_congr store).trans missing)
  · have := cut id
    rw [same]
    omega
  · have := cut id
    rw [same] at more ⊢
    refine ⟨_, unpinAll_stays lost ((segment?_congr store).trans found) (.inl (by omega)), ?_⟩
    show g.pinCount + v.named a id ≤ g.pinCount - lost.count id + u.named a id
    omega

end Releases

/-- The segments that a close removes from a range are entries of it. -/
theorem segmentsAfter_sublist (out : Option Nat) (range : List Nat) : (segmentsAfter out range).Sublist range := by
  cases out with
  | none => exact .refl range
  | some o => exact (List.drop_sublist _ _).trans (List.dropWhile_sublist _)

/-- What a cut range names, and what it has lost, together are no more than it named. -/
theorem count_cut {removed range : List Nat} (inside : removed.Sublist range) (id : Nat) :
    removed.count id + (range.filter fun g => !removed.contains g).count id ≤ range.count id := by
  by_cases mem : id ∈ removed
  · have gone : (range.filter fun g => !removed.contains g).count id = 0 := List.count_eq_zero.mpr (by simp [mem])
    have := inside.count_le id
    omega
  · have kept := (List.filter_sublist (l := range) (p := fun g => !removed.contains g)).count_le id
    rw [List.count_eq_zero.mpr mem]
    omega

theorem completeClose_releases (out : Option Nat) (cause : CloseCause) (u : State) :
    Releases a u (completeClose a out cause u) := by
  unfold completeClose
  split
  · exact .refl a u
  · next k found =>
    refine .raise _ (.trans ?_ (.modClip (by intro _; rfl) (by intro _; rfl) _))
    refine .unpinAll ?_ rfl rfl fun id => ?_
    · exact .trans (.modClip (by intro _; rfl) u) (.of_clips rfl)
    · rw [named_modReads, named_of_clip? (clip?_modClip_same (by intro _; rfl) found), named_of_clip? found]
      exact count_cut (segmentsAfter_sublist out k.range) id

theorem closeAtEnd_releases (cause : CloseCause) (u : State) : Releases a u (closeAtEnd a cause u) := by
  unfold closeAtEnd
  split
  · exact .refl a u
  · exact .trans (.modClip (by intro _; rfl) (by intro _; rfl) u) (completeClose_releases _ _ _)

theorem closeInSegment_releases (segment : Nat) (cause : CloseCause) (u : State) :
    Releases a u (closeInSegment a segment cause u) := by
  unfold closeInSegment
  repeat' split
  · exact completeClose_releases _ _ _
  · exact completeClose_releases _ _ _
  · exact .modClip (by intro _; rfl) (by intro _; rfl) u

theorem addGap_releases (start : Timecode) (u : State) : Releases a u (addGap start u a) := by
  unfold addGap
  repeat' split
  · exact .refl a u
  · exact closeAtEnd_releases _ _
  · exact .raise _ (.modClip (by intro _; rfl) (by intro _; rfl) u)

theorem settleOutUnstored_releases (u : State) : Releases a u (settleOutUnstored u a) := by
  unfold settleOutUnstored
  split
  · exact .refl a u
  · simp only
    split
    · exact .trans (.modClip (by intro _; rfl) (by intro _; rfl) u) (closeInSegment_releases _ _ _)
    · exact completeClose_releases _ _ _

theorem settleInUnstored_releases (alreadyPaused : Bool) (u : State) :
    Releases a u (settleInUnstored alreadyPaused u a) := by
  unfold settleInUnstored
  split
  · exact .refl a u
  · next k found =>
    refine .unpinAll (.modClip (by intro _; rfl) u) rfl rfl fun id => ?_
    rw [named_of_clip? (clip?_modClip_same (by intro _; rfl) found), named_of_clip? found]
    exact Nat.le_refl _

end releases

/-! ## The pins that keep the range of one clip (R74) -/

section guarded

variable {s u v : State} {a i : Nat} {k : Clip} {range : List Nat}

/-- How often the ranges of the other clips name a segment. -/
def State.namedByOthers (u : State) (i id : Nat) : Nat :=
  (((u.clipLog.clips.map (·.id)).filter (· != i)).map fun j => u.named j id).sum

theorem clip?_of_mem (once : (u.clipLog.clips.map (·.id)).Nodup) (mem : k ∈ u.clipLog.clips) : u.clip? k.id = some k := by
  cases found : u.clip? k.id with
  | none => exact absurd (beq_self_eq_true k.id) (List.find?_eq_none.mp found k mem)
  | some d =>
    have named : d.id = k.id := by simpa using List.find?_some found
    rw [List.inj_on_of_nodup_map once (mem_of_clip? found) mem named]

/-- The sum over the records of the other clips. -/
theorem namedByOthers_eq (once : (u.clipLog.clips.map (·.id)).Nodup) (i id : Nat) : u.namedByOthers i id =
    ((u.clipLog.clips.filter fun d => d.id != i).map fun d => d.range.count id).sum := by
  unfold State.namedByOthers
  rw [List.filter_map, List.map_map]
  congr 1
  refine List.map_congr_left fun d mem => ?_
  exact named_of_clip? (clip?_of_mem once (List.mem_filter.mp mem).1) id

/-- Sums that differ in one summand. -/
theorem sum_map_eq_off {l : List Nat} {F G : Nat → Nat} (once : l.Nodup) (same : ∀ j, j ≠ a → G j = F j)
    (mem : a ∈ l) : (l.map G).sum + F a = (l.map F).sum + G a := by
  obtain ⟨before, after, rfl⟩ := List.append_of_mem mem
  obtain ⟨-, tail, apart⟩ := List.nodup_append.mp once
  have keep : ∀ l' : List Nat, a ∉ l' → l'.map G = l'.map F := fun l' out =>
    List.map_congr_left fun j inside => same j fun e => out (e ▸ inside)
  simp only [List.map_append, List.map_cons, List.sum_append, List.sum_cons,
    keep before fun inside => apart a inside a List.mem_cons_self rfl, keep after (List.nodup_cons.mp tail).1]
  omega

/-- The clips have ids without repetition, and every segment of the range has a pin beside those of the other clips. -/
structure Guarded (i : Nat) (range : List Nat) (s u : State) : Prop where
  once : (u.clipLog.clips.map (·.id)).Nodup
  timing : u.timing = s.timing
  missing : ∀ id ∈ range, s.segment? id = none → u.segment? id = none
  held : ∀ id ∈ range, ∀ g, s.segment? id = some g →
    ∃ pins, u.segment? id = some { g with pinCount := pins } ∧ u.namedByOthers i id < pins

theorem Guarded.of_nil (once : (u.clipLog.clips.map (·.id)).Nodup) (timing : u.timing = s.timing) : Guarded i [] s u :=
  ⟨once, timing, nofun, nofun⟩

/-- Work at another clip leaves the range its pins. -/
theorem Guarded.step (h : Guarded i range s u) (r : Releases a u v) (ne : a ≠ i) : Guarded i range s v := by
  refine ⟨by rw [r.alone.ids]; exact h.once, r.timing.trans h.timing,
    fun id mem gone => r.missing id (h.missing id mem gone), fun id mem g found => ?_⟩
  obtain ⟨pins, found', more⟩ := h.held id mem g found
  have fewer := r.fewer id
  have others : ∀ j, j ≠ a → v.named j id = u.named j id := fun j other => named_congr (r.alone.others j other) id
  by_cases listed : a ∈ u.clipLog.clips.map (·.id)
  · have balance : v.namedByOthers i id + u.named a id = u.namedByOthers i id + v.named a id := by
      unfold State.namedByOthers
      rw [r.alone.ids]
      exact sum_map_eq_off (h.once.filter _) others (List.mem_filter.mpr ⟨listed, by simpa using ne⟩)
    obtain ⟨pins', found'', kept⟩ := r.held id _ found' (by show _ < pins + _; omega)
    refine ⟨pins', found'', ?_⟩
    have kept' : pins + v.named a id ≤ pins' + u.named a id := kept
    omega
  · have absent : u.clip? a = none := by
      refine List.find?_eq_none.mpr fun d inside => ?_
      simpa using fun same : d.id = a => listed (List.mem_map.mpr ⟨d, inside, same⟩)
    have nothing : u.named a id = 0 := by rw [State.named, absent]; rfl
    have balance : v.namedByOthers i id = u.namedByOthers i id := by
      unfold State.namedByOthers
      rw [r.alone.ids]
      congr 1
      refine List.map_congr_left fun j inside => others j fun same => listed ?_
      exact same ▸ (List.mem_filter.mp inside).1
    obtain ⟨pins', found'', kept⟩ := r.held id _ found' (by show _ < pins + _; omega)
    refine ⟨pins', found'', ?_⟩
    have kept' : pins + v.named a id ≤ pins' + u.named a id := kept
    omega

/-- A close reads the same of a range that has kept its segments. -/
theorem Guarded.readsAlike (h : Guarded i range s u) : ReadsAlike range s u := by
  refine ⟨h.timing, fun id mem => ?_⟩
  cases found : s.segment? id with
  | none => rw [h.missing id mem found]
  | some g =>
    obtain ⟨pins, found', -⟩ := h.held id mem g found
    rw [found']
    rfl

end guarded

/-! ## A picture that was not stored (R96, R97, R100) -/

section unstored

variable {s u v : State} {c : Fin 6} {i : Nat} {k : Clip} {pause : Option Timecode} {start : Timecode}

/-- A clip whose in-point picture was not stored: its range is absent, and a pause that had begun before leaves it an open
gap (R96). -/
def Clip.emptied (alreadyPaused : Bool) (k : Clip) : Clip :=
  { k with
    range := []
    inPending := false
    truncated := k.truncated || alreadyPaused
    gaps := k.gaps ++ (if alreadyPaused then [⟨k.inPoint, none, none⟩] else [])
    cursor := k.cursor.map (cutCursor k.range none k.gaps.length) }

/-- A clip once the in-points that waited are settled. -/
def Clip.inUnstored (alreadyPaused : Bool) (k : Clip) : Clip := if k.inPending then k.emptied alreadyPaused else k

theorem clip?_settleInUnstored (alreadyPaused : Bool) (held : s.clip? i = some k) :
    (settleInUnstored alreadyPaused s i).clip? i = some (k.emptied alreadyPaused) := by
  unfold settleInUnstored
  rw [held]
  simp only
  rw [clip?_congr (congrArg ClipLog.clips (unpinAll_clipLog _ _)), clip?_modClip_same (by intro _; rfl) held]
  cases alreadyPaused
  · simp [Clip.emptied]
  · rfl

/-- The state in which the in-points that waited for a picture that was not stored are settled. -/
def inPointsUnstored (c : Fin 6) (alreadyPaused : Bool) (s : State) : State :=
  (s.clipsWhere fun k => openOn c k && k.inPending).foldl (settleInUnstored alreadyPaused) s

/-- The state in which a pause has reached the OPEN clips that wait for no out-point. -/
def gapsAdded (c : Fin 6) (pause : Option Timecode) (v : State) : State :=
  pause.elim v fun start => (v.clipsWhere fun k => openOn c k && !k.outPending).foldl (addGap start) v

theorem pictureUnstored_eq (c : Fin 6) (pause : Option Timecode) (s : State) : pictureUnstored c pause s =
    ((gapsAdded c pause (inPointsUnstored c pause.isNone s)).clipsWhere fun k => openOn c k && k.outPending).foldl
      settleOutUnstored (gapsAdded c pause (inPointsUnstored c pause.isNone s)) := by
  cases pause <;> rfl

theorem Clip.inUnstored_followsOn (alreadyPaused : Bool) (k : Clip) :
    openOn c (k.inUnstored alreadyPaused) = openOn c k ∧ (k.inUnstored alreadyPaused).outPending = k.outPending := by
  unfold Clip.inUnstored
  split <;> exact ⟨rfl, rfl⟩

theorem inUnstored_alone (alreadyPaused : Bool) : ∀ u a, ClipAlone a u (settleInUnstored alreadyPaused u a) :=
  fun u _ => .settleInUnstored alreadyPaused u

theorem addGap_alone (start : Timecode) : ∀ u a, ClipAlone a u (addGap start u a) := fun u _ => .addGap start u

theorem outUnstored_alone : ∀ u a, ClipAlone a u (settleOutUnstored u a) := fun u _ => .settleOutUnstored u

/-- The in-points that waited are settled (R96). -/
theorem clip?_inPointsUnstored (alreadyPaused : Bool) (once : (s.clipLog.clips.map (·.id)).Nodup) (held : s.clip? i = some k)
    (follows : openOn c k = true) :
    (inPointsUnstored c alreadyPaused s).clip? i = some (k.inUnstored alreadyPaused) := by
  have alone := inUnstored_alone alreadyPaused
  unfold Clip.inUnstored
  cases waits : k.inPending with
  | false => exact clip?_settle_other alone once held (by simp [waits])
  | true =>
    obtain ⟨v, same, at_⟩ :=
      clip?_settle_at (p := fun k => openOn c k && k.inPending) alone once held (by simp [follows, waits])
    exact at_.trans (clip?_settleInUnstored alreadyPaused same)

/-- A range that is left keeps its pins while the in-points that waited are settled. -/
theorem inPointsUnstored_guarded (alreadyPaused : Bool) (held : s.clip? i = some k)
    (guarded : Guarded i (k.inUnstored alreadyPaused).range s s) :
    Guarded i (k.inUnstored alreadyPaused).range s (inPointsUnstored c alreadyPaused s) := by
  unfold Clip.inUnstored at guarded ⊢
  cases waits : k.inPending with
  | false =>
    rw [waits] at guarded
    exact (settle_other (inUnstored_alone alreadyPaused) guarded.once held (by simp [waits])
      (fun u a ne h => h.step (settleInUnstored_releases alreadyPaused u) ne) guarded).2
  | true =>
    have timing : (inPointsUnstored c alreadyPaused s).timing = s.timing :=
      foldl_keeps (fun v : State => v.timing) (fun v a => (settleInUnstored_releases alreadyPaused v).timing) _ s
    exact .of_nil (settle_once (inUnstored_alone alreadyPaused) guarded.once _) timing

/-- A pause leaves a clip that waits for its out-point, and keeps what a range needs. -/
theorem gapsAdded_waiting {range : List Nat} (held : v.clip? i = some k) (waits : k.outPending = true)
    (guarded : Guarded i range s v) :
    (gapsAdded c pause v).clip? i = some k ∧ Guarded i range s (gapsAdded c pause v) := by
  cases pause with
  | none => exact ⟨held, guarded⟩
  | some start =>
    exact settle_other (addGap_alone start) guarded.once held (by simp [waits])
      (fun u a ne h => h.step (addGap_releases start u) ne) guarded

/-- A pause reaches an OPEN clip that waits for no out-point, in a state that keeps what its range needs (R97). -/
theorem gapsAdded_at {range : List Nat} (held : v.clip? i = some k) (follows : openOn c k = true)
    (outPlaced : k.outPending = false) (guarded : Guarded i range s v) : ∃ w, w.clip? i = some k ∧ Guarded i range s w
      ∧ (gapsAdded c (some start) v).clip? i = (addGap start w i).clip? i :=
  settle_at (addGap_alone start) guarded.once held (by simp [follows, outPlaced])
    (fun u a ne h => h.step (addGap_releases start u) ne) guarded

theorem gapsAdded_once (once : (v.clipLog.clips.map (·.id)).Nodup) :
    ((gapsAdded c pause v).clipLog.clips.map (·.id)).Nodup := by
  cases pause with
  | none => exact once
  | some start => exact settle_once (addGap_alone start) once _

/-- After the pause a clip that waits for no out-point is left as it is. -/
theorem pictureUnstored_placed (once : (s.clipLog.clips.map (·.id)).Nodup)
    (held : (gapsAdded c pause (inPointsUnstored c pause.isNone s)).clip? i = some k)
    (placed : (openOn c k && k.outPending) = false) : (pictureUnstored c pause s).clip? i = some k := by
  rw [pictureUnstored_eq]
  exact clip?_settle_other outUnstored_alone (gapsAdded_once (settle_once (inUnstored_alone _) once _)) held placed

/-- A clip of another channel stays as it is. -/
theorem pictureUnstored_other (once : (s.clipLog.clips.map (·.id)).Nodup) (held : s.clip? i = some k) (off : ¬k.followsOn c) :
    (pictureUnstored c pause s).clip? i = some k := by
  have no : openOn c k = false := openOn_eq_false off
  have settled : (inPointsUnstored c pause.isNone s).clip? i = some k :=
    clip?_settle_other (inUnstored_alone _) once held (by simp [no])
  refine pictureUnstored_placed once ?_ (by simp [no])
  cases pause with
  | none => exact settled
  | some start =>
    exact clip?_settle_other (addGap_alone start) (settle_once (inUnstored_alone _) once _) settled (by simp [no])

end unstored

end Sys2Proof.Machine

namespace Sys2Proof.Machine

section unstored

variable {s u v : State} {c : Fin 6} {i : Nat} {k : Clip} {pause : Option Timecode} {start : Timecode}

theorem Clip.inUnstored_range (alreadyPaused : Bool) (k : Clip) :
    (k.inUnstored alreadyPaused).range = if k.inPending then [] else k.range := by
  unfold Clip.inUnstored
  split <;> rfl

theorem Clip.inUnstored_gaps (k : Clip) : (k.inUnstored false).gaps = k.gaps := by
  unfold Clip.inUnstored
  split
  · exact List.append_nil k.gaps
  · rfl

/-- The pins that a range needs before anything is settled. -/
theorem Guarded.of_pins (once : (s.clipLog.clips.map (·.id)).Nodup) (alreadyPaused : Bool)
    (pinned : ∀ id ∈ k.range, ∀ g, s.segment? id = some g →
      ((s.clipLog.clips.filter fun d => d.id != i).map fun d => d.range.count id).sum < g.pinCount) :
    Guarded i (k.inUnstored alreadyPaused).range s s := by
  rw [Clip.inUnstored_range]
  split
  · exact .of_nil once rfl
  · refine ⟨once, rfl, fun _ _ gone => gone, fun id mem g found => ⟨g.pinCount, found, ?_⟩⟩
    rw [namedByOthers_eq once]
    exact pinned id mem g found

/-- A clip that waits for no out-point, when the writer was already paused (R96). -/
theorem pictureUnstored_paused (once : (s.clipLog.clips.map (·.id)).Nodup) (held : s.clip? i = some k)
    (follows : openOn c k = true) (outPlaced : k.outPending = false) :
    (pictureUnstored c none s).clip? i = some (k.inUnstored true) := by
  obtain ⟨-, pending⟩ := Clip.inUnstored_followsOn (c := c) true k
  exact pictureUnstored_placed once (clip?_inPointsUnstored true once held follows)
    (by rw [pending, outPlaced, Bool.and_false])

/-- A clip that waits for no out-point, when the writer pauses at this picture: what the pause does to it is what is left
(R97). -/
theorem pictureUnstored_pauses {k' : Clip} (held : s.clip? i = some k) (follows : openOn c k = true)
    (outPlaced : k.outPending = false) (guarded : Guarded i (k.inUnstored false).range s s)
    (notOpen : (openOn c k' && k'.outPending) = false)
    (reached : ∀ w, w.clip? i = some (k.inUnstored false) → Guarded i (k.inUnstored false).range s w →
      (addGap start w i).clip? i = some k') :
    (pictureUnstored c (some start) s).clip? i = some k' := by
  obtain ⟨opens, pending⟩ := Clip.inUnstored_followsOn (c := c) false k
  obtain ⟨w, same, kept, at_⟩ := gapsAdded_at (start := start) (clip?_inPointsUnstored false guarded.once held follows)
    (opens.trans follows) (pending.trans outPlaced) (inPointsUnstored_guarded false held guarded)
  exact pictureUnstored_placed guarded.once (at_.trans (reached w same kept)) notOpen

/-- A pause gives its gap to a clip that has room for it (R97). -/
theorem pictureUnstored_gap (once : (s.clipLog.clips.map (·.id)).Nodup) (held : s.clip? i = some k)
    (follows : openOn c k = true) (outPlaced : k.outPending = false) (room : k.gaps.length < 16) :
    (pictureUnstored c (some start) s).clip? i = some { k.inUnstored false with
      truncated := true, gaps := k.gaps ++ [⟨start, none, (k.inUnstored false).range.getLast?⟩] } := by
  obtain ⟨opens, pending⟩ := Clip.inUnstored_followsOn (c := c) false k
  have gaps := k.inUnstored_gaps
  have settled := clip?_inPointsUnstored false once held follows
  obtain ⟨w, same, at_⟩ := clip?_settle_at (p := fun k => openOn c k && !k.outPending) (addGap_alone start)
    (settle_once (inUnstored_alone false) once _) settled (by simp [opens, pending, follows, outPlaced])
  have gapped := clip?_addGap (start := start) same (by rw [gaps]; exact room)
  rw [gaps] at gapped
  refine pictureUnstored_placed once (at_.trans gapped) ?_
  show (openOn c _ && (k.inUnstored false).outPending) = false
  rw [pending, outPlaced, Bool.and_false]

/-- A pause closes a clip that holds 16 gaps at the last picture of its range (R97). -/
theorem clip?_addGap_full (held : v.clip? i = some k) (full : 16 ≤ k.gaps.length) (distinct : k.range.Nodup)
    (guarded : Guarded i k.range s v) :
    (addGap start v i).clip? i = some (s.closedClip k k.range.getLast? [] (s.lastOf k)) := by
  have alike := guarded.readsAlike
  have closes := (closeAtEnd_whole (s := v) (id := i) .gapLimit fun k' held' => by
    rw [held] at held'
    exact Option.some.inj held' ▸ distinct).clips i
  unfold addGap
  rw [held]
  simp only [if_pos full]
  rw [closes, if_pos rfl, held, Option.map_some, alike.closedClip, alike.lastOf]

theorem pictureUnstored_full (held : s.clip? i = some k) (follows : openOn c k = true) (outPlaced : k.outPending = false)
    (distinct : k.range.Nodup) (full : 16 ≤ k.gaps.length) (guarded : Guarded i (k.inUnstored false).range s s) :
    (pictureUnstored c (some start) s).clip? i = some (s.closedClip (k.inUnstored false) (k.inUnstored false).range.getLast? []
      (s.lastOf (k.inUnstored false))) := by
  have distinct' : (k.inUnstored false).range.Nodup := by
    rw [Clip.inUnstored_range]
    split
    · exact List.nodup_nil
    · exact distinct
  refine pictureUnstored_pauses held follows outPlaced guarded (Bool.and_false _) fun w same kept => ?_
  exact clip?_addGap_full same (by rw [k.inUnstored_gaps]; exact full) distinct' kept

/-- A clip that waits for its out-point is settled at the end, in a state that keeps what its range needs (R100). -/
theorem pictureUnstored_out (held : s.clip? i = some k) (follows : openOn c k = true) (waits : k.outPending = true)
    (guarded : Guarded i (k.inUnstored pause.isNone).range s s) :
    ∃ w, w.clip? i = some (k.inUnstored pause.isNone) ∧ Guarded i (k.inUnstored pause.isNone).range s w
      ∧ (pictureUnstored c pause s).clip? i = (settleOutUnstored w i).clip? i := by
  obtain ⟨opens, pending⟩ := Clip.inUnstored_followsOn (c := c) pause.isNone k
  obtain ⟨same, kept⟩ := gapsAdded_waiting (c := c) (pause := pause)
    (clip?_inPointsUnstored pause.isNone guarded.once held follows) (pending.trans waits)
    (inPointsUnstored_guarded (c := c) pause.isNone held guarded)
  rw [pictureUnstored_eq]
  exact settle_at outUnstored_alone kept.once same (by rw [opens, pending, follows, waits, Bool.and_self])
    (fun u a ne h => h.step (settleOutUnstored_releases u) ne) kept

/-- With no picture before it a pending out-point closes the clip with no range (R100). -/
theorem clip?_settleOutUnstored_empty (held : v.clip? i = some k) (empty : k.range = []) (guarded : Guarded i k.range s v) :
    (settleOutUnstored v i).clip? i = some (s.closedClip k none [] (k.outPoint.getD k.inPoint)) := by
  have closes := (completeClose_whole (s := v) (id := i) none (originCause k.closeOrigin) fun k' held' => by
    rw [held] at held'
    exact Option.some.inj held' ▸ empty).clips i
  have noLast : k.lastSegment.bind v.segment? = none := by simp [Clip.lastSegment, empty]
  unfold settleOutUnstored
  rw [held]
  simp only [noLast]
  rw [closes, if_pos rfl, held, Option.map_some, guarded.readsAlike.closedClip]

/-- A close in a COMPLETE segment completes (R100, R101). -/
theorem closeInSegment_complete {segment : Nat} {g : Segment} {cause : CloseCause} (found : s.segment? segment = some g)
    (complete : g.state = .complete) : closeInSegment i segment cause s = completeClose i (some segment) cause s := by
  unfold closeInSegment
  rw [found]
  simp only [complete]

/-- A pending out-point moves back to the last picture of the range (R100). -/
theorem clip?_settleOutUnstored_last {id : Nat} {g : Segment} (held : v.clip? i = some k) (last : k.range.getLast? = some id)
    (distinct : k.range.Nodup) (found : s.segment? id = some g) (complete : g.state = .complete)
    (guarded : Guarded i k.range s v) :
    (settleOutUnstored v i).clip? i = some (s.closedClip { k with clamped := true } (some id) [] (lastPicture g)) := by
  obtain ⟨pins, found', -⟩ := guarded.held id (List.mem_of_getLast? last) g found
  have named : g.id = id := id_of_segment? found
  have lastHeld : k.lastSegment.bind v.segment? = some { g with pinCount := pins } := by
    rw [Clip.lastSegment, last, Option.bind_some, found']
  have moved : (v.modClip i fun c => { c with outPoint := some (lastPicture g), clamped := true }).clip? i = _ :=
    clip?_modClip_same (by intro _; rfl) held
  have whole : segmentsAfter (some id) k.range = [] := segmentsAfter_of_last distinct fun _ => last
  have closes := (completeClose_whole (s := v.modClip i fun c => { c with outPoint := some (lastPicture g), clamped := true })
    (id := i) (some id) (originCause k.closeOrigin) fun k' held' => by
      rw [moved] at held'
      exact Option.some.inj held' ▸ whole).clips i
  rw [if_pos rfl, moved, Option.map_some] at closes
  unfold settleOutUnstored
  rw [held]
  simp only [lastHeld, named]
  rw [closeInSegment_complete (s := State.modClip i _ v) found' complete]
  refine closes.trans (congrArg some ?_)
  exact ReadsAlike.closedClip (k := { k with clamped := true }) guarded.readsAlike (some id) (lastPicture g)

end unstored

/-- What a picture of the channel, stored or not, leaves of a clip (R96, R97, R100). -/
theorem handedOver_settles (s : State) (c : Fin 6) (i : Nat) (k : Clip) (once : (s.clipLog.clips.map fun d => d.id).Nodup)
    (held : s.clip? i = some k) :
    let follows := k.record = .opened ∧ k.channel = c
    (∀ segment,
      let t := pictureStored c segment s
      (¬follows ∨ k.inPending = false ∧ k.outPending = false → t.clip? i = some k)
      ∧ (follows → ∀ before after, k.range = before ++ segment :: after → segment ∉ before →
          let settled := if k.inPending then { k with
              range := segment :: after
              inPending := false
              cursor := k.cursor.map (cutCursor before none k.gaps.length) } else k
          (k.outPending = false → t.clip? i = some settled)
          ∧ (∀ g, k.outPending = true → s.segment? segment = some g → g.state = .filling →
              segment ∉ s.store.completion → t.clip? i = some { settled with
                record := .closing, outSegment := some segment, outPending := false, inPending := false })
          ∧ (s.clipLog.clips = [k] → k.inPending = true → k.outPending = false → 256 ≤ s.store.freePool.length →
              ∀ id, t.segment? id = (s.segment? id).map fun g => { g with pinCount := g.pinCount - before.count id })))
    ∧ ∀ pause : Option Timecode,
        let t := pictureUnstored c pause s
        let emptied := if k.inPending then { k with
            range := []
            inPending := false
            truncated := k.truncated || pause.isNone
            gaps := k.gaps ++ (if pause.isNone then [⟨k.inPoint, none, none⟩] else [])
            cursor := k.cursor.map (cutCursor k.range none k.gaps.length) } else k
        (¬follows → t.clip? i = some k)
        ∧ (follows → k.outPending = false →
            (pause = none → t.clip? i = some emptied)
            ∧ ∀ start, pause = some start → k.gaps.length < 16 → t.clip? i = some { emptied with
                truncated := true, gaps := k.gaps ++ [⟨start, none, emptied.range.getLast?⟩] })
        ∧ (follows → k.range.Nodup → (∀ id ∈ k.range, ∀ g, s.segment? id = some g →
              ((s.clipLog.clips.filter fun d => d.id != i).map fun d => d.range.count id).sum < g.pinCount) →
            (k.outPending = false → pause.isSome = true → 16 ≤ k.gaps.length →
              t.clip? i = some (s.closedClip emptied emptied.range.getLast? [] (s.lastOf emptied)))
            ∧ (k.outPending = true →
                (emptied.range = [] →
                  t.clip? i = some (s.closedClip emptied none [] (k.outPoint.getD k.inPoint)))
                ∧ ∀ id g, emptied.range.getLast? = some id → s.segment? id = some g → g.state = .complete →
                    t.clip? i = some (s.closedClip { k with clamped := true } (some id) [] (lastPicture g)))) := by
  intro follows
  refine ⟨fun segment => ⟨fun idle => pictureStored_other once held idle, fun on before after split first =>
    ⟨fun outPlaced => ?_, fun g waits found filling open_ => ?_, fun only waits outPlaced reserve id => ?_⟩⟩,
    fun pause => ⟨fun off => pictureUnstored_other once held off, fun on outPlaced => ⟨fun none => ?_,
      fun start some_ room => ?_⟩, fun on distinct pinned => ?_⟩⟩
  · exact pictureStored_in once held (openOn_iff.mpr on) split first outPlaced
  · exact pictureStored_out once held (openOn_iff.mpr on) split first waits found filling open_
  · exact pictureStored_pins held only (openOn_iff.mpr on) split first waits outPlaced reserve id
  · subst none
    exact pictureUnstored_paused once held (openOn_iff.mpr on) outPlaced
  · subst some_
    exact pictureUnstored_gap once held (openOn_iff.mpr on) outPlaced room
  · have guarded := Guarded.of_pins once pause.isNone pinned
    refine ⟨fun outPlaced pauses full => ?_, fun waits => ?_⟩
    · obtain ⟨start, rfl⟩ := Option.isSome_iff_exists.mp pauses
      exact pictureUnstored_full held (openOn_iff.mpr on) outPlaced distinct full guarded
    · obtain ⟨w, same, kept, at_⟩ := pictureUnstored_out held (openOn_iff.mpr on) waits guarded
      refine ⟨fun empty => ?_, fun id g last found complete => ?_⟩
      · have points : (k.inUnstored pause.isNone).outPoint = k.outPoint ∧ (k.inUnstored pause.isNone).inPoint = k.inPoint := by
          unfold Clip.inUnstored
          split <;> exact ⟨rfl, rfl⟩
        refine at_.trans ((clip?_settleOutUnstored_empty same empty kept).trans ?_)
        rw [points.1, points.2]
        rfl
      · have placed : k.inPending = false := by
          cases pending : k.inPending with
          | false => rfl
          | true => simp [pending] at last
        have whole : k.inUnstored pause.isNone = k := by simp [Clip.inUnstored, placed]
        rw [whole] at same kept
        rw [placed] at last
        exact at_.trans (clip?_settleOutUnstored_last same last distinct found complete kept)

end Sys2Proof.Machine

namespace Sys2Proof.Machine

/-! ## The completion of a close (R101) -/

section completing

variable {s : State} {id : Nat} {c : Clip} {out : Option Nat} {cause : CloseCause}

/-- A close that removes nothing touches no read in progress. -/
theorem modReads_rewind_nil (id : Nat) (s : State) :
    s.modReads (rewindRead fun r => r.clip == id && r.segment.any ([] : List Nat).contains) = s := by
  have none : (rewindRead fun r => r.clip == id && r.segment.any ([] : List Nat).contains) = fun r => r := by
    funext r
    have nothing : r.segment.any ([] : List Nat).contains = false := by cases r.segment <;> rfl
    simp [rewindRead, nothing]
  rw [none]
  unfold State.modReads State.modSched
  simp only [List.map_id']

theorem clip?_modReads (f : DemandRead → DemandRead) (s : State) (i : Nat) : (s.modReads f).clip? i = s.clip? i := rfl

/-- The record that the completion of a close leaves (R101). -/
theorem clip?_completeClose (held : s.clip? id = some c) : (completeClose id out cause s).clip? id =
    some (s.closedClip c out (segmentsAfter out c.range) (c.outPoint.getD c.inPoint)) := by
  unfold completeClose
  rw [held]
  simp only
  rw [clip?_congr (congrArg ClipLog.clips (raise_clipLog _ _)), clip?_modClip_eq (by exact fun _ => rfl), if_pos rfl,
    clip?_congr (congrArg ClipLog.clips (unpinAll_clipLog _ _)), clip?_modReads, clip?_modClip_eq (by exact fun _ => rfl),
    if_pos rfl, held]
  unfold State.closedClip
  simp only [Option.map_some, gapsAfterClose_eq]

/-- With the reserve at hand the segments that leave the range lose their pins, and none is freed (R74, R101). -/
theorem segment?_completeClose (held : s.clip? id = some c) (reserve : 256 ≤ s.store.freePool.length) (j : Nat) :
    (completeClose id out cause s).segment? j =
      (s.segment? j).map fun h => { h with pinCount := h.pinCount - (segmentsAfter out c.range).count j } := by
  unfold completeClose
  rw [held]
  simp only
  rw [segment?_congr (congrArg Store.segments (raise_store _ _))]
  exact segment?_unpinAll (s := State.modReads _ (State.modClip id _ s)) reserve _ j

/-- A close that removes nothing changes the record, and raises its notice (R101). -/
theorem completeClose_whole_frame (held : s.clip? id = some c) (whole : segmentsAfter out c.range = []) :
    let k := s.closedClip c out [] (c.outPoint.getD c.inPoint)
    completeClose id out cause s = { s with
      clipLog := (completeClose id out cause s).clipLog
      control := queueNotice ⟨.clipClosed id (c.outPoint.getD c.inPoint) (s.digestOf k.range) k.range.length k.gaps.length
        cause, s.timing.timecode⟩ s.control } := by
  unfold completeClose
  rw [held]
  simp only [whole, modReads_rewind_nil]
  rw [raise_of_not_protocol _ rfl]
  simp only [State.closedClip, gapsAfterClose_eq]
  rfl

end completing

/-! ## CLIP_CLOSE (R99 to R101) -/

section closing

variable {s : State} {high low flags : Byte} {point : List Byte} {p : Option Timecode} {c : Clip} {out : Timecode}
  {origin : Origin} {g : Segment} {moved : Bool} {id : Nat}

theorem clipClose_lengthOk (hp : point.length = 4 * (flags.toNat % 2)) :
    lengthOk .clipClose (high :: low :: flags :: point) = true :=
  pointLengthOk_flags [high, low] hp

theorem clipClose_badValue (hp : optionalPoint 2 (high :: low :: flags :: point) = p)
    (bad : 1 < flags.toNat ∨ s.validPoint p = false) :
    clipClose origin (high :: low :: flags :: point) s = refuse .badValue s := by
  unfold clipClose
  simp only [field_zero_one, field_succ, hp, maskDefined_one]
  refine if_pos ?_
  simpa using bad

section accepted

variable (hp : optionalPoint 2 (high :: low :: flags :: point) = p) (defined : flags.toNat < 2) (valid : s.validPoint p = true)
include hp defined valid

theorem clipClose_unnamed (unnamed : s.clipNamed (high.toNat * 256 + low.toNat) = none) :
    clipClose origin (high :: low :: flags :: point) s = refuse .notFound s := by
  simp [clipClose, hp, maskDefined_one, defined, valid, bodyClip_cons, unnamed]

/-- The checks of CLIP_CLOSE on the clip, in their order (R99). -/
theorem clipClose_named (named : s.clipNamed (high.toNat * 256 + low.toNat) = some c)
    (wanted : out = p.getD s.timing.timecode) : clipClose origin (high :: low :: flags :: point) s =
      if c.record ≠ .opened ∨ c.outPending = true then refuse .badState s
      else if s.inFuture out = true ∨ s.earlier out c.inPoint = true then refuse .badValue s
      else beginClose c out origin s := by
  simp [clipClose, hp, maskDefined_one, defined, valid, bodyClip_cons, named, ← wanted]

end accepted

/-- The record of a clip whose out-point has been placed at a request (R99, R100). -/
def Clip.asked (out : Timecode) (moved : Bool) (k : Clip) : Clip :=
  { k with outPoint := some out, clamped := k.clamped || moved, closeOrigin := some .request }

/-- A change that leaves an out-point where it was asked for sets no flag. -/
theorem asked_unmoved (out : Timecode) :
    Clip.asked out false = fun k => { k with outPoint := some out, closeOrigin := some .request } := by
  funext k
  simp [Clip.asked]

/-- The state in which a close at a request has begun, and its out-point is yet to be placed. -/
abbrev State.begun (s : State) (id : Nat) (out : Timecode) : State :=
  s.modClip id fun k => { k with outPoint := some out, closeOrigin := some .request }

theorem beginClose_waits (placed : s.placeOut c out = .waits) : beginClose c out .request s =
    answerAccepted (.clipClosing out false) (s.modClip c.id fun k =>
      { k with outPoint := some out, closeOrigin := some .request, outPending := true }) := by
  have begun : (s.begun c.id out).placeOut c out = .waits := placed
  unfold beginClose
  simp only [begun]
  rw [modClip_modClip (by intro _; rfl)]

/-- An out-point in a segment, moved back to its last picture or not (R100, cases 2 to 5). -/
theorem beginClose_inSegment {final : Timecode} (placed : s.placeOut c out = .inSegment g.id moved)
    (found : s.segment? g.id = some g) (ends : final = if moved then lastPicture g else out) :
    beginClose c out .request s = answerAccepted (.clipClosing final moved)
      (closeInSegment c.id g.id .request (s.modClip c.id (Clip.asked final moved))) := by
  subst ends
  have begun : (s.begun c.id out).placeOut c out = .inSegment g.id moved := placed
  have found' : (s.begun c.id out).segment? g.id = some g := found
  unfold beginClose
  cases moved with
  | false =>
    simp only [begun]
    rw [if_neg Bool.false_ne_true, asked_unmoved]
    rfl
  | true =>
    simp only [begun, found', Option.map_some, Option.getD_some]
    rw [modClip_modClip (by intro _; rfl)]
    have asked : Clip.asked (lastPicture g) true = fun k =>
        { k with outPoint := some (lastPicture g), clamped := true, closeOrigin := some .request } := by
      funext k
      simp [Clip.asked]
    simp only [if_true, asked]
    rfl

theorem beginClose_empty (placed : s.placeOut c out = .empty) : beginClose c out .request s =
    answerAccepted (.clipClosing out false) (completeClose c.id none .request (s.modClip c.id (Clip.asked out false))) := by
  have begun : (s.begun c.id out).placeOut c out = .empty := placed
  rw [asked_unmoved]
  unfold beginClose
  simp only [begun]
  rfl

/-- What a close asked for by a request leaves when it completes (R101). -/
structure ClosesAt (s u : State) (id : Nat) (c : Clip) (outSegment : Option Nat) (removed : List Nat) (final : Timecode)
    (moved : Bool) : Prop where
  held : u.clip? id = some (s.closedClip { c with clamped := c.clamped || moved } outSegment removed final)
  others : ∀ other, other ≠ id → u.clip? other = s.clip? other
  pins : 256 ≤ s.store.freePool.length → ∀ j, u.segment? j = (s.segment? j).map fun h =>
    { h with pinCount := h.pinCount - removed.count j }
  frame : removed = [] → u = { s with
    clipLog := u.clipLog
    control := queueNotice ⟨.clipClosed id final
      (s.digestOf (s.closedClip { c with clamped := c.clamped || moved } outSegment removed final).range)
      (s.closedClip { c with clamped := c.clamped || moved } outSegment removed final).range.length
      (s.closedClip { c with clamped := c.clamped || moved } outSegment removed final).gaps.length
      .request, s.timing.timecode⟩ s.control }
  dram : u.store.dram = s.store.dram

theorem completeClose_asked (held : s.clip? id = some c) (outSegment : Option Nat) (final : Timecode) (moved : Bool) :
    ClosesAt s (completeClose id outSegment .request (s.modClip id (Clip.asked final moved))) id c outSegment
      (segmentsAfter outSegment c.range) final moved := by
  have asked : (s.modClip id (Clip.asked final moved)).clip? id = some (c.asked final moved) :=
    clip?_modClip_same (by intro _; rfl) held
  refine ⟨clip?_completeClose asked, fun other ne => ?_, fun reserve j => ?_, fun whole => ?_, ?_⟩
  · exact ((ClipAlone.completeClose outSegment .request _).others other ne).trans (clip?_modClip_other (by intro _; rfl) ne)
  · exact segment?_completeClose asked reserve j
  · have frame := completeClose_whole_frame (out := outSegment) (cause := .request) asked whole
    rw [whole]
    exact frame
  · rw [show _ = _ from completeClose_only id outSegment .request _]
    rfl

/-- A close in a FILLING segment makes the clip CLOSING (R100, R101). -/
theorem closeInSegment_asked {final : Timecode} (found : s.segment? g.id = some g) (filling : g.state = .filling) :
    closeInSegment id g.id .request (s.modClip id (Clip.asked final moved)) =
      s.modClip id fun k => (k.asked final moved).closingIn g.id :=
  (closeInSegment_filling (s := s.modClip id (Clip.asked final moved)) found filling).trans
    (modClip_modClip (by intro _; rfl))

end closing

/-- Settles O36: the cases of R100, what a handover tells the clips and how each is settled, and CLIP_CLOSE with its checks in
their order and the close that it begins. -/
theorem clipCloseFindsItsOutSegment : Obligations.ClipCloseFindsItsOutSegment := by
  refine ⟨placeOut_cases, fun s high low flags rest asks undefined hp => ?_, handOver_tells, handedOver_settles,
    fun s high low point asks => ?_⟩
  · exact runRequest_serve_refused asks (clipClose_lengthOk hp) (clipClose_badValue rfl (.inl undefined))
  obtain ⟨flags, rest, bytes, defined, hp⟩ := pointBytes_eq point
  have carried : optionalPoint 2 (high :: low :: flags :: rest) = pointTimecode point := by
    rw [← optionalPoint_pointBytes point [], bytes, List.append_nil]
    exact (optionalPoint_succ _ _ 1).trans (optionalPoint_succ _ _ 0)
  have length := clipClose_lengthOk (high := high) (low := low) hp
  rw [bytes] at asks
  refine ⟨fun invalid => ?_, fun valid => ⟨fun unnamed => ?_, fun c named => ?_⟩⟩
  · exact runRequest_serve_refused asks length (clipClose_badValue carried (.inr invalid))
  · exact runRequest_serve_refused asks length (clipClose_unnamed carried defined valid unnamed)
  have checked := clipClose_named (origin := .request) carried defined valid named rfl
  have same := id_of_clipNamed named
  refine ⟨fun bad => ?_, fun opened outPlaced => ?_⟩
  · exact runRequest_serve_refused asks length (checked.trans (if_pos bad))
  rw [if_neg (not_or.mpr ⟨not_not.mpr opened, Bool.eq_false_iff.mp outPlaced⟩)] at checked
  refine ⟨fun bad => ?_, fun past late => ?_⟩
  · exact runRequest_serve_refused asks length (checked.trans (if_pos bad))
  rw [if_neg (not_or.mpr ⟨Bool.eq_false_iff.mp past, Bool.eq_false_iff.mp late⟩)] at checked
  refine ⟨fun now waits => ?_, fun g moved placed found => ⟨fun filling => ?_, fun complete held => ?_⟩,
    fun placed held => ?_⟩
  · have begun := beginClose_waits (placeOut_now now waits)
    rw [same] at begun
    exact runRequest_serve_accepted asks length (checked.trans begun)
  · have begun := beginClose_inSegment placed found rfl
    rw [same, closeInSegment_asked found filling] at begun
    exact runRequest_serve_accepted asks length (checked.trans begun)
  · have begun := beginClose_inSegment placed found rfl
    rw [same, closeInSegment_complete (s := s.modClip _ _) found complete] at begun
    have ends := completeClose_asked held (some g.id)
      (if moved then lastPicture g else (pointTimecode point).getD s.timing.timecode) moved
    exact ⟨_, runRequest_serve_accepted asks length (checked.trans begun), ends.held, ends.others, ends.pins, ends.frame,
      ends.dram⟩
  · have begun := beginClose_empty placed
    rw [same] at begun
    have ends := completeClose_asked held none ((pointTimecode point).getD s.timing.timecode) false
    exact ⟨_, runRequest_serve_accepted asks length (checked.trans begun), ends.held, ends.others, ends.pins, ends.frame,
      ends.dram⟩

end Sys2Proof.Machine
